-- ==== Sys2Proof/Word.lean ====
section
/-! DEFINITION. The word types of the machine (00 R4) and the finite map in which sparse state is held. -/

namespace Sys2Proof

/-- A 64-bit register or memory word. -/
abbrev Word := BitVec 64

/-- A byte of memory. -/
abbrev Byte := BitVec 8

/-- A sparse table from numbers to values: pairs in rising order of number, no number twice.
What a number that is not listed holds is the reader's default. -/
abbrev AMap (α : Type) := List (Nat × α)

/-- The entry of number `k`, if one is listed. -/
def AMap.find {α : Type} : AMap α → Nat → Option α
  | [], _ => none
  | (j, x) :: m, k => if k = j then some x else AMap.find m k

/-- The entry of number `k`, or `d` where none is listed. -/
def AMap.getD {α : Type} (m : AMap α) (k : Nat) (d : α) : α :=
  match AMap.find m k with
  | some x => x
  | none => d

/-- The table with `x` as the entry of number `k`. -/
def AMap.put {α : Type} : AMap α → Nat → α → AMap α
  | [], k, x => [(k, x)]
  | (j, y) :: m, k, x =>
    if k < j then (k, x) :: (j, y) :: m
    else if k = j then (k, x) :: m
    else (j, y) :: AMap.put m k x

/-- The table without an entry of number `k`. -/
def AMap.drop {α : Type} : AMap α → Nat → AMap α
  | [], _ => []
  | (j, y) :: m, k => if k = j then m else (j, y) :: AMap.drop m k

end Sys2Proof
end

