-- ==== Sys2Proof/Config.lean ====
section
/-! DEFINITION. What the package fixes (00 R1) and the values the specification leaves open: opaque constants, of which nothing can be computed. -/

namespace Sys2Proof.Config

/-- Dies of the package (R1). -/
def dies : Nat := 4
/-- Main cores of one die (R1). -/
def coresPerDie : Nat := 160
/-- Main cores of the package (R1). -/
def mainCores : Nat := 640
/-- Control cores of one die (R1). -/
def controlPerDie : Nat := 16
/-- Main and control cores together; control core `c` of die `d` has number 640 + 16 d + c. -/
def allCores : Nat := 704
/-- Fibre places of one core (R1). -/
def places : Nat := 2048
/-- Block-table entries of one core (R1). -/
def blockEntries : Nat := 256
/-- Ferries in flight on one core (R137). -/
def ferriesPerCore : Nat := 32
/-- Launch queues (R1). -/
def launchQueues : Nat := 256
/-- Wait-table entries of one die (R338). -/
def waitEntries : Nat := 4096

/-- The revoke bits of the fused key slots (R394): DESIGN CHOICE none revoked, log entry 3, unsafe. -/
def keyRevoked : List Bool := [false, false, false, false]

/-- FREE VALUE. Which of two outcomes the specification allows happens (R3): applied to the counter of State,
and to two numbers that tell apart the choices of one step. Log entry 7. -/
opaque freeBool : Nat → Nat → Nat → Bool

/-- FREE VALUE. A number that the specification leaves open, fresh for each count and index. Log entry 7. -/
opaque freeNat : Nat → Nat → Nat

/-- FREE VALUE. The FP32 result of an approximate function on an input, within its bound (R188):
function number (0 FRCP to 5 FCOS) and input bits; a fixed function of them. Log entry 10. -/
opaque approx : Nat → BitVec 32 → BitVec 32

/-- FREE VALUE. The two SHA-384 key hashes that a fused key slot holds (R394): slot, and 0 for the RSA-3072 key, 1 for the SLH-DSA key.
The specification gives no key. Log entry 11. -/
opaque keyHash : Nat → Nat → BitVec 384

/-- FREE VALUE. RSASSA-PSS verification with SHA-384 (R394), from the modulus, the signature and the message. Log entry 11. -/
opaque rsaVerifies : List Byte → List Byte → List Byte → Bool

/-- FREE VALUE. SLH-DSA-SHA2-192s verification (R394), from the public key, the signature and the message. Log entry 11. -/
opaque slhVerifies : List Byte → List Byte → List Byte → Bool

/-- FREE VALUE. SHA-384 of a string of bytes as 48 bytes (R394, R395). Log entry 11. -/
opaque sha384 : List Byte → BitVec 384

/-- FREE VALUE. The signature bytes of an attestation report (R397), from its first 512 bytes:
byte number of the report. Log entry 11. -/
opaque attestByte : List Byte → Nat → Byte

/-- FREE VALUE. A byte of a device certificate (R397): certificate 0 RSA or 1 SLH-DSA, and byte number. Log entry 11. -/
opaque certByte : Nat → Nat → Byte

/-- FREE VALUE. The length of a device certificate (R397). Log entry 11. -/
opaque certLength : Nat → Nat

/-- FREE VALUE. The trained state after an Adam step (R362): the state before, the samples, the parameters of RC_ADAM, the steps taken
before it since the state was loaded, and the slot word's number. The loss-gradient arithmetic is not given. Log entry 12. -/
opaque adamWord : List (BitVec 32) → List (List Word) → Word → Nat → Nat → BitVec 32

/-- FREE VALUE. Where in the training-state area (R360) the FP32 master weight with a number lies, in words.
The layout is not given. Log entry 12. -/
opaque tstateIndex : Nat → Nat

/-- FREE VALUE. The set of a die L2 that a line falls in, modulo 262,144 (R44): 512 MiB in 16 ways of 128 bytes; the
function is not given. Log entry 63. -/
opaque l2Set : Nat → Nat

/-- FREE VALUE. The set of an instruction cache that a line falls in, modulo 128 (R55). Log entry 63. -/
opaque icacheSet : Nat → Nat

/-- FREE VALUE. The set of a core's data TLB that a context and page fall in, modulo 64 (512 entries, 8 ways). Log entry 63. -/
opaque tlbSet : Nat → Nat → Nat

/-- FREE VALUE. The set of a die's snoop filter that a line falls in, modulo 16,384 (R73). Log entry 63. -/
opaque snoopSet : Nat → Nat

end Sys2Proof.Config
end

