-- ==== Sys2Proof/Syntax.lean ====
section
/-! DEFINITION. The instructions and steps of the MRN-640: one constructor of `Instr` per row of the opcode table.
Instruction words keep the fields of their class (09 R196 to R205); a step of another agent carries what it acts on
(95_what_each_step_holds). -/

namespace Sys2Proof

/-- The operand types of TY (R201). -/
inductive Ty where
  | i32 | i64 | u32 | u64 | f32 | f64 | f16 | bf16 | e4m3 | e5m2 | i8 | u8 | b4
  deriving DecidableEq, Repr

/-- The rounding directions of RM (R178). -/
inductive Rm where
  | rne | rtz | rup | rdn
  deriving DecidableEq, Repr

/-- The access sizes of SZ (R202): 1, 2, 4, 8 and 16 bytes. -/
inductive Sz where
  | b1 | b2 | b4 | b8 | b16
  deriving DecidableEq, Repr

/-- The orderings of ORD (R202, R203). -/
inductive Ord where
  | plain | acq | rel | ar
  deriving DecidableEq, Repr

/-- The atomic operations of AOP (R203). -/
inductive Aop where
  | add | mins | maxs | minu | maxu | and | or | xor | exch | incw | decw | fadd
  deriving DecidableEq, Repr

/-- The flag attachment FL (R198). -/
inductive Fl where
  | none | setA | setB
  deriving DecidableEq, Repr

/-- The types a pair half accepts (R205). -/
inductive Hty where
  | i32 | i64 | u32 | u64 | f32 | f64
  deriving DecidableEq, Repr

/-- The coherence domains of the region table (R28). -/
inductive Domain where
  | core | die | package | pod | host
  deriving DecidableEq, Repr

/-- The fields every full-format word has besides its operands (R196): guard negation N, guard G, FL and T. -/
structure Ctl where
  n  : Bool
  g  : BitVec 4
  fl : Fl
  t  : Bool
  deriving DecidableEq, Repr

/-- A word of the ALU and FP class (R201). -/
structure AluOp where
  ctl : Ctl
  d   : BitVec 8
  a   : BitVec 8
  b   : BitVec 8
  c   : BitVec 8
  ty  : Ty
  rm  : Rm
  sat : Bool
  opx : BitVec 8
  deriving DecidableEq, Repr

/-- A word of the immediate form (R200). -/
structure ImmOp where
  ctl : Ctl
  d   : BitVec 8
  a   : BitVec 8
  imm : BitVec 31
  deriving DecidableEq, Repr

/-- A word of the memory class (R202). -/
structure MemOp where
  ctl  : Ctl
  d    : BitVec 8
  a    : BitVec 8
  b    : BitVec 8
  c    : BitVec 8
  sz   : Sz
  os   : Bool
  sx   : Bool
  ord  : Ord
  nf   : Bool
  imm7 : BitVec 7
  deriving DecidableEq, Repr

/-- A word of the atomic class (R203); `scr` is SPACE. -/
structure AtomOp where
  ctl  : Ctl
  d    : BitVec 8
  a    : BitVec 8
  b    : BitVec 8
  c    : BitVec 8
  sz   : Sz
  os   : Bool
  scr  : Bool
  ord  : Ord
  aop  : Aop
  imm4 : BitVec 4
  deriving DecidableEq, Repr

/-- A word of the peer class (R204). -/
structure PeerOp where
  ctl  : Ctl
  d    : BitVec 8
  a    : BitVec 8
  b    : BitVec 8
  c    : BitVec 8
  sz   : Sz
  ord  : Ord
  aop  : Aop
  imm4 : BitVec 4
  deriving DecidableEq, Repr

/-- A word whose MOD layout is its own instruction's (R212, "own"). -/
structure OwnOp where
  ctl : Ctl
  d   : BitVec 8
  a   : BitVec 8
  b   : BitVec 8
  c   : BitVec 8
  mod : BitVec 15
  deriving DecidableEq, Repr

/-- One half of a pair word (R205); OP6 is the constructor of `Instr`. -/
structure Half where
  g  : BitVec 2
  t  : Bool
  d  : BitVec 7
  i  : Bool
  s  : BitVec 7
  ty : Hty
  deriving DecidableEq, Repr

/-- A clause header (R209). SETA and SETB are 0 to 11, or `none` for 15. -/
structure Header where
  len  : BitVec 4
  wait : BitVec 12
  setA : Option (Fin 12)
  setB : Option (Fin 12)
  e    : Bool
  q    : Bool
  yh   : BitVec 2
  deriving DecidableEq, Repr

/-- What a die asks of the home directory for a word, or the home of a die (R67, R68). -/
inductive DirReq where
  | read | own | invalidate | forward
  deriving DecidableEq, Repr

/-- What a fabric request asks for (R391): a write has one enable for each byte, and an atomic says whether its old value is wanted.
`unsupported` is any transaction outside the set. -/
inductive FabricOp where
  | read   (va : Word) (bytes : Nat)
  | write  (va : Word) (data : List Byte) (enables : List Bool)
  | atomic (va : Word) (sz : Sz) (aop : Aop) (operand : Word) (value : Bool)
  | cas    (va : Word) (sz : Sz) (compare new : Word)
  | unsupported
  deriving DecidableEq, Repr

/-- A request packet from another package: sender, its incarnation, logical plane, tag, the context of the span,
and what it asks (R77 to R79, R391). -/
structure FabricRequest where
  src   : Nat
  inc   : BitVec 16
  plane : Nat
  tag   : BitVec 16
  ctx   : BitVec 12
  op    : FabricOp
  /-- Die and token of the sender's wait-table entry for a page that is not present here, and the PC, as a fault record gives them
  (R340). DEDUCED, log entry 77: the packet carries them. -/
  entry : Nat × Nat
  pc    : BitVec 48
  deriving DecidableEq, Repr

/-- The accelerator that a packet comes from: its identifier and the incarnation that it carries (R79). -/
structure Sender where
  id  : Nat
  inc : BitVec 16
  deriving DecidableEq, Repr

/-- A READY report of a rank of a span (R166), from the rank's package. -/
structure SpanRank where
  sender : Sender
  rank   : Nat
  deriving DecidableEq, Repr

/-- What a target answers (R27, R78): the bytes read, none for a write; a page of the target that is not present; or
the code with which a check at the target fails. -/
inductive PeerAnswer where
  /-- The bytes; the home's line, which a BISnp names later (R73, R74); and whether back-invalidations of the value are still in
  progress at the home (R92, R95). -/
  | data (bytes : List Byte) (line : Nat) (busy : Bool)
  | page
  /-- The page is not present and the target's fault buffer is disabled (R343). -/
  | pageFault
  /-- Not an answer to a request: a replay at the target is carried to the entry of a die and token (R340); with `exhausted` it traps
  what waits there. -/
  | replay (die token : Nat) (exhausted : Bool)
  | protection
  | formatSize
  | dataLost (pa die : Nat)
  deriving DecidableEq, Repr

/-- A response or acknowledgement packet from another package (R77). -/
structure FabricResponse where
  src   : Nat
  inc   : BitVec 16
  plane : Nat
  tag   : BitVec 16
  ans   : PeerAnswer
  deriving DecidableEq, Repr

/-- The rows of the opcode table, in its order: instruction words, pair halves, and the steps of the other agents. -/
inductive Instr where
  /-- IADD (R226). -/
  | iadd (o : AluOp)
  /-- ISUB (R226). -/
  | isub (o : AluOp)
  /-- IADDI (R230). -/
  | iaddi (o : ImmOp)
  /-- IMUL (R226). -/
  | imul (o : AluOp)
  /-- IMULH (R226). -/
  | imulh (o : AluOp)
  /-- IMAD (R226). -/
  | imad (o : AluOp)
  /-- IDIV (R234). -/
  | idiv (o : AluOp)
  /-- IREM (R234). -/
  | irem (o : AluOp)
  /-- IMIN (R226). -/
  | imin (o : AluOp)
  /-- IMAX (R226). -/
  | imax (o : AluOp)
  /-- IABS (R226). -/
  | iabs (o : AluOp)
  /-- INEG (R226). -/
  | ineg (o : AluOp)
  /-- AND (R226). -/
  | and (o : AluOp)
  /-- OR (R226). -/
  | or (o : AluOp)
  /-- XOR (R226). -/
  | xor (o : AluOp)
  /-- ANDN (R226). -/
  | andn (o : AluOp)
  /-- SHL (R227). -/
  | shl (o : AluOp)
  /-- SHR (R227). -/
  | shr (o : AluOp)
  /-- SAR (R227). -/
  | sar (o : AluOp)
  /-- ROT (R227). -/
  | rot (o : AluOp)
  /-- BFX (R228). -/
  | bfx (o : AluOp)
  /-- BFI (R228). -/
  | bfi (o : AluOp)
  /-- POPC (R226). -/
  | popc (o : AluOp)
  /-- CLZ (R226). -/
  | clz (o : AluOp)
  /-- BREV (R226). -/
  | brev (o : AluOp)
  /-- LEA (R229). -/
  | lea (o : AluOp)
  /-- MOVI (R230). -/
  | movi (o : ImmOp)
  /-- MOVHI (R230). -/
  | movhi (o : ImmOp)
  /-- MOV (R226). -/
  | mov (o : AluOp)
  /-- SADD (R231). -/
  | sadd (o : AluOp)
  /-- IDOT4 (R232). -/
  | idot4 (o : AluOp)
  /-- PERMB (R233). -/
  | permb (o : AluOp)
  /-- FADD (R235). -/
  | fadd (o : AluOp)
  /-- FSUB (R235). -/
  | fsub (o : AluOp)
  /-- FMUL (R235). -/
  | fmul (o : AluOp)
  /-- FFMA (R236). -/
  | ffma (o : AluOp)
  /-- FMIN (R235). -/
  | fmin (o : AluOp)
  /-- FMAX (R235). -/
  | fmax (o : AluOp)
  /-- FDIV (R237). -/
  | fdiv (o : AluOp)
  /-- FSQRT (R237). -/
  | fsqrt (o : AluOp)
  /-- FRCP (R188). -/
  | frcp (o : AluOp)
  /-- FRSQ (R188). -/
  | frsq (o : AluOp)
  /-- FEXP2 (R188). -/
  | fexp2 (o : AluOp)
  /-- FLOG2 (R188). -/
  | flog2 (o : AluOp)
  /-- FSIN (R188). -/
  | fsin (o : AluOp)
  /-- FCOS (R188). -/
  | fcos (o : AluOp)
  /-- FCLASS (R238). -/
  | fclass (o : AluOp)
  /-- FRND (R239). -/
  | frnd (o : AluOp)
  /-- FSCALE (R239). -/
  | fscale (o : AluOp)
  /-- FFRXP (R239). -/
  | ffrxp (o : AluOp)
  /-- CVTFF (R240). -/
  | cvtff (o : AluOp)
  /-- CVTFI (R240). -/
  | cvtfi (o : AluOp)
  /-- CVTIF (R240). -/
  | cvtif (o : AluOp)
  /-- CVTN (R241). -/
  | cvtn (o : AluOp)
  /-- CVTW (R242). -/
  | cvtw (o : AluOp)
  /-- B4ENC (R243). -/
  | b4enc (o : AluOp)
  /-- B4DEC (R243). -/
  | b4dec (o : AluOp)
  /-- ICMP (R244). -/
  | icmp (o : AluOp)
  /-- ICMPI (R245). -/
  | icmpi (o : ImmOp)
  /-- FCMP (R244). -/
  | fcmp (o : AluOp)
  /-- SEL (R246). -/
  | sel (o : OwnOp)
  /-- PLOP (R247). -/
  | plop (o : OwnOp)
  /-- PMOV (R248). -/
  | pmov (o : OwnOp)
  /-- QSWZ (R250). -/
  | qswz (o : OwnOp)
  /-- QDDX (R251). -/
  | qddx (o : AluOp)
  /-- QDDY (R251). -/
  | qddy (o : AluOp)
  /-- QVOTE (R252). -/
  | qvote (o : OwnOp)
  /-- RDSR (R254). -/
  | rdsr (o : OwnOp)
  /-- GMOV (R255). -/
  | gmov (o : OwnOp)
  /-- GWR (R255). -/
  | gwr (o : OwnOp)
  /-- FSPAWN (R256). -/
  | fspawn (o : OwnOp)
  /-- LD (R258). -/
  | ld (o : MemOp)
  /-- ST (R258). -/
  | st (o : MemOp)
  /-- LDS (R258). -/
  | lds (o : MemOp)
  /-- STS (R258). -/
  | sts (o : MemOp)
  /-- LDV (R261). -/
  | ldv (o : MemOp)
  /-- LDP (R264). -/
  | ldp (o : PeerOp)
  /-- STP (R264). -/
  | stp (o : PeerOp)
  /-- PREF (R262). -/
  | pref (o : MemOp)
  /-- ATOM (R266). -/
  | atom (o : AtomOp)
  /-- ACAS (R266). -/
  | acas (o : AtomOp)
  /-- RED (R266). -/
  | red (o : AtomOp)
  /-- ATOMP (R268). -/
  | atomp (o : PeerOp)
  /-- ACASP (R268). -/
  | acasp (o : PeerOp)
  /-- REDP (R268). -/
  | redp (o : PeerOp)
  /-- FENCE (R270). -/
  | fence (o : OwnOp)
  /-- BAR (R271). -/
  | bar (o : OwnOp)
  /-- BARA (R272). -/
  | bara (o : OwnOp)
  /-- BARC (R271). -/
  | barc (o : OwnOp)
  /-- CWAIT (R273). -/
  | cwait (o : OwnOp)
  /-- CCLOSE (R273). -/
  | cclose (o : OwnOp)
  /-- MBARR (R276). -/
  | mbarr (o : OwnOp)
  /-- MBWAIT (R276). -/
  | mbwait (o : OwnOp)
  /-- QJOIN (R277). -/
  | qjoin (o : OwnOp)
  /-- NANO (R278). -/
  | nano (o : OwnOp)
  /-- BR (R279). -/
  | br (o : ImmOp)
  /-- BRX (R279). -/
  | brx (o : ImmOp)
  /-- JMPR (R279). -/
  | jmpr (o : OwnOp)
  /-- CALL (R279). -/
  | call (o : ImmOp)
  /-- CALLR (R279). -/
  | callr (o : OwnOp)
  /-- RET (R279). -/
  | ret (o : OwnOp)
  /-- EXIT (R129). -/
  | exit (o : OwnOp)
  /-- YIELD (R279). -/
  | yield (o : OwnOp)
  /-- TRAP (R281). -/
  | trap (o : OwnOp)
  /-- BKPT (R281). -/
  | bkpt (o : OwnOp)
  /-- MCLAIM (R292). -/
  | mclaim (o : OwnOp)
  /-- MREL (R292). -/
  | mrel (o : OwnOp)
  /-- MLDA (R293). -/
  | mlda (o : OwnOp)
  /-- MLDB (R293). -/
  | mldb (o : OwnOp)
  /-- MMA (R296). -/
  | mma (o : OwnOp)
  /-- MBEGIN (R296). -/
  | mbegin (o : OwnOp)
  /-- MEND (R296). -/
  | mend (o : OwnOp)
  /-- MZERO (R294). -/
  | mzero (o : OwnOp)
  /-- MDRAIN (R295). -/
  | mdrain (o : OwnOp)
  /-- MLDC (R294). -/
  | mldc (o : OwnOp)
  /-- MSIG (R297). -/
  | msig (o : OwnOp)
  /-- MWAIT (R297). -/
  | mwait (o : OwnOp)
  /-- MLOOP (R291). -/
  | mloop (o : ImmOp)
  /-- MSTOP (R291). -/
  | mstop (o : OwnOp)
  /-- MMOVI (R291). -/
  | mmovi (o : ImmOp)
  /-- MADD (R291). -/
  | madd (o : OwnOp)
  /-- TCOPY (R300). -/
  | tcopy (o : OwnOp)
  /-- TCOPYP (R304). -/
  | tcopyp (o : OwnOp)
  /-- HALO (R306). -/
  | halo (o : OwnOp)
  /-- ARED (R308). -/
  | ared (o : OwnOp)
  /-- BCAST (R309). -/
  | bcast (o : OwnOp)
  /-- TFILL (R303). -/
  | tfill (o : OwnOp)
  /-- RQRY (R313). -/
  | rqry (o : OwnOp)
  /-- RQNEXT (R315). -/
  | rqnext (o : OwnOp)
  /-- RCQ (R317). -/
  | rcq (o : OwnOp)
  /-- RCQT (R318). -/
  | rcqt (o : OwnOp)
  /-- RCFLIP (R319). -/
  | rcflip (o : OwnOp)
  /-- QPUSH (R321). -/
  | qpush (o : OwnOp)
  /-- QPOP (R321). -/
  | qpop (o : OwnOp)
  /-- RCLS (R324). -/
  | rcls (o : OwnOp)
  /-- RSUB (R325). -/
  | rsub (o : OwnOp)
  /-- TEXS (R327). -/
  | texs (o : OwnOp)
  /-- RESID_CREATE (R328). -/
  | residCreate (o : OwnOp)
  /-- RESID_DESTROY (R328). -/
  | residDestroy (o : OwnOp)
  /-- RESID_SETPRIO (R328). -/
  | residSetprio (o : OwnOp)
  /-- RESID_SETPIN (R328). -/
  | residSetpin (o : OwnOp)
  /-- RESID_PROMOTE (R328). -/
  | residPromote (o : OwnOp)
  /-- RESID_DEMOTE (R328). -/
  | residDemote (o : OwnOp)
  /-- RESID_READ (R329). -/
  | residRead (o : OwnOp)
  /-- VPUB (R330). -/
  | vpub (o : OwnOp)
  /-- VRECL (R330). -/
  | vrecl (o : OwnOp)
  /-- CWB (R58). -/
  | cwb (o : OwnOp)
  /-- CINV (R58). -/
  | cinv (o : OwnOp)
  /-- IINV (R58). -/
  | iinv (o : OwnOp)
  /-- FETCHB (R331). -/
  | fetchb (o : OwnOp)
  /-- RDTIME (R332). -/
  | rdtime (o : OwnOp)
  /-- PERFR (R333). -/
  | perfr (o : OwnOp)
  /-- LNCH_LAUNCH (R156). -/
  | lnchLaunch (o : OwnOp)
  /-- LNCH_BIND (R334). -/
  | lnchBind (o : OwnOp)
  /-- LNCH_UNBIND (R334). -/
  | lnchUnbind (o : OwnOp)
  /-- MTCR (R335). -/
  | mtcr (o : OwnOp)
  /-- MFCR (R335). -/
  | mfcr (o : OwnOp)
  /-- HALT (R336). -/
  | halt (o : OwnOp)
  /-- CKPT (R337). -/
  | ckpt (o : OwnOp)
  /-- HNOP (R206). -/
  | hnop (o : Half)
  /-- HALF_IADD (R206). -/
  | halfIadd (o : Half)
  /-- HALF_ISUB (R206). -/
  | halfIsub (o : Half)
  /-- HALF_AND (R206). -/
  | halfAnd (o : Half)
  /-- HALF_OR (R206). -/
  | halfOr (o : Half)
  /-- HALF_XOR (R206). -/
  | halfXor (o : Half)
  /-- HALF_SHL (R206). -/
  | halfShl (o : Half)
  /-- HALF_SHR (R206). -/
  | halfShr (o : Half)
  /-- HALF_SAR (R206). -/
  | halfSar (o : Half)
  /-- HALF_MOV (R206). -/
  | halfMov (o : Half)
  /-- HALF_IMIN (R206). -/
  | halfImin (o : Half)
  /-- HALF_IMAX (R206). -/
  | halfImax (o : Half)
  /-- HALF_FADD (R206). -/
  | halfFadd (o : Half)
  /-- HALF_FSUB (R206). -/
  | halfFsub (o : Half)
  /-- HALF_FMUL (R206). -/
  | halfFmul (o : Half)
  /-- HALF_FMIN (R206). -/
  | halfFmin (o : Half)
  /-- HALF_FMAX (R206). -/
  | halfFmax (o : Half)
  /-- HALF_MOVI (R206). -/
  | halfMovi (o : Half)
  /-- HALF_IABS (R206). -/
  | halfIabs (o : Half)
  /-- HALF_INEG (R206). -/
  | halfIneg (o : Half)
  /-- FERRY_SELECTION (R138). -/
  | ferrySelection (core : Nat)
  /-- ENTRY_SPILL (R135). -/
  | entrySpill (core : Nat)
  /-- RESULT_LANDS (R150). -/
  | resultLands (core : Nat) (place : Nat) (idx : Nat)
  /-- LOTTERY_DRAW (R162). -/
  | lotteryDraw
  /-- CLUSTER_PLACEMENT (R164). -/
  | clusterPlacement (die : Nat)
  /-- SPAN_READY (R166). -/
  | spanReady (rank : SpanRank) (spanId : BitVec 16)
  /-- BOUND_IDLE_EXPIRY (R167). -/
  | boundIdleExpiry (lq : Nat)
  /-- GROUP_END (R130). -/
  | groupEnd (core : Nat) (slot : Nat)
  /-- GRID_END (R168). -/
  | gridEnd (grid : Nat)
  /-- BAR_TIMEOUT (R147). -/
  | barTimeout (core : Nat) (slot : Nat) (phase : Nat)
  /-- NANO_EXPIRY (R278). -/
  | nanoExpiry (core : Nat) (ferry : Nat)
  /-- RETENTION_ENTRY (R60). -/
  | retentionEntry (core : Nat)
  /-- RETENTION_EXIT (R60). -/
  | retentionExit (core : Nat)
  /-- LEASE_SWEEP (R63). -/
  | leaseSweep (core : Nat)
  /-- BOUNCE_DECAY (R70). -/
  | bounceDecay
  /-- L1_FILL (R42). -/
  | l1Fill (core : Nat) (line : Nat) (dom : Domain)
  /-- WRITEBACK_ARRIVAL (R64). -/
  | writebackArrival (core : Nat) (line : Nat)
  /-- L2_EVICTION (R44). -/
  | l2Eviction (die : Nat) (line : Nat)
  /-- DIRECTORY_REQUEST (R67). -/
  | directoryRequest (die : Nat) (word : Nat) (req : DirReq)
  /-- BISNP_RECEIPT (R74). -/
  | bisnpReceipt (line : Nat) (home : Sender)
  /-- BIRSP_RECEIPT (R74). -/
  | birspReceipt (line : Nat) (holder : Sender)
  /-- RELEASE_PUSH_COMPLETE (R91). -/
  | releasePushComplete (core : Nat) (ferry : Nat)
  /-- SETTLE_NOTICE (R95). -/
  | settleNotice (core : Nat) (place : Nat) (home : Sender)
  /-- ENGINE_COMMAND_COMPLETE (R101). -/
  | engineCommandComplete (core : Nat) (slot : Nat) (queue : Nat)
  /-- PAGE_WALK (R11). -/
  | pageWalk (die : Nat) (ctx : BitVec 12) (va : Word)
  /-- FAULT_RECORD_WRITE (R340). -/
  | faultRecordWrite
  /-- SHOOTDOWN (R36). -/
  | shootdown (value : Word)
  /-- SHOOTDOWN_COMPLETE (R36). -/
  | shootdownComplete
  /-- REPLAY_PAGE (R341). -/
  | replayPage (value : Word)
  /-- REPLAY_TOKEN (R341). -/
  | replayToken (value : Word)
  /-- REPLAY_EXHAUSTED_PAGE (R341). -/
  | replayExhaustedPage (value : Word)
  /-- REPLAY_EXHAUSTED_TOKEN (R341). -/
  | replayExhaustedToken (value : Word)
  /-- FAULT_WATCHDOG (R343). -/
  | faultWatchdog (die : Nat) (token : Nat)
  /-- PRE_SAVE (R170). -/
  | preSave (value : Word)
  /-- PRE_RESTORE (R172). -/
  | preRestore (value : Word)
  /-- PRE_KILL (R173). -/
  | preKill (value : Word)
  /-- SAVE_RECORD_WRITE (R171). -/
  | saveRecordWrite
  /-- MOVE_START (R50). -/
  | moveStart
  /-- MOVE_PAGE (R50). -/
  | movePage
  /-- COPY_ON_WRITE (R116). -/
  | copyOnWrite (die : Nat) (token : Nat)
  /-- VPUB_ACCEPT (R118). -/
  | vpubAccept (core : Nat) (slot : Nat)
  /-- VPUB_COMPLETE (R118). -/
  | vpubComplete (ctx : BitVec 12) (region : BitVec 4)
  /-- VRECL_ACCEPT (R121). -/
  | vreclAccept (core : Nat) (slot : Nat)
  /-- VRECL_PAGE_VISIT (R121). -/
  | vreclPageVisit (ctx : BitVec 12) (region : BitVec 4)
  /-- RECOVERY_TIMER (R77). -/
  | recoveryTimer (plane : Nat)
  /-- FABRIC_REQUEST_ARRIVAL (R78). -/
  | fabricRequestArrival (pkt : FabricRequest)
  /-- PEER_TIMEOUT_DECLARATION (R80). -/
  | peerTimeoutDeclaration (peer : Nat)
  /-- PLANE_DOWN (R76). -/
  | planeDown (station : Nat)
  /-- PLANE_UP (R76). -/
  | planeUp (station : Nat)
  /-- DIE_DEATH (R81). -/
  | dieDeath (die : Nat)
  /-- POISONED_READ (R47). -/
  | poisonedRead (line : Nat) (port : Bool)
  /-- HOST_MEMORY_ACCESS (R388). -/
  | hostMemoryAccess (pa : Nat) (data : Option (List Byte))
  /-- RSUB_ACCEPT (R357). -/
  | rsubAccept (core : Nat) (slot : Nat)
  /-- RSUB_CONSUME (R358). -/
  | rsubConsume (die : Nat) (sub : Nat)
  /-- OCCLUSION_RECORD (R359). -/
  | occlusionRecord (sub : Nat)
  /-- RASTER_LINK_LOSS (R325). -/
  | rasterLinkLoss (ctx : BitVec 12) (target : Word)
  /-- ADAM_STEP (R362). -/
  | adamStep (net : Nat)
  /-- RCFLIP_ACCEPT (R319). -/
  | rcflipAccept (core : Nat) (slot : Nat)
  /-- TRAP_RECORD_PUSH (R345). -/
  | trapRecordPush
  /-- RESUME_RESUME (R347). -/
  | resumeResume (ctx : BitVec 12)
  /-- RESUME_END (R347). -/
  | resumeEnd (ctx : BitVec 12)
  /-- RESUME_KILL (R347). -/
  | resumeKill (ctx : BitVec 12)
  /-- BSPART_WRITE (R39). -/
  | bspartWrite (core : Nat) (value : Word)
  /-- PLANE_STEER_WRITE (R76). -/
  | planeSteerWrite (value : Word)
  /-- PLANE_QUIESCE_WRITE (R76). -/
  | planeQuiesceWrite (value : Word)
  /-- PEER_DECLARE_DEAD (R80). -/
  | peerDeclareDead (peer : Nat) (value : Word)
  /-- PEER_READMIT (R79). -/
  | peerReadmit (peer : Nat) (value : Word)
  /-- FAB_RTO_WRITE (R78). -/
  | fabRtoWrite (value : Word)
  /-- FABRIC_COUNTER_CLEAR (R83). -/
  | fabricCounterClear (counter : Nat)
  /-- PKG_CFG_WRITE (R387). -/
  | pkgCfgWrite (value : Word)
  /-- RC_SLOT_WRITE (R360). -/
  | rcSlotWrite (net : Nat) (value : Word)
  /-- ISLAND_OFF (R393). -/
  | islandOff (island : Nat)
  /-- ISLAND_ON (R393). -/
  | islandOn (island : Nat)
  /-- ISLAND_ADMISSION (R392). -/
  | islandAdmission
  /-- IMG_GO (R396). -/
  | imgGo (value : Word)
  /-- IMAGE_VERIFIED (R394). -/
  | imageVerified
  /-- ATT_GO (R397). -/
  | attGo (value : Word)
  /-- CKPT_RESTORE (R399). -/
  | ckptRestore (value : Word)
  /-- UCIE_LINK_TRAINING (R388). -/
  | ucieLinkTraining (up : BitVec 8)
  /-- PACKAGE_RESET (R61). -/
  | packageReset
  /-- CONTROL_REGISTER_WRITE (R386). -/
  | controlRegisterWrite (offset : Nat) (value : Word)
  /-- FABRIC_RESPONSE_ARRIVAL (R77). -/
  | fabricResponseArrival (rsp : FabricResponse)
  /-- TRAVERSAL_UNIT_ERROR (R316). -/
  | traversalUnitError (die : Nat) (unit : Nat)
  /-- CONTROL_THREAD_RESTART (R336). -/
  | controlThreadRestart (core : Nat) (thread : Nat) (pc : BitVec 48)
  /-- ATTESTATION_REPORT_WRITTEN (R397). -/
  | attestationReportWritten
  /-- CHECKPOINT_CUT_COMPLETE (R398). -/
  | checkpointCutComplete
  /-- CHECKPOINT_RESTORE_COMPLETE (R399). -/
  | checkpointRestoreComplete
  deriving DecidableEq, Repr

end Sys2Proof
end

