-- ==== Sys2Proof/WellFormed.lean ====
section
/-! DEFINITION. Check 3 of R215 on an instruction word (reserved bits and field values), the I and TY rules of a
pair half (R206), and the ranges of what a step of another agent carries. A word that fails is ILLEGAL_OP. -/

namespace Sys2Proof

namespace Ty

/-- The four plain integer types (R226). -/
def isInt : Ty → Bool
  | .i32 | .i64 | .u32 | .u64 => true
  | _ => false
/-- The six integer types of scalar conversions (R240). -/
def isCvtInt : Ty → Bool
  | .i32 | .i64 | .u32 | .u64 | .i8 | .u8 => true
  | _ => false
/-- I32 and I64. -/
def signed : Ty → Bool
  | .i32 | .i64 | .i8 => true
  | _ => false
/-- The six floating-point formats (R175). -/
def isFloat : Ty → Bool
  | .f64 | .f32 | .f16 | .bf16 | .e4m3 | .e5m2 => true
  | _ => false
/-- The types of floating-point arithmetic (R235). -/
def arith : Ty → Bool
  | .f64 | .f32 | .f16 | .bf16 => true
  | _ => false
/-- F64 and F32. -/
def wide : Ty → Bool
  | .f64 | .f32 => true
  | _ => false
/-- The narrow formats of CVTN and CVTW (R241, R242). -/
def narrow : Ty → Bool
  | .f16 | .bf16 | .e4m3 | .e5m2 | .i8 | .u8 => true
  | _ => false
/-- The operand-slot formats (R293). -/
def slotTy : Ty → Bool
  | .f64 | .f32 | .f16 | .bf16 | .e4m3 | .e5m2 | .i8 | .b4 => true
  | _ => false
/-- The accumulator types (R290). -/
def tileTy : Ty → Bool
  | .f64 | .f32 | .i32 => true
  | _ => false
/-- The drain types of some tag (R295). -/
def drainTy : Ty → Bool
  | .f64 | .f32 | .f16 | .bf16 | .e5m2 | .e4m3 | .b4 | .i32 | .i8 => true
  | _ => false

/-- The type of a TY code (R201); 1101 to 1111 are illegal. -/
def ofCode : Nat → Option Ty
  | 0 => some .i32 | 1 => some .i64 | 2 => some .u32 | 3 => some .u64 | 4 => some .f32 | 5 => some .f64
  | 6 => some .f16 | 7 => some .bf16 | 8 => some .e4m3 | 9 => some .e5m2 | 10 => some .i8 | 11 => some .u8
  | 12 => some .b4 | _ => none

/-- The TY code of a type (R201). -/
def code : Ty → Nat
  | .i32 => 0 | .i64 => 1 | .u32 => 2 | .u64 => 3 | .f32 => 4 | .f64 => 5 | .f16 => 6 | .bf16 => 7
  | .e4m3 => 8 | .e5m2 => 9 | .i8 => 10 | .u8 => 11 | .b4 => 12

end Ty

/-- The integer types of a half (R206). -/
def Hty.isInt : Hty → Bool
  | .i32 | .i64 | .u32 | .u64 => true
  | _ => false

/-- N = 1 with G = 15 is illegal (R197). -/
def Ctl.legal (c : Ctl) : Bool := !(c.n && c.g == 15)

/-- What R282 fixes in a stream word. -/
def Ctl.streamOk (c : Ctl) : Bool := !c.n && c.g == 15 && c.fl == .none && !c.t

namespace AluOp
def guarded (o : AluOp) : Bool := o.ctl.legal
def short (o : AluOp) : Bool := o.ctl.legal && o.ctl.fl == .none
def rmSatZero (o : AluOp) : Bool := o.rm == .rne && !o.sat
def plainInt (o : AluOp) : Bool := o.ty.isInt && o.rmSatZero && o.opx == 0
def bcZero (o : AluOp) : Bool := o.b == 0 && o.c == 0
/-- MOD[8] is FTZ and only F32 may set it (R177). -/
def satF32 (o : AluOp) : Bool := !o.sat || o.ty == .f32
def floatArith (o : AluOp) : Bool := o.ty.arith && o.satF32 && o.opx == 0
/-- The count fields of a shift (R227). -/
def shiftFields (o : AluOp) : Bool :=
  if o.opx[7] then o.b == 0 && (!o.opx[5] || o.ty == .i64 || o.ty == .u64)
  else o.opx.toNat % 64 == 0
/-- The result type that OPX[3:0] names, with OPX[7:4] zero (R240). -/
def cvtTarget (o : AluOp) (p : Ty → Bool) : Bool :=
  match Ty.ofCode o.opx.toNat with
  | some t => p t
  | none => false
/-- The source that OPX[3:0] names in CVTW (R242). -/
def narrowLow (o : AluOp) : Bool :=
  match Ty.ofCode (o.opx.toNat % 16) with
  | some t => t.narrow
  | none => false
/-- The fields of ICMP and FCMP (R244), with `n` conditions. -/
def compareFields (o : AluOp) (n : Nat) : Bool :=
  o.d.toNat < 16 && o.c.toNat < 16 && o.opx.toNat < 64 && o.opx.toNat % 16 < n
    && (o.opx.toNat / 16 != 0 || o.c == 0)
end AluOp

namespace ImmOp
def short (o : ImmOp) : Bool := o.ctl.legal && o.ctl.fl == .none
def stream (o : ImmOp) : Bool := o.ctl.streamOk
end ImmOp

namespace MemOp
def short (o : MemOp) : Bool := o.ctl.legal && o.ctl.fl == .none
def pairOk (o : MemOp) : Bool := o.sz != .b16 || o.d.toNat % 2 == 0
/-- The fields of a load (R202, R257, R260). -/
def load (o : MemOp) : Bool :=
  o.ctl.legal && o.a.toNat < 32 && (o.ord == .plain || o.ord == .acq) && o.pairOk
    && (!o.sx || o.sz == .b1 || o.sz == .b2 || o.sz == .b4) && (!o.nf || o.imm7.toNat < 16)
/-- The fields of a store (R202, R257). -/
def store (o : MemOp) : Bool :=
  o.short && o.a.toNat < 32 && (o.ord == .plain || o.ord == .rel) && o.pairOk && !o.sx && !o.nf
end MemOp

namespace AtomOp
def atomic (o : AtomOp) : Bool := o.ctl.legal && o.a.toNat < 32 && (o.sz == .b4 || o.sz == .b8)
end AtomOp

namespace PeerOp
def guarded (o : PeerOp) : Bool := o.ctl.legal
def pairOk (o : PeerOp) : Bool := o.sz != .b16 || o.d.toNat % 2 == 0
def atomSize (o : PeerOp) : Bool := o.sz == .b4 || o.sz == .b8
end PeerOp

namespace OwnOp
def guarded (o : OwnOp) : Bool := o.ctl.legal
def short (o : OwnOp) : Bool := o.ctl.legal && o.ctl.fl == .none
def stream (o : OwnOp) : Bool := o.ctl.streamOk
def bcZero (o : OwnOp) : Bool := o.b == 0 && o.c == 0
def noRegs (o : OwnOp) : Bool := o.d == 0 && o.a == 0 && o.b == 0 && o.c == 0
/-- The TY code at bits [k+3:k] of MOD names a type that `p` accepts. -/
def tyAt (o : OwnOp) (k : Nat) (p : Ty → Bool) : Bool :=
  match Ty.ofCode ((o.mod.toNat / 2 ^ k) % 16) with
  | some t => p t
  | none => false
def tyIs (o : OwnOp) (k : Nat) (t : Ty) : Bool := (o.mod.toNat / 2 ^ k) % 16 == t.code
/-- A slot, tile or unit field: an m register when its X bit is set, else a number below 64 (R290). -/
def operandAt (o : OwnOp) (f : BitVec 8) (x : Nat) : Bool :=
  if (o.mod.toNat / 2 ^ x) % 2 == 1 then f.toNat < 16 else f.toNat < 64
/-- TYB equals TYA, except that each FP8 operand has its own format (R296). -/
def mmaTypes (o : OwnOp) : Bool :=
  let a := (o.mod.toNat / 2048) % 16
  let b := (o.mod.toNat / 128) % 16
  a == b || ((a == 8 || a == 9) && (b == 8 || b == 9))
/-- PATH, MOD[11:9] of a copy instruction (R299). -/
def path (o : OwnOp) : Nat := (o.mod.toNat / 512) % 8
/-- ESZ, MOD[14:12] of a copy instruction (R299). -/
def esz (o : OwnOp) : Nat := o.mod.toNat / 4096
/-- The MOD of a copy instruction: ESZ below `e`, PATH below `p` (R299). -/
def copyMod (o : OwnOp) (e p : Nat) : Bool :=
  o.esz < e && o.path < p && o.mod.toNat % 4 == 0
    && ((o.mod.toNat / 64) % 2 == 1 || (o.mod.toNat / 4) % 16 == 0)
end OwnOp

/-- All 31 bits of an HNOP half are zero (R206). -/
def Half.zero (o : Half) : Bool :=
  o.g == 0 && !o.t && o.d == 0 && !o.i && o.s == 0 && o.ty == .i32

/-- The events of PERFR (R333). -/
def perfEvent (n : Nat) : Bool := n < 6 || (8 ≤ n && n < 16)

/-- The control-register numbers (R335). -/
def controlNumber (n : Nat) : Bool := n < 7 || n == 16 || n == 17 || (256 ≤ n && n < 512)

/-- Check 3 of R215 for an instruction word, R206 for a half, and the ranges of a step's parameters. -/
def Instr.wf : Instr → Bool
  | .iadd o => o.short && o.plainInt && o.c == 0
  | .isub o => o.short && o.plainInt && o.c == 0
  | .iaddi o => o.short
  | .imul o => o.short && o.plainInt && o.c == 0
  | .imulh o => o.short && o.plainInt && o.c == 0
  | .imad o => o.short && o.plainInt
  | .idiv o => o.guarded && o.plainInt && o.c == 0
  | .irem o => o.guarded && o.plainInt && o.c == 0
  | .imin o => o.short && o.plainInt && o.c == 0
  | .imax o => o.short && o.plainInt && o.c == 0
  | .iabs o => o.short && o.plainInt && o.ty.signed && o.bcZero
  | .ineg o => o.short && o.plainInt && o.bcZero
  | .and o => o.short && o.plainInt && o.c == 0
  | .or o => o.short && o.plainInt && o.c == 0
  | .xor o => o.short && o.plainInt && o.c == 0
  | .andn o => o.short && o.plainInt && o.c == 0
  | .shl o => o.short && o.ty.isInt && o.rmSatZero && o.shiftFields && !o.opx[6] && o.c == 0
  | .shr o => o.short && o.ty.isInt && o.rmSatZero && o.shiftFields && !o.opx[6] && o.c == 0
  | .sar o => o.short && o.ty.isInt && o.rmSatZero && o.shiftFields && !o.opx[6] && o.c == 0
  | .rot o => o.short && o.ty.isInt && o.rmSatZero && o.shiftFields && o.c == 0
  | .bfx o => o.short && o.plainInt && o.c == 0
  | .bfi o => o.short && o.plainInt
  | .popc o => o.short && o.plainInt && o.bcZero
  | .clz o => o.short && o.plainInt && o.bcZero
  | .brev o => o.short && o.plainInt && o.bcZero
  | .lea o => o.short && (o.ty == .i32 || o.ty == .u32 || o.ty == .i64) && o.rmSatZero && o.opx.toNat < 8 && o.c == 0
  | .movi o => o.short && o.a == 0
  | .movhi o => o.short && o.imm.toNat < 2 ^ 18
  | .mov o => o.short && o.plainInt && o.bcZero
  | .sadd o => o.short && o.plainInt && o.c == 0
  | .idot4 o => o.short && (o.ty == .i8 || o.ty == .u8) && o.rmSatZero && o.opx == 0
  | .permb o => o.short && o.ty == .u64 && o.rmSatZero && o.opx == 0
  | .fadd o => o.short && o.floatArith && o.c == 0
  | .fsub o => o.short && o.floatArith && o.c == 0
  | .fmul o => o.short && o.floatArith && o.c == 0
  | .ffma o => o.short && o.floatArith
  | .fmin o => o.short && o.floatArith && o.rm == .rne && o.c == 0
  | .fmax o => o.short && o.floatArith && o.rm == .rne && o.c == 0
  | .fdiv o => o.guarded && o.floatArith && o.ty.wide && o.c == 0
  | .fsqrt o => o.guarded && o.floatArith && o.ty.wide && o.bcZero
  | .frcp o => o.short && o.ty == .f32 && o.rm == .rne && o.opx == 0 && o.bcZero
  | .frsq o => o.short && o.ty == .f32 && o.rm == .rne && o.opx == 0 && o.bcZero
  | .fexp2 o => o.short && o.ty == .f32 && o.rm == .rne && o.opx == 0 && o.bcZero
  | .flog2 o => o.short && o.ty == .f32 && o.rm == .rne && o.opx == 0 && o.bcZero
  | .fsin o => o.short && o.ty == .f32 && o.rm == .rne && o.opx == 0 && o.bcZero
  | .fcos o => o.short && o.ty == .f32 && o.rm == .rne && o.opx == 0 && o.bcZero
  | .fclass o => o.short && o.ty.isFloat && o.rmSatZero && o.opx == 0 && o.bcZero
  | .frnd o => o.short && o.floatArith && o.bcZero
  | .fscale o => o.short && o.floatArith && o.c == 0
  | .ffrxp o => o.short && o.ty.arith && o.satF32 && o.rm == .rne && o.opx.toNat < 2 && o.bcZero
  | .cvtff o => o.short && o.ty.isFloat && o.cvtTarget (fun t => t.isFloat && t != o.ty) && o.bcZero
  | .cvtfi o => o.short && o.ty.arith && o.cvtTarget Ty.isCvtInt && !o.sat && o.bcZero
  | .cvtif o => o.short && o.ty.isCvtInt && o.cvtTarget Ty.arith && o.bcZero
  | .cvtn o => o.short && o.ty == .f32 && o.rm == .rne && o.cvtTarget Ty.narrow && o.c == 0
  | .cvtw o => o.short && o.ty == .f32 && o.rmSatZero && o.opx.toNat < 32 && o.narrowLow && o.bcZero
  | .b4enc o => o.short && o.ty == .b4 && o.rmSatZero && o.opx.toNat < 16 && o.c == 0 && (if o.opx[3] then o.opx.toNat % 8 == 0 else o.b == 0)
  | .b4dec o => o.short && o.ty == .b4 && o.rmSatZero && o.opx.toNat < 8 && o.c == 0
  | .icmp o => o.short && o.ty.isInt && o.rmSatZero && o.compareFields 6
  | .icmpi o => o.short && (o.d.toNat / 16) % 8 < 6
  | .fcmp o => o.short && o.ty.arith && o.rm == .rne && o.satF32 && o.compareFields 8
  | .sel o => o.short && o.c.toNat < 16 && o.mod == 0
  | .plop o => o.short && o.d.toNat < 16 && o.a.toNat < 16 && o.b.toNat < 16 && o.c.toNat < 16 && o.mod.toNat < 256
  | .pmov o => o.short && o.mod.toNat < 2 && o.c == 0 && (if o.mod == 0 then o.a == 0 && o.b == 0 else o.d == 0)
  | .qswz o => o.short && o.mod.toNat < 4 && o.c == 0 && (o.mod == 3 || o.b == 0)
  | .qddx o => o.short && o.ty.wide && o.satF32 && o.opx.toNat < 2 && o.bcZero
  | .qddy o => o.short && o.ty.wide && o.satF32 && o.opx.toNat < 2 && o.bcZero
  | .qvote o => o.short && o.d.toNat < 16 && o.a.toNat < 16 && o.bcZero && o.mod.toNat < 8 && o.mod.toNat % 4 != 3
  | .rdsr o => o.short && o.a.toNat < 23 && o.bcZero && o.mod.toNat < 2 && (o.mod == 0 || o.a == 20)
  | .gmov o => o.short && o.a.toNat < 32 && o.bcZero && o.mod == 0
  | .gwr o => o.short && o.d.toNat < 32 && o.bcZero && o.mod == 0
  | .fspawn o => o.short && o.d.toNat < 16 && o.c == 0 && o.mod == 0
  | .ld o => o.load && o.c == 0
  | .st o => o.store && o.c == 0
  | .lds o => o.load && o.c == 0
  | .sts o => o.store && o.c == 0
  | .ldv o => o.load
  | .ldp o => o.guarded && o.aop == .add && o.c == 0 && (o.ord == .plain || o.ord == .acq) && o.pairOk
  | .stp o => o.guarded && o.ctl.fl == .none && o.aop == .add && o.c == 0 && (o.ord == .plain || o.ord == .rel) && o.pairOk
  | .pref o => o.short && o.a.toNat < 32 && o.ord == .plain && !o.sx && !o.nf && o.d.toNat < 2 && o.c == 0
  | .atom o => o.atomic
  | .acas o => o.atomic && o.aop == .add && o.c.toNat % 2 == 0
  | .red o => o.atomic && o.ctl.fl == .none && o.d == 0 && (o.ord == .plain || o.ord == .rel)
  | .atomp o => o.guarded && o.atomSize
  | .acasp o => o.guarded && o.atomSize && o.aop == .add && o.c.toNat % 2 == 0
  | .redp o => o.guarded && o.ctl.fl == .none && o.atomSize && o.d == 0 && (o.ord == .plain || o.ord == .rel)
  | .fence o => o.short && o.a == 0 && o.bcZero && o.mod.toNat < 1024 && (o.mod.toNat / 64) % 4 == 0 && o.mod.toNat / 256 != 0
  | .bar o => o.short && o.noRegs && o.mod.toNat < 16
  | .bara o => o.short && o.noRegs && o.mod.toNat < 16
  | .barc o => o.short && o.noRegs && o.mod == 0
  | .cwait o => o.short && o.noRegs && o.mod.toNat < 32
  | .cclose o => o.short && o.noRegs && o.mod == 0
  | .mbarr o => o.short && o.noRegs && o.mod.toNat < 16
  | .mbwait o => o.short && o.d == 0 && o.bcZero && o.mod.toNat < 16
  | .qjoin o => o.short && o.noRegs && o.mod.toNat < 128 && o.mod != 0
  | .nano o => o.short && o.noRegs
  | .br o => o.short && o.d == 0 && o.a == 0
  | .brx o => o.short && o.d == 0
  | .jmpr o => o.short && o.d == 0 && o.bcZero && o.mod == 0
  | .call o => o.short && o.a == 0
  | .callr o => o.short && o.bcZero && o.mod == 0
  | .ret o => o.short && o.d == 0 && o.bcZero && o.mod == 0
  | .exit o => o.short && o.noRegs && o.mod == 0
  | .yield o => o.short && o.noRegs && o.mod == 0
  | .trap o => o.short && o.d == 0 && o.bcZero && o.mod.toNat < 4096
  | .bkpt o => o.short && o.noRegs && o.mod == 0
  | .mclaim o => o.stream && o.noRegs && o.mod.toNat < 4096 && o.mod.toNat % 64 + o.mod.toNat / 64 + 1 ≤ 64
  | .mrel o => o.stream && o.noRegs && o.mod.toNat < 4096 && o.mod.toNat % 64 + o.mod.toNat / 64 + 1 ≤ 64
  | .mlda o => o.stream && o.operandAt o.d 0 && o.a.toNat < 16 && o.b.toNat < 16 && o.c == 0 && o.tyAt 11 Ty.slotTy && (o.mod.toNat / 2) % 128 == 0 && ((o.mod.toNat / 256) % 4 == 0 || o.tyIs 11 .b4)
  | .mldb o => o.stream && o.operandAt o.d 0 && o.a.toNat < 16 && o.b.toNat < 16 && o.c == 0 && o.tyAt 11 Ty.slotTy && (o.mod.toNat / 2) % 128 == 0 && ((o.mod.toNat / 256) % 4 == 0 || o.tyIs 11 .b4)
  | .mma o => o.stream && o.operandAt o.d 0 && o.operandAt o.a 1 && o.operandAt o.b 2 && o.c == 0 && (o.mod.toNat / 8) % 16 == 0 && o.tyAt 11 Ty.slotTy && o.tyAt 7 Ty.slotTy && o.mmaTypes
  | .mbegin o => o.stream && o.noRegs && o.mod.toNat < 2
  | .mend o => o.stream && o.noRegs && o.mod == 0
  | .mzero o => o.stream && o.operandAt o.d 0 && o.a == 0 && o.bcZero && o.tyAt 11 Ty.tileTy && (o.mod.toNat / 2) % 1024 == 0
  | .mdrain o => o.stream && o.operandAt o.d 0 && o.a.toNat < 16 && o.b.toNat < 16 && o.c == 0 && o.tyAt 11 Ty.drainTy && (o.mod.toNat / 2) % 256 == 0
  | .mldc o => o.stream && o.operandAt o.d 0 && o.a.toNat < 16 && o.b.toNat < 16 && o.c == 0 && o.tyAt 11 Ty.tileTy && (o.mod.toNat / 2) % 1024 == 0
  | .msig o => o.stream && o.noRegs && o.mod.toNat < 16
  | .mwait o => o.stream && o.d == 0 && o.a.toNat < 16 && o.bcZero && o.mod.toNat < 16
  | .mloop o => o.stream && o.d == 0 && o.a.toNat < 16
  | .mstop o => o.stream && o.noRegs && o.mod == 0
  | .mmovi o => o.stream && o.d.toNat < 16 && o.a == 0 && o.imm.toNat < 2 ^ 19
  | .madd o => o.stream && o.d.toNat < 16 && o.a.toNat < 16 && o.c == 0 && (if o.mod[14] then o.b == 0 else o.b.toNat < 16 && o.mod == 0)
  | .tcopy o => o.short && o.d == 0 && o.bcZero && o.copyMod 5 6 && (o.path < 4 || o.esz == 0)
  | .tcopyp o => o.short && o.d == 0 && o.c == 0 && o.copyMod 5 4
  | .halo o => o.short && o.d == 0 && o.mod.toNat % 2048 == 0 && o.esz < 5
  | .ared o => o.short && o.d == 0 && o.mod.toNat % 256 == 0 && (o.mod.toNat / 512) % 4 != 3 && o.tyAt 11 (fun t => t == .f64 || t == .f32 || t == .bf16)
  | .bcast o => o.short && o.d == 0 && o.mod == 0
  | .tfill o => o.short && o.c == 0 && o.copyMod 4 2
  | .rqry o => o.guarded && o.bcZero && o.mod.toNat < 32
  | .rqnext o => o.guarded && o.c == 0 && o.mod == 0
  | .rcq o => o.guarded && o.b == 0 && o.c.toNat < 16 && o.mod.toNat < 2
  | .rcqt o => o.guarded && o.c.toNat < 16 && o.mod.toNat < 2
  | .rcflip o => o.short && o.noRegs && o.mod.toNat < 2
  | .qpush o => o.short && o.d == 0 && o.c.toNat < 16 && o.mod.toNat < 2
  | .qpop o => o.guarded && o.b == 0 && o.c.toNat < 16 && o.mod.toNat < 2
  | .rcls o => o.short && o.b == 0 && o.c.toNat < 16 && o.mod == 0
  | .rsub o => o.short && o.d == 0 && o.c == 0 && o.mod == 0
  | .texs o => o.guarded && o.mod.toNat < 8 && o.mod.toNat / 2 != 3
  | .residCreate o => o.short && o.c == 0 && o.mod == 0
  | .residDestroy o => o.short && o.c == 0 && o.mod == 1
  | .residSetprio o => o.short && o.c == 0 && o.mod == 2
  | .residSetpin o => o.short && o.c == 0 && o.mod == 3
  | .residPromote o => o.short && o.c == 0 && o.mod == 4
  | .residDemote o => o.short && o.c == 0 && o.mod == 5
  | .residRead o => o.short && o.c == 0 && o.mod == 6
  | .vpub o => o.short && o.a == 0 && o.bcZero && o.mod.toNat < 16
  | .vrecl o => o.short && o.bcZero && o.mod.toNat < 16
  | .cwb o => o.short && o.d == 0 && o.c == 0 && o.mod == 0
  | .cinv o => o.short && o.d == 0 && o.c == 0 && o.mod == 0
  | .iinv o => o.short && o.d == 0 && o.c == 0 && o.mod.toNat < 2
  | .fetchb o => o.short && o.noRegs && o.mod == 0
  | .rdtime o => o.short && o.a == 0 && o.bcZero && o.mod.toNat < 2
  | .perfr o => o.short && o.a == 0 && o.bcZero && perfEvent o.mod.toNat
  | .lnchLaunch o => o.short && o.mod == 0
  | .lnchBind o => o.short && o.mod == 1
  | .lnchUnbind o => o.short && o.mod == 2
  | .mtcr o => o.short && o.bcZero && controlNumber o.mod.toNat
  | .mfcr o => o.short && o.a == 0 && o.bcZero && controlNumber o.mod.toNat
  | .halt o => o.short && o.d == 0 && o.bcZero && o.mod == 0
  | .ckpt o => o.short && o.c == 0 && o.mod.toNat < 2 && (o.mod == 1 || o.b == 0)
  | .hnop o => o.zero
  | .halfIadd o => o.ty.isInt
  | .halfIsub o => o.ty.isInt
  | .halfAnd o => o.ty.isInt
  | .halfOr o => o.ty.isInt
  | .halfXor o => o.ty.isInt
  | .halfShl o => o.ty.isInt
  | .halfShr o => o.ty.isInt
  | .halfSar o => o.ty.isInt
  | .halfMov o => o.ty.isInt && !o.i
  | .halfImin o => o.ty.isInt
  | .halfImax o => o.ty.isInt
  | .halfFadd o => !o.ty.isInt
  | .halfFsub o => !o.ty.isInt
  | .halfFmul o => !o.ty.isInt
  | .halfFmin o => !o.ty.isInt
  | .halfFmax o => !o.ty.isInt
  | .halfMovi o => o.ty.isInt && o.i
  | .halfIabs o => o.ty == .i32 || o.ty == .i64
  | .halfIneg o => o.ty.isInt
  | .ferrySelection core => decide (core < Config.mainCores)
  | .entrySpill core => decide (core < Config.mainCores)
  | .resultLands core place _ => decide (core < Config.allCores) && decide (place < Config.places)
  | .lotteryDraw => true
  | .clusterPlacement die => decide (die < Config.dies)
  | .spanReady r _ => decide (r.sender.id < 1024) && decide (r.rank < 1024)
  | .boundIdleExpiry lq => decide (lq < 256)
  | .groupEnd core slot => decide (core < Config.mainCores) && decide (slot < 256)
  | .gridEnd _ => true
  | .barTimeout core slot phase => decide (core < Config.mainCores) && decide (slot < 256) && decide (phase ≤ 16)
  | .nanoExpiry core _ => decide (core < Config.allCores)
  | .retentionEntry core => decide (core < Config.mainCores)
  | .retentionExit core => decide (core < Config.mainCores)
  | .leaseSweep core => decide (core < Config.allCores)
  | .bounceDecay => true
  | .l1Fill core _ _ => decide (core < Config.allCores)
  | .writebackArrival core _ => decide (core < Config.allCores)
  | .l2Eviction die _ => decide (die < Config.dies)
  | .directoryRequest die _ _ => decide (die < Config.dies)
  | .bisnpReceipt _ home => decide (home.id < 1024)
  | .birspReceipt _ holder => decide (holder.id < 1025)
  | .releasePushComplete core _ => decide (core < Config.allCores)
  | .settleNotice core place home => decide (core < Config.allCores) && decide (place < Config.places) && decide (home.id < 1024)
  | .engineCommandComplete core slot queue => decide (core < Config.allCores) && decide (slot < 256) && decide (queue < 7)
  | .pageWalk die _ _ => decide (die < Config.dies)
  | .faultRecordWrite => true
  | .shootdown value => value.toNat % 2 == 1
  | .shootdownComplete => true
  | .replayPage value => value.toNat % 2 == 1 && (value.toNat / 2) % 4 == 0
  | .replayToken value => value.toNat % 2 == 1 && (value.toNat / 2) % 4 == 1
  | .replayExhaustedPage value => value.toNat % 2 == 1 && (value.toNat / 2) % 4 == 2
  | .replayExhaustedToken value => value.toNat % 2 == 1 && (value.toNat / 2) % 4 == 3
  | .faultWatchdog die token => decide (die < Config.dies) && decide (token < Config.waitEntries)
  | .preSave value => value.toNat % 2 == 1 && (value.toNat / 2 ^ 24) % 16 == 1
  | .preRestore value => value.toNat % 2 == 1 && (value.toNat / 2 ^ 24) % 16 == 2
  | .preKill value => value.toNat % 2 == 1 && (value.toNat / 2 ^ 24) % 16 == 3
  | .saveRecordWrite => true
  | .moveStart => true
  | .movePage => true
  | .copyOnWrite die token => decide (die < Config.dies) && decide (token < Config.waitEntries)
  | .vpubAccept core slot => decide (core < Config.allCores) && decide (slot < 256)
  | .vpubComplete _ _ => true
  | .vreclAccept core slot => decide (core < Config.allCores) && decide (slot < 256)
  | .vreclPageVisit _ _ => true
  | .recoveryTimer plane => decide (plane < 16)
  | .fabricRequestArrival pkt => decide (pkt.src < 1024) && decide (pkt.plane < 16) && decide (pkt.entry.1 < Config.dies)
      && decide (pkt.entry.2 < Config.waitEntries) && match pkt.op with
    | .write _ data en => decide (en.length = data.length)
    | _ => true
  | .peerTimeoutDeclaration peer => decide (peer < 1024)
  | .planeDown station => decide (station < 16)
  | .planeUp station => decide (station < 16)
  | .dieDeath die => decide (die < Config.dies)
  | .poisonedRead _ _ => true
  | .hostMemoryAccess _ _ => true
  | .rsubAccept core slot => decide (core < Config.allCores) && decide (slot < 256)
  | .rsubConsume die _ => decide (die < Config.dies)
  | .occlusionRecord _ => true
  | .rasterLinkLoss _ _ => true
  | .adamStep net => decide (net < 2)
  | .rcflipAccept core slot => decide (core < Config.allCores) && decide (slot < 256)
  | .trapRecordPush => true
  | .resumeResume _ => true
  | .resumeEnd _ => true
  | .resumeKill _ => true
  | .bspartWrite core _ => decide (core < Config.mainCores)
  | .planeSteerWrite _ => true
  | .planeQuiesceWrite _ => true
  | .peerDeclareDead peer _ => decide (peer < 1024)
  | .peerReadmit peer _ => decide (peer < 1024)
  | .fabRtoWrite _ => true
  | .fabricCounterClear counter => decide (counter < 4)
  | .pkgCfgWrite _ => true
  | .rcSlotWrite net _ => decide (net < 2)
  | .islandOff island => decide (island < 256)
  | .islandOn island => decide (island < 256)
  | .islandAdmission => true
  | .imgGo _ => true
  | .imageVerified => true
  | .attGo _ => true
  | .ckptRestore _ => true
  | .ucieLinkTraining _ => true
  | .packageReset => true
  | .controlRegisterWrite _ _ => true
  | .fabricResponseArrival rsp => decide (rsp.src < 1024) && decide (rsp.plane < 16)
  | .traversalUnitError die unit => decide (die < Config.dies) && decide (unit < 8)
  | .controlThreadRestart core thread _ => decide (core < Config.allCores) && decide (thread < 8)
  | .attestationReportWritten => true
  | .checkpointCutComplete => true
  | .checkpointRestoreComplete => true

end Sys2Proof
end

