-- ==== Sys2Proof/Decode.lean ====
section
/-! DEFINITION. From code words to instructions and back (09 R195 to R213), total on every 64-bit word, and the
byte and bit-field helpers that the machine uses. -/

namespace Sys2Proof

/-! ## Bit fields and bytes (R4) -/

/-- Bits [start+len-1:start] of a word as a number. -/
def bitsN (w : Word) (start len : Nat) : Nat := (w.toNat >>> start) % 2 ^ len

/-- The word with bits [start+len-1:start] replaced by `v`. -/
def setBits (w : Word) (start len v : Nat) : Word :=
  let mask : Word := BitVec.ofNat 64 ((2 ^ len - 1) <<< start)
  (w &&& ~~~mask) ||| (BitVec.ofNat 64 ((v % 2 ^ len) <<< start))

/-- The low `n` bits of a word, sign-extended to 64 bits (R2, `sext`). -/
def sextN (w : Word) (n : Nat) : Word :=
  if w.toNat % 2 ^ n < 2 ^ (n - 1) then BitVec.ofNat 64 (w.toNat % 2 ^ n)
  else BitVec.ofInt 64 ((w.toNat % 2 ^ n : Nat) - (2 ^ n : Nat) : Int)

/-- The low `n` bits of a word, zero-extended (R2, `zext`). -/
def zextN (w : Word) (n : Nat) : Word := BitVec.ofNat 64 (w.toNat % 2 ^ n)

/-- The `n` bytes of a number, lowest first (R4). -/
def bytesOf : Nat → Nat → List Byte
  | 0, _ => []
  | n + 1, v => BitVec.ofNat 8 v :: bytesOf n (v / 256)

/-- The number whose bytes, lowest first, are these (R4). -/
def ofBytes : List Byte → Nat
  | [] => 0
  | b :: bs => b.toNat + 256 * ofBytes bs

/-! ## Codes of the small fields -/

/-- RM (R178). -/
def Rm.ofCode : Nat → Rm
  | 0 => .rne | 1 => .rtz | 2 => .rup | _ => .rdn
def Rm.code : Rm → Nat
  | .rne => 0 | .rtz => 1 | .rup => 2 | .rdn => 3

/-- SZ (R202); 101 to 111 are illegal. -/
def Sz.ofCode : Nat → Option Sz
  | 0 => some .b1 | 1 => some .b2 | 2 => some .b4 | 3 => some .b8 | 4 => some .b16 | _ => none
def Sz.code : Sz → Nat
  | .b1 => 0 | .b2 => 1 | .b4 => 2 | .b8 => 3 | .b16 => 4

/-- ORD (R202, R203). -/
def Ord.ofCode : Nat → Ord
  | 0 => .plain | 1 => .acq | 2 => .rel | _ => .ar
def Ord.code : Ord → Nat
  | .plain => 0 | .acq => 1 | .rel => 2 | .ar => 3

/-- AOP (R203); 1100 to 1111 are illegal. -/
def Aop.ofCode : Nat → Option Aop
  | 0 => some .add | 1 => some .mins | 2 => some .maxs | 3 => some .minu | 4 => some .maxu | 5 => some .and
  | 6 => some .or | 7 => some .xor | 8 => some .exch | 9 => some .incw | 10 => some .decw | 11 => some .fadd
  | _ => none
def Aop.code : Aop → Nat
  | .add => 0 | .mins => 1 | .maxs => 2 | .minu => 3 | .maxu => 4 | .and => 5 | .or => 6 | .xor => 7
  | .exch => 8 | .incw => 9 | .decw => 10 | .fadd => 11

/-- FL (R198); 11 is illegal. -/
def Fl.ofCode : Nat → Option Fl
  | 0 => some .none | 1 => some .setA | 2 => some .setB | _ => Option.none
def Fl.code : Fl → Nat
  | .none => 0 | .setA => 1 | .setB => 2

/-- TY of a half (R205); 110 and 111 are illegal. -/
def Hty.ofCode : Nat → Option Hty
  | 0 => some .i32 | 1 => some .i64 | 2 => some .u32 | 3 => some .u64 | 4 => some .f32 | 5 => some .f64
  | _ => none
def Hty.code : Hty → Nat
  | .i32 => 0 | .i64 => 1 | .u32 => 2 | .u64 => 3 | .f32 => 4 | .f64 => 5

/-- SETA and SETB (R209): a flag number, 15 for none; 12 to 14 are illegal. -/
def flagOfCode (n : Nat) : Option (Option (Fin 12)) :=
  if h : n < 12 then some (some ⟨n, h⟩) else if n = 15 then some none else none
def flagCode : Option (Fin 12) → Nat
  | some f => f.val
  | none => 15

/-! ## The full format (R196) and its classes -/

/-- One bit of a Boolean. -/
def bit (b : Bool) : BitVec 1 := if b then 1 else 0

/-- A word of the full format from its fields (R196). -/
def packFull (op : BitVec 8) (k : Ctl) (d a b c : BitVec 8) (mod : BitVec 15) : Word :=
  (0#1 ++ op ++ bit k.n ++ k.g ++ BitVec.ofNat 2 k.fl.code ++ bit k.t ++ d ++ a ++ b ++ c ++ mod : BitVec 64)

/-- The guard, FL and T fields (R196); none when FL is 11. -/
def unpackCtl (w : Word) : Option Ctl :=
  match Fl.ofCode (w.extractLsb' 48 2).toNat with
  | some fl => some { n := w.getLsbD 54, g := w.extractLsb' 50 4, fl := fl, t := w.getLsbD 47 }
  | none => none

def fieldD (w : Word) : BitVec 8 := w.extractLsb' 39 8
def fieldA (w : Word) : BitVec 8 := w.extractLsb' 31 8
def fieldB (w : Word) : BitVec 8 := w.extractLsb' 23 8
def fieldC (w : Word) : BitVec 8 := w.extractLsb' 15 8
def fieldOp (w : Word) : BitVec 8 := w.extractLsb' 55 8

/-- The ALU and FP class (R201). -/
def packAlu (op : BitVec 8) (o : AluOp) : Word :=
  packFull op o.ctl o.d o.a o.b o.c
    (BitVec.ofNat 4 o.ty.code ++ BitVec.ofNat 2 o.rm.code ++ bit o.sat ++ o.opx : BitVec 15)
def unpackAlu (w : Word) : Option AluOp :=
  match unpackCtl w, Ty.ofCode (w.extractLsb' 11 4).toNat with
  | some k, some ty => some { ctl := k, d := fieldD w, a := fieldA w, b := fieldB w, c := fieldC w, ty := ty,
                              rm := Rm.ofCode (w.extractLsb' 9 2).toNat, sat := w.getLsbD 8, opx := w.extractLsb' 0 8 }
  | _, _ => none

/-- The immediate form (R200). -/
def packImm (op : BitVec 8) (o : ImmOp) : Word :=
  (0#1 ++ op ++ bit o.ctl.n ++ o.ctl.g ++ BitVec.ofNat 2 o.ctl.fl.code ++ bit o.ctl.t ++ o.d ++ o.a ++ o.imm : BitVec 64)
def unpackImm (w : Word) : Option ImmOp :=
  match unpackCtl w with
  | some k => some { ctl := k, d := fieldD w, a := fieldA w, imm := w.extractLsb' 0 31 }
  | none => none

/-- The memory class (R202). -/
def packMem (op : BitVec 8) (o : MemOp) : Word :=
  packFull op o.ctl o.d o.a o.b o.c
    (BitVec.ofNat 3 o.sz.code ++ bit o.os ++ bit o.sx ++ BitVec.ofNat 2 o.ord.code ++ bit o.nf ++ o.imm7 : BitVec 15)
def unpackMem (w : Word) : Option MemOp :=
  match unpackCtl w, Sz.ofCode (w.extractLsb' 12 3).toNat with
  | some k, some sz => some { ctl := k, d := fieldD w, a := fieldA w, b := fieldB w, c := fieldC w, sz := sz,
                              os := w.getLsbD 11, sx := w.getLsbD 10, ord := Ord.ofCode (w.extractLsb' 8 2).toNat,
                              nf := w.getLsbD 7, imm7 := w.extractLsb' 0 7 }
  | _, _ => none

/-- The atomic class (R203). -/
def packAtom (op : BitVec 8) (o : AtomOp) : Word :=
  packFull op o.ctl o.d o.a o.b o.c
    (BitVec.ofNat 3 o.sz.code ++ bit o.os ++ bit o.scr ++ BitVec.ofNat 2 o.ord.code ++ BitVec.ofNat 4 o.aop.code ++ o.imm4 : BitVec 15)
def unpackAtom (w : Word) : Option AtomOp :=
  match unpackCtl w, Sz.ofCode (w.extractLsb' 12 3).toNat, Aop.ofCode (w.extractLsb' 4 4).toNat with
  | some k, some sz, some aop =>
    some { ctl := k, d := fieldD w, a := fieldA w, b := fieldB w, c := fieldC w, sz := sz, os := w.getLsbD 11,
           scr := w.getLsbD 10, ord := Ord.ofCode (w.extractLsb' 8 2).toNat, aop := aop, imm4 := w.extractLsb' 0 4 }
  | _, _, _ => none

/-- The peer class (R204); MOD[11:10] must be zero. -/
def packPeer (op : BitVec 8) (o : PeerOp) : Word :=
  packFull op o.ctl o.d o.a o.b o.c
    (BitVec.ofNat 3 o.sz.code ++ 0#2 ++ BitVec.ofNat 2 o.ord.code ++ BitVec.ofNat 4 o.aop.code ++ o.imm4 : BitVec 15)
def unpackPeer (w : Word) : Option PeerOp :=
  match unpackCtl w, Sz.ofCode (w.extractLsb' 12 3).toNat, Aop.ofCode (w.extractLsb' 4 4).toNat with
  | some k, some sz, some aop =>
    if w.extractLsb' 10 2 = 0#2 then
      some { ctl := k, d := fieldD w, a := fieldA w, b := fieldB w, c := fieldC w, sz := sz,
             ord := Ord.ofCode (w.extractLsb' 8 2).toNat, aop := aop, imm4 := w.extractLsb' 0 4 }
    else none
  | _, _, _ => none

/-- An own MOD layout (R212). -/
def packOwn (op : BitVec 8) (o : OwnOp) : Word := packFull op o.ctl o.d o.a o.b o.c o.mod
def unpackOwn (w : Word) : Option OwnOp :=
  match unpackCtl w with
  | some k => some { ctl := k, d := fieldD w, a := fieldA w, b := fieldB w, c := fieldC w, mod := w.extractLsb' 0 15 }
  | none => none

/-! ## Halves and headers (R205, R209) -/

/-- The 31 bits of a half (R205). -/
def packHalf (op6 : BitVec 6) (o : Half) : BitVec 31 :=
  (op6 ++ o.g ++ bit o.t ++ o.d ++ bit o.i ++ o.s ++ BitVec.ofNat 3 o.ty.code ++ 0#4 : BitVec 31)
def unpackHalf (h : BitVec 31) : Option Half :=
  match Hty.ofCode (h.extractLsb' 4 3).toNat with
  | some ty =>
    if h.extractLsb' 0 4 = 0#4 then
      some { g := h.extractLsb' 23 2, t := h.getLsbD 22, d := h.extractLsb' 15 7, i := h.getLsbD 14,
             s := h.extractLsb' 7 7, ty := ty }
    else none
  | none => none

/-- A clause header word (R209). -/
def packHeader (h : Header) : Word :=
  (0#1 ++ 0xFF#8 ++ h.len ++ h.wait ++ BitVec.ofNat 4 (flagCode h.setA) ++ BitVec.ofNat 4 (flagCode h.setB)
    ++ bit h.e ++ bit h.q ++ h.yh ++ 0#27 : BitVec 64)

/-- A word is a clause header (R195). -/
def isHeader (w : Word) : Bool := !w.getLsbD 63 && fieldOp w == 0xFF

/-- The fields of a header; none for LEN 0, SETA or SETB 12 to 14, or a reserved bit (R210). -/
def unpackHeader (w : Word) : Option Header :=
  match flagOfCode (w.extractLsb' 35 4).toNat, flagOfCode (w.extractLsb' 31 4).toNat with
  | some sa, some sb =>
    if w.extractLsb' 51 4 ≠ 0#4 ∧ w.extractLsb' 0 27 = 0#27 then
      some { len := w.extractLsb' 51 4, wait := w.extractLsb' 39 12, setA := sa, setB := sb, e := w.getLsbD 30,
             q := w.getLsbD 29, yh := w.extractLsb' 27 2 }
    else none
  | _, _ => none

/-! ## Opcodes (R211) -/

/-- The class in which an opcode lays out its word, with the instruction it makes. -/
inductive Shape where
  | alu  (mk : AluOp → Instr)
  | imm  (mk : ImmOp → Instr)
  | mem  (mk : MemOp → Instr)
  | atom (mk : AtomOp → Instr)
  | peer (mk : PeerOp → Instr)
  | own  (mk : OwnOp → Instr)
  /-- MOD[k-1:0] selects among instructions of one opcode (RESID, LNCH). -/
  | sub  (k : Nat) (mk : Nat → Option (OwnOp → Instr))

/-- RESID by op, MOD[2:0] (R328). -/
def residOf : Nat → Option (OwnOp → Instr)
  | 0 => some .residCreate
  | 1 => some .residDestroy
  | 2 => some .residSetprio
  | 3 => some .residSetpin
  | 4 => some .residPromote
  | 5 => some .residDemote
  | 6 => some .residRead
  | _ => none

/-- LNCH by op, MOD[1:0] (R334). -/
def lnchOf : Nat → Option (OwnOp → Instr)
  | 0 => some .lnchLaunch
  | 1 => some .lnchBind
  | 2 => some .lnchUnbind
  | _ => none

/-- The full opcode map (R211), row by row; `none` is a cell marked —. -/
def shapeOf (op : Nat) : Option Shape :=
  match op with
  | 0x00 => some (.alu .iadd)
  | 0x01 => some (.alu .isub)
  | 0x02 => some (.imm .iaddi)
  | 0x03 => some (.alu .imul)
  | 0x04 => some (.alu .imulh)
  | 0x05 => some (.alu .imad)
  | 0x06 => some (.alu .idiv)
  | 0x07 => some (.alu .irem)
  | 0x08 => some (.alu .imin)
  | 0x09 => some (.alu .imax)
  | 0x0a => some (.alu .iabs)
  | 0x0b => some (.alu .ineg)
  | 0x0c => some (.alu .and)
  | 0x0d => some (.alu .or)
  | 0x0e => some (.alu .xor)
  | 0x0f => some (.alu .andn)
  | 0x10 => some (.alu .shl)
  | 0x11 => some (.alu .shr)
  | 0x12 => some (.alu .sar)
  | 0x13 => some (.alu .rot)
  | 0x14 => some (.alu .bfx)
  | 0x15 => some (.alu .bfi)
  | 0x16 => some (.alu .popc)
  | 0x17 => some (.alu .clz)
  | 0x18 => some (.alu .brev)
  | 0x19 => some (.alu .lea)
  | 0x1a => some (.imm .movi)
  | 0x1b => some (.imm .movhi)
  | 0x1c => some (.alu .mov)
  | 0x1d => some (.alu .sadd)
  | 0x1e => some (.alu .idot4)
  | 0x1f => some (.alu .permb)
  | 0x20 => some (.alu .fadd)
  | 0x21 => some (.alu .fsub)
  | 0x22 => some (.alu .fmul)
  | 0x23 => some (.alu .ffma)
  | 0x24 => some (.alu .fmin)
  | 0x25 => some (.alu .fmax)
  | 0x26 => some (.alu .fdiv)
  | 0x27 => some (.alu .fsqrt)
  | 0x28 => some (.alu .frcp)
  | 0x29 => some (.alu .frsq)
  | 0x2a => some (.alu .fexp2)
  | 0x2b => some (.alu .flog2)
  | 0x2c => some (.alu .fsin)
  | 0x2d => some (.alu .fcos)
  | 0x2e => some (.alu .fclass)
  | 0x2f => some (.alu .frnd)
  | 0x30 => some (.alu .fscale)
  | 0x31 => some (.alu .ffrxp)
  | 0x32 => some (.alu .cvtff)
  | 0x33 => some (.alu .cvtfi)
  | 0x34 => some (.alu .cvtif)
  | 0x35 => some (.alu .cvtn)
  | 0x36 => some (.alu .cvtw)
  | 0x37 => some (.alu .b4enc)
  | 0x38 => some (.alu .b4dec)
  | 0x40 => some (.alu .icmp)
  | 0x41 => some (.imm .icmpi)
  | 0x42 => some (.alu .fcmp)
  | 0x43 => some (.own .sel)
  | 0x44 => some (.own .plop)
  | 0x45 => some (.own .pmov)
  | 0x50 => some (.own .qswz)
  | 0x51 => some (.alu .qddx)
  | 0x52 => some (.alu .qddy)
  | 0x53 => some (.own .qvote)
  | 0x54 => some (.own .rdsr)
  | 0x55 => some (.own .gmov)
  | 0x56 => some (.own .gwr)
  | 0x57 => some (.own .fspawn)
  | 0x60 => some (.mem .ld)
  | 0x61 => some (.mem .st)
  | 0x62 => some (.mem .lds)
  | 0x63 => some (.mem .sts)
  | 0x64 => some (.mem .ldv)
  | 0x65 => some (.peer .ldp)
  | 0x66 => some (.peer .stp)
  | 0x67 => some (.mem .pref)
  | 0x80 => some (.atom .atom)
  | 0x81 => some (.atom .acas)
  | 0x82 => some (.atom .red)
  | 0x83 => some (.peer .atomp)
  | 0x84 => some (.peer .acasp)
  | 0x85 => some (.peer .redp)
  | 0x90 => some (.own .fence)
  | 0x91 => some (.own .bar)
  | 0x92 => some (.own .bara)
  | 0x93 => some (.own .barc)
  | 0x94 => some (.own .cwait)
  | 0x95 => some (.own .cclose)
  | 0x96 => some (.own .mbarr)
  | 0x97 => some (.own .mbwait)
  | 0x98 => some (.own .qjoin)
  | 0x99 => some (.own .nano)
  | 0xa0 => some (.imm .br)
  | 0xa1 => some (.imm .brx)
  | 0xa2 => some (.own .jmpr)
  | 0xa3 => some (.imm .call)
  | 0xa4 => some (.own .callr)
  | 0xa5 => some (.own .ret)
  | 0xa6 => some (.own .exit)
  | 0xa7 => some (.own .yield)
  | 0xa8 => some (.own .trap)
  | 0xa9 => some (.own .bkpt)
  | 0xb0 => some (.own .mclaim)
  | 0xb1 => some (.own .mrel)
  | 0xb2 => some (.own .mlda)
  | 0xb3 => some (.own .mldb)
  | 0xb4 => some (.own .mma)
  | 0xb5 => some (.own .mbegin)
  | 0xb6 => some (.own .mend)
  | 0xb7 => some (.own .mzero)
  | 0xb8 => some (.own .mdrain)
  | 0xb9 => some (.own .mldc)
  | 0xba => some (.own .msig)
  | 0xbb => some (.own .mwait)
  | 0xbc => some (.imm .mloop)
  | 0xbd => some (.own .mstop)
  | 0xbe => some (.imm .mmovi)
  | 0xbf => some (.own .madd)
  | 0xc0 => some (.own .tcopy)
  | 0xc1 => some (.own .tcopyp)
  | 0xc2 => some (.own .halo)
  | 0xc3 => some (.own .ared)
  | 0xc4 => some (.own .bcast)
  | 0xc5 => some (.own .tfill)
  | 0xd0 => some (.own .rqry)
  | 0xd1 => some (.own .rqnext)
  | 0xd2 => some (.own .rcq)
  | 0xd3 => some (.own .rcqt)
  | 0xd4 => some (.own .rcflip)
  | 0xd5 => some (.own .qpush)
  | 0xd6 => some (.own .qpop)
  | 0xd7 => some (.own .rcls)
  | 0xd8 => some (.own .rsub)
  | 0xd9 => some (.own .texs)
  | 0xe1 => some (.own .vpub)
  | 0xe2 => some (.own .vrecl)
  | 0xe3 => some (.own .cwb)
  | 0xe4 => some (.own .cinv)
  | 0xe5 => some (.own .iinv)
  | 0xe6 => some (.own .fetchb)
  | 0xe7 => some (.own .rdtime)
  | 0xe8 => some (.own .perfr)
  | 0xea => some (.own .mtcr)
  | 0xeb => some (.own .mfcr)
  | 0xec => some (.own .halt)
  | 0xed => some (.own .ckpt)
  | 0xe0 => some (.sub 3 residOf)
  | 0xe9 => some (.sub 2 lnchOf)
  | _ => none

/-- The half opcodes (R206). -/
def halfOf (op6 : Nat) : Option (Half → Instr) :=
  match op6 with
  | 0x00 => some .hnop
  | 0x01 => some .halfIadd
  | 0x02 => some .halfIsub
  | 0x03 => some .halfAnd
  | 0x04 => some .halfOr
  | 0x05 => some .halfXor
  | 0x06 => some .halfShl
  | 0x07 => some .halfShr
  | 0x08 => some .halfSar
  | 0x09 => some .halfMov
  | 0x0a => some .halfImin
  | 0x0b => some .halfImax
  | 0x0c => some .halfFadd
  | 0x0d => some .halfFsub
  | 0x0e => some .halfFmul
  | 0x0f => some .halfFmin
  | 0x10 => some .halfFmax
  | 0x11 => some .halfMovi
  | 0x12 => some .halfIabs
  | 0x13 => some .halfIneg
  | _ => none

/-! ## Decoding -/

/-- Why a word is no instruction. -/
inductive DecodeError where
  /-- Bits 63:62 are 11 (R195, check 1 of R215). -/
  | noKind
  /-- The opcode, or a half's op6, is not assigned (check 2). -/
  | unassigned
  /-- A reserved bit or an illegal field value (check 3). -/
  | field
  /-- The two halves break R207 (check 4). -/
  | pairing
  deriving DecidableEq, Repr

/-- What a code word is (R195). -/
inductive Code where
  | header (h : Header)
  /-- A header with LEN 0, SETA or SETB 12 to 14, or a reserved bit (R210). -/
  | badHeader
  | single (i : Instr)
  | pair (h0 h1 : Instr)
  | bad (e : DecodeError)
  deriving DecidableEq, Repr

/-- An unpacked word that passes check 3, else the error. -/
def checked (i : Option Instr) : Code :=
  match i with
  | some i => if i.wf then .single i else .bad .field
  | none => .bad .field

/-- A full-format word (R196, R211). -/
def decodeFull (w : Word) : Code :=
  match shapeOf (fieldOp w).toNat with
  | some (.alu mk) => checked ((unpackAlu w).map mk)
  | some (.imm mk) => checked ((unpackImm w).map mk)
  | some (.mem mk) => checked ((unpackMem w).map mk)
  | some (.atom mk) => checked ((unpackAtom w).map mk)
  | some (.peer mk) => checked ((unpackPeer w).map mk)
  | some (.own mk) => checked ((unpackOwn w).map mk)
  | some (.sub k mk) =>
    match unpackOwn w with
    | some o =>
      match mk (o.mod.toNat % 2 ^ k) with
      | some mk => checked (some (mk o))
      | none => .bad .field
    | none => .bad .field
  | none => .bad .unassigned

/-- One half (R206): an unassigned op6 is check 2, the rest check 3. -/
def decodeHalf (h : BitVec 31) : Code :=
  match halfOf (h.extractLsb' 25 6).toNat with
  | some mk => checked ((unpackHalf h).map mk)
  | none => .bad .unassigned

/-- The fields of a half instruction, with whether it is an HNOP and whether it is floating (R206). -/
def Instr.half? : Instr → Option (Half × Bool × Bool)
  | .hnop o => some (o, true, false)
  | .halfIadd o => some (o, false, false)
  | .halfIsub o => some (o, false, false)
  | .halfAnd o => some (o, false, false)
  | .halfOr o => some (o, false, false)
  | .halfXor o => some (o, false, false)
  | .halfShl o => some (o, false, false)
  | .halfShr o => some (o, false, false)
  | .halfSar o => some (o, false, false)
  | .halfMov o => some (o, false, false)
  | .halfImin o => some (o, false, false)
  | .halfImax o => some (o, false, false)
  | .halfFadd o => some (o, false, true)
  | .halfFsub o => some (o, false, true)
  | .halfFmul o => some (o, false, true)
  | .halfFmin o => some (o, false, true)
  | .halfFmax o => some (o, false, true)
  | .halfMovi o => some (o, false, false)
  | .halfIabs o => some (o, false, false)
  | .halfIneg o => some (o, false, false)
  | _ => none

/-- The register banks a half uses (R207): D mod 8, and S mod 8 when I = 0; an HNOP touches no register.
DEDUCED: R207 counts the banks a half uses, and R206 gives HNOP no effect. Log entry 13. -/
def Instr.banks (i : Instr) : List Nat :=
  match i.half? with
  | some (o, nop, _) => if nop then [] else o.d.toNat % 8 :: (if o.i then [] else [o.s.toNat % 8])
  | none => []

/-- A half that works on floating-point values (R206). -/
def Instr.floatHalf (i : Instr) : Bool :=
  match i.half? with
  | some (_, _, f) => f
  | none => false

/-- The first two rules of R207. -/
def pairOk (h0 h1 : Instr) : Bool :=
  h0.banks.all (fun k => !h1.banks.contains k) && !(h0.floatHalf && h1.floatHalf)

/-- A pair word (R205), with the checks in the order of R215. -/
def decodePair (w : Word) : Code :=
  match decodeHalf (w.extractLsb' 31 31), decodeHalf (w.extractLsb' 0 31) with
  | .single h0, .single h1 => if pairOk h0 h1 then .pair h0 h1 else .bad .pairing
  | .bad .unassigned, _ => .bad .unassigned
  | _, .bad .unassigned => .bad .unassigned
  | _, _ => .bad .field

/-- What a 64-bit code word is (R195). -/
def decodeWord (w : Word) : Code :=
  if w.getLsbD 63 then
    if w.getLsbD 62 then .bad .noKind else decodePair w
  else if fieldOp w = 0xFF#8 then
    match unpackHeader w with
    | some h => .header h
    | none => .badHeader
  else decodeFull w

/-- Decoding a word given as bytes, the first at the lowest address (R4). -/
def decodeBytes (bs : List Byte) : Code := decodeWord (BitVec.ofNat 64 (ofBytes (bs.take 8)))

/-! ## Encoding -/

/-- The word of a full-format instruction (R196); none for a half and for a step of another agent. -/
def encode : Instr → Option Word
  | .iadd o => some (packAlu 0x00 o)
  | .isub o => some (packAlu 0x01 o)
  | .iaddi o => some (packImm 0x02 o)
  | .imul o => some (packAlu 0x03 o)
  | .imulh o => some (packAlu 0x04 o)
  | .imad o => some (packAlu 0x05 o)
  | .idiv o => some (packAlu 0x06 o)
  | .irem o => some (packAlu 0x07 o)
  | .imin o => some (packAlu 0x08 o)
  | .imax o => some (packAlu 0x09 o)
  | .iabs o => some (packAlu 0x0a o)
  | .ineg o => some (packAlu 0x0b o)
  | .and o => some (packAlu 0x0c o)
  | .or o => some (packAlu 0x0d o)
  | .xor o => some (packAlu 0x0e o)
  | .andn o => some (packAlu 0x0f o)
  | .shl o => some (packAlu 0x10 o)
  | .shr o => some (packAlu 0x11 o)
  | .sar o => some (packAlu 0x12 o)
  | .rot o => some (packAlu 0x13 o)
  | .bfx o => some (packAlu 0x14 o)
  | .bfi o => some (packAlu 0x15 o)
  | .popc o => some (packAlu 0x16 o)
  | .clz o => some (packAlu 0x17 o)
  | .brev o => some (packAlu 0x18 o)
  | .lea o => some (packAlu 0x19 o)
  | .movi o => some (packImm 0x1a o)
  | .movhi o => some (packImm 0x1b o)
  | .mov o => some (packAlu 0x1c o)
  | .sadd o => some (packAlu 0x1d o)
  | .idot4 o => some (packAlu 0x1e o)
  | .permb o => some (packAlu 0x1f o)
  | .fadd o => some (packAlu 0x20 o)
  | .fsub o => some (packAlu 0x21 o)
  | .fmul o => some (packAlu 0x22 o)
  | .ffma o => some (packAlu 0x23 o)
  | .fmin o => some (packAlu 0x24 o)
  | .fmax o => some (packAlu 0x25 o)
  | .fdiv o => some (packAlu 0x26 o)
  | .fsqrt o => some (packAlu 0x27 o)
  | .frcp o => some (packAlu 0x28 o)
  | .frsq o => some (packAlu 0x29 o)
  | .fexp2 o => some (packAlu 0x2a o)
  | .flog2 o => some (packAlu 0x2b o)
  | .fsin o => some (packAlu 0x2c o)
  | .fcos o => some (packAlu 0x2d o)
  | .fclass o => some (packAlu 0x2e o)
  | .frnd o => some (packAlu 0x2f o)
  | .fscale o => some (packAlu 0x30 o)
  | .ffrxp o => some (packAlu 0x31 o)
  | .cvtff o => some (packAlu 0x32 o)
  | .cvtfi o => some (packAlu 0x33 o)
  | .cvtif o => some (packAlu 0x34 o)
  | .cvtn o => some (packAlu 0x35 o)
  | .cvtw o => some (packAlu 0x36 o)
  | .b4enc o => some (packAlu 0x37 o)
  | .b4dec o => some (packAlu 0x38 o)
  | .icmp o => some (packAlu 0x40 o)
  | .icmpi o => some (packImm 0x41 o)
  | .fcmp o => some (packAlu 0x42 o)
  | .sel o => some (packOwn 0x43 o)
  | .plop o => some (packOwn 0x44 o)
  | .pmov o => some (packOwn 0x45 o)
  | .qswz o => some (packOwn 0x50 o)
  | .qddx o => some (packAlu 0x51 o)
  | .qddy o => some (packAlu 0x52 o)
  | .qvote o => some (packOwn 0x53 o)
  | .rdsr o => some (packOwn 0x54 o)
  | .gmov o => some (packOwn 0x55 o)
  | .gwr o => some (packOwn 0x56 o)
  | .fspawn o => some (packOwn 0x57 o)
  | .ld o => some (packMem 0x60 o)
  | .st o => some (packMem 0x61 o)
  | .lds o => some (packMem 0x62 o)
  | .sts o => some (packMem 0x63 o)
  | .ldv o => some (packMem 0x64 o)
  | .ldp o => some (packPeer 0x65 o)
  | .stp o => some (packPeer 0x66 o)
  | .pref o => some (packMem 0x67 o)
  | .atom o => some (packAtom 0x80 o)
  | .acas o => some (packAtom 0x81 o)
  | .red o => some (packAtom 0x82 o)
  | .atomp o => some (packPeer 0x83 o)
  | .acasp o => some (packPeer 0x84 o)
  | .redp o => some (packPeer 0x85 o)
  | .fence o => some (packOwn 0x90 o)
  | .bar o => some (packOwn 0x91 o)
  | .bara o => some (packOwn 0x92 o)
  | .barc o => some (packOwn 0x93 o)
  | .cwait o => some (packOwn 0x94 o)
  | .cclose o => some (packOwn 0x95 o)
  | .mbarr o => some (packOwn 0x96 o)
  | .mbwait o => some (packOwn 0x97 o)
  | .qjoin o => some (packOwn 0x98 o)
  | .nano o => some (packOwn 0x99 o)
  | .br o => some (packImm 0xa0 o)
  | .brx o => some (packImm 0xa1 o)
  | .jmpr o => some (packOwn 0xa2 o)
  | .call o => some (packImm 0xa3 o)
  | .callr o => some (packOwn 0xa4 o)
  | .ret o => some (packOwn 0xa5 o)
  | .exit o => some (packOwn 0xa6 o)
  | .yield o => some (packOwn 0xa7 o)
  | .trap o => some (packOwn 0xa8 o)
  | .bkpt o => some (packOwn 0xa9 o)
  | .mclaim o => some (packOwn 0xb0 o)
  | .mrel o => some (packOwn 0xb1 o)
  | .mlda o => some (packOwn 0xb2 o)
  | .mldb o => some (packOwn 0xb3 o)
  | .mma o => some (packOwn 0xb4 o)
  | .mbegin o => some (packOwn 0xb5 o)
  | .mend o => some (packOwn 0xb6 o)
  | .mzero o => some (packOwn 0xb7 o)
  | .mdrain o => some (packOwn 0xb8 o)
  | .mldc o => some (packOwn 0xb9 o)
  | .msig o => some (packOwn 0xba o)
  | .mwait o => some (packOwn 0xbb o)
  | .mloop o => some (packImm 0xbc o)
  | .mstop o => some (packOwn 0xbd o)
  | .mmovi o => some (packImm 0xbe o)
  | .madd o => some (packOwn 0xbf o)
  | .tcopy o => some (packOwn 0xc0 o)
  | .tcopyp o => some (packOwn 0xc1 o)
  | .halo o => some (packOwn 0xc2 o)
  | .ared o => some (packOwn 0xc3 o)
  | .bcast o => some (packOwn 0xc4 o)
  | .tfill o => some (packOwn 0xc5 o)
  | .rqry o => some (packOwn 0xd0 o)
  | .rqnext o => some (packOwn 0xd1 o)
  | .rcq o => some (packOwn 0xd2 o)
  | .rcqt o => some (packOwn 0xd3 o)
  | .rcflip o => some (packOwn 0xd4 o)
  | .qpush o => some (packOwn 0xd5 o)
  | .qpop o => some (packOwn 0xd6 o)
  | .rcls o => some (packOwn 0xd7 o)
  | .rsub o => some (packOwn 0xd8 o)
  | .texs o => some (packOwn 0xd9 o)
  | .residCreate o => some (packOwn 0xe0 o)
  | .residDestroy o => some (packOwn 0xe0 o)
  | .residSetprio o => some (packOwn 0xe0 o)
  | .residSetpin o => some (packOwn 0xe0 o)
  | .residPromote o => some (packOwn 0xe0 o)
  | .residDemote o => some (packOwn 0xe0 o)
  | .residRead o => some (packOwn 0xe0 o)
  | .vpub o => some (packOwn 0xe1 o)
  | .vrecl o => some (packOwn 0xe2 o)
  | .cwb o => some (packOwn 0xe3 o)
  | .cinv o => some (packOwn 0xe4 o)
  | .iinv o => some (packOwn 0xe5 o)
  | .fetchb o => some (packOwn 0xe6 o)
  | .rdtime o => some (packOwn 0xe7 o)
  | .perfr o => some (packOwn 0xe8 o)
  | .lnchLaunch o => some (packOwn 0xe9 o)
  | .lnchBind o => some (packOwn 0xe9 o)
  | .lnchUnbind o => some (packOwn 0xe9 o)
  | .mtcr o => some (packOwn 0xea o)
  | .mfcr o => some (packOwn 0xeb o)
  | .halt o => some (packOwn 0xec o)
  | .ckpt o => some (packOwn 0xed o)
  | _ => none

/-- The 31 bits of a pair half (R205, R206). -/
def encodeHalf : Instr → Option (BitVec 31)
  | .hnop o => some (packHalf 0x00 o)
  | .halfIadd o => some (packHalf 0x01 o)
  | .halfIsub o => some (packHalf 0x02 o)
  | .halfAnd o => some (packHalf 0x03 o)
  | .halfOr o => some (packHalf 0x04 o)
  | .halfXor o => some (packHalf 0x05 o)
  | .halfShl o => some (packHalf 0x06 o)
  | .halfShr o => some (packHalf 0x07 o)
  | .halfSar o => some (packHalf 0x08 o)
  | .halfMov o => some (packHalf 0x09 o)
  | .halfImin o => some (packHalf 0x0a o)
  | .halfImax o => some (packHalf 0x0b o)
  | .halfFadd o => some (packHalf 0x0c o)
  | .halfFsub o => some (packHalf 0x0d o)
  | .halfFmul o => some (packHalf 0x0e o)
  | .halfFmin o => some (packHalf 0x0f o)
  | .halfFmax o => some (packHalf 0x10 o)
  | .halfMovi o => some (packHalf 0x11 o)
  | .halfIabs o => some (packHalf 0x12 o)
  | .halfIneg o => some (packHalf 0x13 o)
  | _ => none

/-- A pair word of two halves (R205). -/
def encodePair (h0 h1 : Instr) : Option Word :=
  match encodeHalf h0, encodeHalf h1 with
  | some a, some b => some (1#1 ++ 0#1 ++ a ++ b : BitVec 64)
  | _, _ => none

/-- The instruction the decoder reads from the bits `w` of a row of `nbits` bits (bits above `nbits` are zero):
a full-format word, or half 0 of a pair word. A header and a word that is no instruction give none. -/
def decodeTableWord (nbits w : Nat) : Option Instr :=
  match decodeBytes (bytesOf 8 (w % 2 ^ nbits)) with
  | .single i => some i
  | .pair h0 _ => some h0
  | _ => none

end Sys2Proof
end

