-- ==== Sys2Proof/Machine/State.lean ====
section
/-! DEFINITION. The whole state of the package as plain data (INVENTORY.md, State), and the state right after package
reset. A table that lists nothing for a number holds there what its reader's default says. -/

namespace Sys2Proof.Machine

/-! ## Why a step stops -/

/-- The machine stops with a fault. -/
inductive Fault where
  /-- Raised by an instruction word that is run while no agent of the State issues it (`cur` names no ferry in
  flight, no thread and no stream). The specification has no such step. Safe. -/
  | noIssuer
  deriving DecidableEq, Repr

/-- An instruction has no meaning here. -/
inductive Refusal where
  /-- Raised by `exec` for an instruction whose meaning is not written. Safe. -/
  | notModelled (mnemonic : String)
  deriving DecidableEq, Repr

/-! ## Memory -/

/-- Bytes at physical (or scratchpad) addresses, strictly rising, none equal to what an unlisted address reads as.
Canonical form: `Memory.wf` in Machine/Ops.lean. -/
abbrev Memory := List Host.Cell

/-- What an address that is not listed reads as. DESIGN CHOICE, log entry 1, unsafe for global memory;
for scratchpad, slots and accumulators it is the zero of R160, R286 and R287. -/
def unlisted : Byte := 0

/-- One dirty or clean 4-byte word in a cache: its value and the 4-bit elements of it that were stored
(all eight for a whole word, R42). DW = 1 exactly when `mask` is not zero; VW = 1 exactly when it is listed. -/
structure CacheWord where
  value : BitVec 32
  mask  : BitVec 8
  deriving DecidableEq, Repr

/-- One L1 line (R41): domain, lease stamp, and its valid words by word number 0 to 31; and the context of the latest
store into it, which an ownership grant names (R67). -/
structure L1Line where
  ctx   : BitVec 12
  dom   : Domain
  lease : BitVec 24
  /-- When the line was last used, by the count of uses of its L1 (R41). -/
  used  : Nat
  words : AMap CacheWord
  deriving DecidableEq, Repr

/-- State of a word of a line at a die that is not its home (R67). -/
inductive WordState where
  | S | E | M | O
  deriving DecidableEq, Repr

/-- One word in a die L2: value, elements not yet in memory, and its directory state (for PACKAGE, POD and HOST). -/
structure L2Word where
  value : BitVec 32
  mask  : BitVec 8
  st    : WordState
  deriving DecidableEq, Repr

/-- One line of a die L2 (R44, R62, R64, R66, R70). -/
structure L2Line where
  dom     : Domain
  words   : AMap L2Word
  k       : Nat
  wroteSinceFill : Bool
  lexp1   : Word
  c1      : Nat
  lexp2   : Word
  owner   : Option Nat
  ownMask : BitVec 32
  bounce  : Nat
  /-- Kept as one of the pinned lines of its set (R54). -/
  pin     : Bool
  deriving DecidableEq, Repr

/-- What the home directory keeps of one word: the dies that share it and the die that owns it (R67). -/
structure DirWord where
  sharers : List Nat
  owner   : Option (Nat × WordState)
  deriving DecidableEq, Repr

/-- What the home directory keeps of one line (R67, R70). -/
structure DirLine where
  words  : AMap DirWord
  bounce : Nat
  grant  : Option (BitVec 12)
  deriving DecidableEq, Repr

/-! ## Translation -/

/-- A translation as a TLB holds it: the page's VA number (VA shr 16), whether it is a 2 MiB page, the leaf's two
words, where the companion word lies, and the domain taken at the fill (R30). -/
structure TlbEntry where
  ctx   : BitVec 12
  page  : Nat
  big   : Bool
  pte   : Word
  comp  : Word
  compPa : Nat
  dom   : Domain
  deriving DecidableEq, Repr

/-- A non-leaf entry in the walk cache: level, VA index bits above that level's node, and the node named. -/
structure WalkEntry where
  ctx   : BitVec 12
  level : Nat
  index : Nat
  node  : Nat
  deriving DecidableEq, Repr

/-- A region of versioned memory as a die caches it (R110). -/
structure VersionEntry where
  words : List Word
  deriving DecidableEq, Repr

/-! ## Traps, faults and waits (chapter 14) -/

/-- The codes of R346. -/
inductive TrapCode where
  | illegalOp | illegalPair | illegalTarget | misaligned | pageFault | protection | versionGone | versionWindow
  | formatSize | memExhausted | dataLost | peerLost | barTimeout | quadDiverged | nestDepth | slotFault
  | queueFault | bkpt | swtrap | priv | window | rasterLinkLost | watchdog
  deriving DecidableEq, Repr

/-- A trap: its code and INFO words (R346). -/
structure Trap where
  code  : TrapCode
  info0 : Word
  info1 : Word
  deriving DecidableEq, Repr

/-- A trap record on its way to a trap queue (R345): the context and the eight words. -/
structure TrapPush where
  ctx   : BitVec 12
  words : List Word
  deriving DecidableEq, Repr

/-- The kind of a wait-table entry (R338). -/
inductive TokenKind where
  | fault | version | move | queue
  deriving DecidableEq, Repr

/-- What waits in a wait-table entry (R338, R340). -/
inductive Waiter where
  | fibre     (core place : Nat)
  | stream    (core slot : Nat)
  | command   (core slot id : Nat)
  | admission (die : Nat)
  | trapPush  (ctx : BitVec 12)
  /-- A store of a fibre that has ended: core, group slot and lane (R129). -/
  | ended     (core slot lane : Nat)
  /-- A store of a fibre that a SAVE holds (R105, R170): core, the number under which the group's commands go on, and lane. -/
  | saved     (core slot lane : Nat)
  /-- A peer's request in the window of a number, at this package (R27, R78). -/
  | peer      (window : Nat)
  deriving DecidableEq, Repr

/-- A lane store whose word has not reached its point of coherence (R105): a number of its instruction, its core, its fibre, whether that
fibre still lives, and its grid. -/
structure StoreRec where
  id    : Nat
  core  : Nat
  who   : Waiter
  live  : Bool
  grid  : Nat
  deriving DecidableEq, Repr

/-- The cause of a fault record (R340). -/
inductive FaultCause where
  | notPresent | poolEmpty | nodeFull
  deriving DecidableEq, Repr

/-- Where a versioned page's node lies, its leaf's companion word, and the page's domain. -/
structure NodeRef where
  node : Nat
  comp : Nat
  dom  : Domain
  deriving DecidableEq, Repr

/-- A write that has raised a version fault and is not performed yet (R118): context, page, the region that the page's node names, the
write version that its die then held, the writer, and a mark of the write: its PC, or the newest tag that a window had performed. -/
structure OwedWrite where
  ctx  : BitVec 12
  page : Nat
  rid  : Nat
  wv   : Nat
  who  : Waiter
  mark : Nat
  deriving DecidableEq, Repr

/-- One entry of a die's wait table (R338, R339). -/
structure WaitEntry where
  kind    : TokenKind
  ctx     : BitVec 12
  key     : Word
  waiters : List Waiter
  time    : Word
  cause   : FaultCause
  /-- For a version entry: the granule to copy (R116). -/
  gran    : Nat
  /-- For a version entry whose step under LOCK has been made, a copy or a reclaim: the time the engine waits for (R116). -/
  till    : Option Word
  /-- The node on which that step holds LOCK. -/
  leaf    : Option NodeRef
  /-- For a version entry: the region and the write version under which its first fault was raised (R118). -/
  rid     : Nat
  wv      : Nat
  /-- The slot that a copy in progress writes to. -/
  slot    : Option Nat
  /-- Frames that the copy's reclaim freed and that go to the return ring (R116, R120). -/
  freed   : List Nat
  /-- Of the first access: it also reads, an engine makes it, and the PC that a record gives (R340). -/
  rmw     : Bool
  eng     : Bool
  pc      : Nat
  /-- For a queue entry: lanes wait in it for a record to pop, and lanes wait for a slot to push to (R322). -/
  pops    : Bool
  pushes  : Bool
  deriving DecidableEq, Repr

/-! ## Fibres (chapter 06) -/

/-- WAITK (R127). -/
inductive WaitKind where
  | none | groupBarrier | clusterBarrier | phase | rendezvous | token | trap
  deriving DecidableEq, Repr

/-- ROLE (R127). -/
inductive Role where
  | compute | copy | epilogue
  deriving DecidableEq, Repr

/-- Whether the fibre of a place lives, or what has become of its window (R129). A stopped control thread issues
nothing until the host restarts it (R336). -/
inductive Life where
  | live | kept | draining | stopped
  deriving DecidableEq, Repr

/-- What a scratchpad address selects (R22, R25). -/
inductive ScrTarget where
  | group (off : Nat)
  | cluster (off : Nat)
  | window (reg byte : Nat)
  deriving DecidableEq, Repr

/-- Where an access goes that is not performed yet: a resolved place of global memory, or scratchpad. -/
inductive LatePlace where
  | memory  (pa : Nat) (dom : Domain) (e : TlbEntry) (va : Word)
  | scratch (t : ScrTarget)
  deriving DecidableEq, Repr

/-- What an access does that is not performed yet: a plain load, a plain store, the own store of a release whose push is over, or an
atomic with its operation, and whether its old value is wanted. A peer access to the own package is performed at the home (R27). -/
inductive LateKind where
  | load | store | release
  | peerLoad | peerStore
  | aop (op : Aop) (old : Bool)
  | cas (new : Nat)
  deriving DecidableEq, Repr

/-- An access of a fibre, or one half of a 16-byte one, that is not performed yet (R85, R90): what it does, the stamp of its
instruction, where, its bytes and its data (of an atomic the operand, or the value compared), and for a load its register, size and
extension. -/
structure LateAccess where
  kind  : LateKind
  stamp : Nat
  ctx   : BitVec 12
  at_   : LatePlace
  n     : Nat
  data  : Nat
  reg   : Nat
  sz    : Sz
  sx    : Bool
  /-- An acquire: it is performed at the point of coherence, and later accesses of its fibre wait for it (R92). -/
  acq   : Bool
  deriving DecidableEq, Repr

/-- A load that a fibre has performed before an earlier word that need not come first (R90): its address and size, whether it is an
acquire, the physical address and domain, and the value. -/
structure EarlyLoad where
  va    : Word
  n     : Nat
  acq   : Bool
  pa    : Nat
  dom   : Domain
  value : Nat
  deriving DecidableEq, Repr

/-- A long-latency result or access that has not landed (R150): the completion flag it counts in, the registers,
predicates and FPSTAT flags it writes, the line it read (R47), and the fabric request it awaits
(target, plane, tag). -/
structure Pending where
  flag  : Option (Fin 12)
  regs  : List (Nat × Word)
  preds : List (Nat × Bool)
  fp    : BitVec 5
  line  : Option Nat
  await : Option (Nat × Nat × BitVec 16)
  peerSz : Sz
  /-- The accesses that it has still to perform, in no fixed order. -/
  late  : List LateAccess
  /-- The result of an arithmetic unit, which a park waits for (R234, R237). -/
  unit  : Bool
  deriving DecidableEq, Repr

/-- A transient result (R148): register, the value the banks still hold, the ferry word at which it was written,
and whether that block still runs. -/
structure Transient where
  reg     : Nat
  old     : Word
  pos     : Nat
  inBlock : Bool
  deriving DecidableEq, Repr

/-- One item of the stack of an open ray query (R354): a child reference with its entry distance,
or the mark at which an instance is left. -/
inductive RayItem where
  | ref   (ref : Word) (dist : BitVec 32)
  | leave
  | tris  (addr : Word) (next count : Nat)
  deriving DecidableEq, Repr

/-- The frame of a ray inside nested instances (R314, R354). -/
structure RayFrame where
  o    : List (BitVec 32)
  d    : List (BitVec 32)
  inst : BitVec 32
  opq  : Bool
  xform : List (BitVec 32)
  deriving DecidableEq, Repr

/-- A committed hit or a candidate (R312). -/
structure RayHit where
  t     : BitVec 32
  prim  : BitVec 32
  inst  : BitVec 32
  u     : BitVec 32
  v     : BitVec 32
  front : Bool
  level : Nat
  /-- The composed transform of its instances (R314). -/
  xform : List (BitVec 32)
  deriving DecidableEq, Repr

/-- What an open query waits for an answer to (R313, R314). -/
inductive RayAsk where
  | none
  | candidate (h : RayHit)
  | depth
  deriving DecidableEq, Repr

/-- The open ray query of a fibre (R312 to R316). -/
structure Query where
  token   : Word
  flags   : BitVec 5
  tmin    : BitVec 32
  tmax    : BitVec 32
  mask    : BitVec 8
  frames  : List RayFrame
  stack   : List RayItem
  hit     : Option RayHit
  ask     : RayAsk
  ended   : Bool
  /-- PC of the instruction whose structure read parked: re-executed, it continues the query (R316). -/
  parked  : Option (BitVec 48)
  /-- The registers that its latest step writes. -/
  out     : List (Nat × Word)
  deriving DecidableEq, Repr

/-- A fibre of a main core, or a thread of a control core (R127, R214). -/
structure Fibre where
  pc      : BitVec 48
  pred    : BitVec 16
  window  : List Word
  wbase   : Nat
  gslot   : Nat
  lane    : Nat
  role    : Role
  helper  : Bool
  waitk   : WaitKind
  barn    : Nat
  token   : Nat
  flags   : List Nat
  fpstat  : BitVec 5
  life    : Life
  lossCount : Nat
  lossId  : Option Nat
  settle  : Word
  notices : List Nat
  openBatch : List Nat
  closedBatches : List (List Nat)
  view    : AMap (AMap Word)
  query   : Option Query
  pending : List Pending
  trans   : List Transient
  /-- Traps to be taken at the next block boundary, with the stream PC of a sequencer trap. -/
  due     : List (Trap × Option (BitVec 48))
  /-- Completion time that earlier maintenance and pushes still have (R58, R91). -/
  pushTc  : Word
  /-- Resumed after a park: it issues only when all its flags are zero (R154). -/
  resumed : Bool
  /-- A restored fibre issues nothing until the GTB has passed this time (R108). -/
  holdTill : Word
  /-- SETA and SETB of the clause in which the fibre parked: they stay in force where it resumes (R154). -/
  sets    : Option (Fin 12) × Option (Fin 12)
  /-- The block in which the fibre parked is one whose first header has Q = 1 (R249). -/
  blockQ  : Bool
  /-- Parked by the fetch of the first header of a block that it goes to: it goes to that block again as it did then (R134). -/
  target  : Bool
  /-- A maintenance word that parked: its PC, and the line of addresses at which it restarts (R59). -/
  maint   : Option (BitVec 48 × Nat)
  /-- The barrier or phase the fibre still waits on, while it is parked at the fetch of its next block. -/
  after   : Option (WaitKind × Nat)
  /-- Lines of its release's words whose back-invalidations it waits for (R71, R91). -/
  biLines : List Nat
  /-- Loads performed ahead of words that need not come first (R90). -/
  early   : List EarlyLoad
  deriving DecidableEq, Repr

/-! ## Groups, clusters, streams and engine commands -/

/-- A barrier (R145, R147): how many phases completed, the places that have arrived in the current one, and the
first arrival's tick with the BAR_LIMIT then in force. -/
structure Barrier where
  phase   : Nat
  arrived : List Nat
  first   : Option (Word × Word)
  deriving DecidableEq, Repr

/-- The tag of an operand slot (R286): role B or A, and format. -/
structure SlotTag where
  isB : Bool
  ty  : Ty
  deriving DecidableEq, Repr

/-- A physical operand slot that a group has claimed (R286). -/
structure OperandSlot where
  group   : Nat
  logical : Nat
  tag     : Option SlotTag
  bytes   : Memory
  deriving DecidableEq, Repr

/-- The tag of an accumulator unit (R287). -/
inductive UnitTag where
  | none | f32 | i32 | f64Low | f64High
  deriving DecidableEq, Repr

/-- One MMA of an ANY chain whose steps wait for the end of the chain (R193). -/
structure LaterMma where
  tile : Nat
  tya  : Ty
  tyb  : Ty
  a    : Memory
  b    : Memory
  deriving DecidableEq, Repr

/-- The open chain (R296): its kind, the tiles it has written, and the MMAs of an ANY chain. -/
structure Chain where
  any     : Bool
  written : List Nat
  later   : List LaterMma
  deriving DecidableEq, Repr

/-- What a matrix stream does next (R283 to R285, R292, R297). -/
inductive StreamState where
  | running
  | waitClaim
  /-- At MWAIT, until the next completion of an object. -/
  | waitPhase (n : Nat)
  | parked (token : Nat)
  | ended
  | stopped
  deriving DecidableEq, Repr

/-- A matrix stream in its sequencer context (R282 to R287). `units` holds an accumulator unit's 256 words. -/
structure Stream where
  pc    : BitVec 48
  m     : List Word
  st    : StreamState
  tags  : AMap UnitTag
  units : AMap (AMap (BitVec 32))
  chain : Option Chain
  ctxNo : Nat
  /-- The word at the stream's PC, where the sequencer has fetched it already. -/
  held  : Option Word
  /-- A restored stream issues nothing until the GTB has passed this time (R108). -/
  holdTill : Word
  deriving DecidableEq, Repr

/-- What an engine command does (R102, R298 to R309, R318, R319, R325, R330). -/
inductive CommandBody where
  | copy  (esz path : Nat) (desc : List Word) (arrive : Option Nat)
  | fill  (esz : Nat) (scratch : Bool) (pattern start count : Word) (arrive : Option Nat)
  | copyPeer (esz path : Nat) (desc : List Word) (peer : Word) (arrive : Option Nat)
  | halo  (esz : Nat) (scratch : Bool) (desc : List Word) (peer counter : Word)
  | ared  (ty : Ty) (op : Nat) (det : Bool) (src dst count : Word)
  | bcast (va count root : Word)
  | vpub  (d region : Nat)
  | vrecl (d region : Nat) (version : BitVec 16)
  | rsub  (target : Word) (verts : List Word)
  | sample (net : Nat) (words : List Word)
  | flip  (net : Nat)
  | join  (id : Nat) (mask : BitVec 7)
  deriving DecidableEq, Repr

/-- An engine command in its queue (R101, R102). -/
structure Command where
  id     : Nat
  place  : Nat
  body   : CommandBody
  /-- The issue push's completion time: the command reads nothing before (R101). -/
  tc     : Word
  /-- The lines whose back-invalidations the issue push waits for (R71, R101). -/
  lines  : List Nat
  /-- Elements below this number are performed, and those of the list above it (R300: in no fixed order). -/
  progress : Nat
  ahead    : List Nat
  /-- Elements read and not yet written, with the value read. -/
  vals   : AMap Nat
  /-- The element whose value a peer has been asked for. -/
  asked  : Option Nat
  /-- Peer accesses to be sent again, by accelerator ID, after a page at the peer (R27). -/
  redo   : List (Nat × FabricOp)
  /-- The latest completion time of its writes (R101). -/
  wtc    : Word
  /-- Every access is performed. -/
  done   : Bool
  /-- Paused at a page under a token (R305). -/
  paused : Option Nat
  /-- The element whose write paused: the command goes on with it (R116). -/
  retry  : Option Nat
  deriving DecidableEq, Repr

/-- A command of which nothing is performed. -/
def Command.fresh (id place : Nat) (body : CommandBody) (tc : Word) (lines : List Nat) : Command :=
  { id := id, place := place, body := body, tc := tc, lines := lines, progress := 0, ahead := [], vals := [], asked := none, redo := [],
    wtc := 0, done := false, paused := none, retry := none }

/-- A resident group (R126, R160). -/
structure Group where
  grid    : Nat
  index   : Nat
  ctx     : BitVec 12
  rank    : Nat
  cluster : Nat
  width   : Nat
  first   : Nat
  quads   : Bool
  gregs   : List Word
  scratch : Memory
  scratchSize : Nat
  scratchBase : Nat
  poolBytes : Nat
  /-- Window base of each lane, and the role and window size of each lane (R127, R157). -/
  bases   : List Nat
  roles   : List (Role × Nat)
  barriers : AMap Barrier
  queues  : List (List Command)
  nextCmd : Nat
  stream  : Option Stream
  deriving DecidableEq, Repr

/-- A resident cluster (R126): its groups' slots, its segment and its barrier. -/
structure Cluster where
  slots   : List Nat
  scratch : Memory
  scratchSize : Nat
  scratchBase : Nat
  barrier : Barrier
  deriving DecidableEq, Repr

/-! ## Cores -/

/-- A block-table entry (R133); WVEC as the list of its places, rising. -/
structure BlockEntry where
  ctx  : BitVec 12
  addr : BitVec 48
  q    : Bool
  yh   : BitVec 2
  wvec : List Nat
  age  : Nat
  cur  : Nat
  rs   : Bool
  deriving DecidableEq, Repr

/-- A fibre in the holding list with its key (R134, R135), and the selections made when it was appended. -/
structure Held where
  place : Nat
  ctx   : BitVec 12
  addr  : BitVec 48
  rs    : Bool
  since : Nat
  deriving DecidableEq, Repr

/-- The clause a ferry is in (R209): instruction words left, SETA, SETB and E. -/
structure ClauseState where
  /-- False in the clause in which a resumption ferry began: its LEN and E are not checked (R154). -/
  known : Bool
  left : Nat
  setA : Option (Fin 12)
  setB : Option (Fin 12)
  e    : Bool
  deriving DecidableEq, Repr

/-- What holds a ferry in flight (R91, R118, R270, R278): nothing; a release or fence of the instruction until the GTB
has passed its completion time; acquires of peer memory until they are performed; an instruction that waits, lane by lane, until an engine accepts it; a
pause. -/
inductive Hold where
  | none
  | release (tc : Word) (i : Instr)
  | acquire
  | accept (tc : Word) (i : Instr) (todo : List Nat)
  | nano (till : Word)
  deriving DecidableEq, Repr

/-- A ferry in flight (R136, R137). `held` are the words it has fetched (R55). -/
structure Ferry where
  ctx   : BitVec 12
  entry : BitVec 48
  rs    : Bool
  q     : Bool
  lanes : List Nat
  pc    : BitVec 48
  clause : Option ClauseState
  clauses : Nat
  pos   : Nat
  held  : AMap Word
  hold  : Hold
  deriving DecidableEq, Repr

/-- The event counts of one context on one core (R333, events 0x01 to 0x05). -/
structure Counters where
  words      : Nat
  selections : Nat
  l1fills    : Nat
  tlbmiss    : Nat
  bankcyc    : Nat
  deriving DecidableEq, Repr

/-- A core: main cores 0 to 639 (160 d + c), control cores 640 to 703 (640 + 16 d + c). -/
structure Core where
  fibres   : AMap Fibre
  groups   : AMap Group
  clusters : AMap Cluster
  table    : AMap BlockEntry
  holding  : List Held
  ferries  : AMap Ferry
  nextFerry : Nat
  selCount : Nat
  l1       : AMap L1Line
  /-- Uses of L1 lines so far: the order in which victims are chosen (R41). -/
  l1Clock  : Nat
  icache   : AMap (List Word)
  dtlb     : List TlbEntry
  itlb     : List TlbEntry
  /-- The pages that the data TLB missed in the step of a count: an instruction looks each page up once (R31). -/
  missed   : Nat × List Nat
  slots    : AMap OperandSlot
  claims   : List Nat
  asleep   : Bool
  /-- When the event came that wakes it from sleep: the exit takes at most 200 ticks (R60). -/
  wakeAt   : Option Word
  idleSince : Word
  counters : AMap Counters
  spad     : Nat
  spadPend : Option Nat
  spadErr  : Bool
  /-- Latest completion time of the words that left this L1 other than by a release (R71, R89). -/
  pushTc   : Word
  /-- The lane stores in each dirty word of the L1 (R105). -/
  owing    : AMap (List StoreRec)
  /-- The selections made when an entry last became free for held fibres (R135). -/
  freeSel  : Nat
  /-- Words outside CORE that have left the L1, or were written past it, and whose push is not complete, with their domains: the
  core's releases cover them (R71, R91). -/
  sent     : AMap Domain
  deriving DecidableEq, Repr

/-! ## Launch (chapter 07) -/

/-- A queue binding of a grid (R167). -/
structure Binding where
  queue    : Word
  idle     : Word
  lastPush : Word
  /-- The idle interval has expired: partial groups may be dispatched. -/
  idleGone : Bool
  /-- TAIL as last seen. -/
  tail     : Word
  unbound  : Bool
  deriving DecidableEq, Repr

/-- A grid that LNCH accepted and that has not ended (R156 to R168). -/
structure Grid where
  rcd      : List Word
  ctx      : BitVec 12
  lq       : Nat
  next     : Nat
  returned : List Nat
  discarded : Bool
  killed   : Bool
  prot     : Bool
  peerLost : Bool
  dataLost : Bool
  ampl     : Bool
  losts    : Nat
  lostId   : Option Nat
  drops    : Nat
  pushes   : Nat
  budget   : Option Nat
  binding  : Option Binding
  coresRan : List Nat
  /-- Accelerator IDs of the ranks of the span, as LNCH read them (R158); the package alone without SPAN. -/
  members  : List Nat
  /-- Completion time of the write-backs at the end (R168), once they are made. -/
  ending   : Option Word
  deriving DecidableEq, Repr

/-- A batch on its way to a die: the grid and the first group of each cluster still to be placed (R163). -/
structure Batch where
  die      : Nat
  grid     : Nat
  clusters : List Nat
  deriving DecidableEq, Repr

/-- Where a group of a planned cluster goes (R163, R164): group slot, first place, window bases by lane, scratchpad base
and sequencer context. -/
structure GroupPlan where
  slot  : Nat
  first : Nat
  bases : List Nat
  sbase : Nat
  seq   : Option Nat
  deriving DecidableEq, Repr

/-- Resources set aside for a cluster: its core, its first group's index, the cluster number on the core, its groups and
its scratchpad base. -/
structure ClusterPlan where
  core   : Nat
  first  : Nat
  id     : Nat
  groups : List GroupPlan
  cbase  : Nat
  deriving DecidableEq, Repr

/-- A span reservation (R166): grid, SPANID and the ranks that have reported READY. -/
structure SpanHold where
  grid   : Nat
  spanId : BitVec 16
  ready  : List Nat
  deriving DecidableEq, Repr

/-- What the device keeps of a saved cluster beside its save records (R170 to R173): the work that its fibres have issued, their
marks and losses, and the time-outs of its barriers. Its groups are known by grid, index and the time of the suspension. -/
structure SavedCluster where
  ctx     : BitVec 12
  core    : Nat
  grid    : Nat
  at_     : Word
  /-- Group slots of this cluster are `base` more, a multiple of 256, where what its groups have issued still goes on. -/
  base    : Nat
  /-- The completion time of the write-backs of its core (R108). -/
  tc      : Word
  groups  : AMap Group
  barrier : Barrier
  fibres  : AMap Fibre
  deriving DecidableEq, Repr

/-- A PRE_CTL operation in progress (R169), and the records that a RESTORE is done with. -/
structure PreOp where
  ctx   : BitVec 12
  op    : Nat
  scope : Nat
  die   : Nat
  core  : Nat
  placed : List Nat
  deriving DecidableEq, Repr

/-! ## Dies -/

/-- A VPUB or VRECL that a snapshot engine has accepted and not completed (R118, R121). -/
structure SnapOp where
  ctx    : BitVec 12
  region : Nat
  /-- For a VRECL: the next page to visit. `none` for a VPUB. -/
  page   : Option Nat
  /-- For a VRECL: the time after which the lines of the frames freed at that page may be dropped, the
  frames not yet returned, and whether any was freed (R121). -/
  freed  : Option (Word × List Nat × Bool)
  /-- For a VRECL: the node on which it holds LOCK. -/
  leaf   : Option NodeRef
  /-- The command that issued it: core, group slot and command number. -/
  issuer : Nat × Nat × Nat
  deriving DecidableEq, Repr

/-- Holders of a POD line at other packages (R73): up to four, or, with SPAN, every member of the span. -/
structure SnoopEntry where
  holders : List Nat
  span    : Bool
  members : List Nat
  deriving DecidableEq, Repr

/-- A die. -/
structure Die where
  dead     : Bool
  inc      : BitVec 16
  l2       : AMap L2Line
  dir      : AMap DirLine
  tlb      : List TlbEntry
  walks    : List WalkEntry
  wait     : AMap WaitEntry
  versions : AMap VersionEntry
  /-- Region-table contents of a context that the die has kept, each as it was read (R30). -/
  regions  : AMap (List (List Word))
  snaps    : List SnapOp
  /-- Completion times of word pushes into this L2 or this home, by word number (R64, R68, R95). -/
  tcs      : AMap Word
  /-- Snoop filter of the lines homed here (R73). -/
  snoop    : AMap SnoopEntry
  /-- The lane stores in each word that the die holds in M or O (R105). -/
  owing    : AMap (List StoreRec)
  /-- Write-backs of a dead die that have not arrived yet: each is dropped and counted (R81). -/
  late     : Nat
  deriving DecidableEq, Repr

/-! ## Package engines -/

/-- STATE of a residency handle (R48). -/
inductive HandleState where
  | idle | moving | noframes
  deriving DecidableEq, Repr

/-- A residency handle (R48). `second` is TIER. -/
structure Handle where
  ctx    : BitVec 12
  num    : Nat
  base   : Word
  pages  : Nat
  prio   : Nat
  second : Bool
  pinReq : Nat
  pinGot : Nat
  st     : HandleState
  seq    : Nat
  /-- The lines that the handle pins, as first line and number of lines of each page's part (R54). -/
  pinned : List (Nat × Nat)
  deriving DecidableEq, Repr

/-- The move in progress (R50): handle by SEQ, destination, frames taken and not used, pages done, and the old frame
that waits for room on the release ring. -/
structure Move where
  seq     : Nat
  toSecond : Bool
  frames  : List Nat
  done    : Nat
  /-- The page whose translations are held (R50, step 1), its write-backs' completion time. -/
  held    : Option (Nat × Word)
  old     : Option Nat
  deriving DecidableEq, Repr

/-- A radiance network slot (R317 to R319, R360 to R362). -/
structure Net where
  reg      : Word
  /-- RC_SLOT as it was before a write whose effect waits (R360). -/
  pend     : Option Word
  adam     : Word
  queue    : List (List Word)
  master   : AMap (BitVec 32)
  moments  : AMap (BitVec 32)
  replicas : AMap (AMap (BitVec 16))
  /-- Weights of an accepted RCFLIP that a die has still to switch to, by die (R319). -/
  incoming : AMap (AMap (BitVec 16))
  loaded   : Bool
  dropped  : Nat
  steps    : Nat
  /-- Whole steps since the slot's state was loaded. -/
  taken    : Nat
  /-- The step under way: RC_ADAM at its start, and its samples where they have left the queue (R362). -/
  run      : Option (Word × List (List Word))
  deriving DecidableEq, Repr

/-- A raster submission that was accepted (R357 to R359): the dies that have still to consume it, the pixel count of
a proxy, the issuer. -/
structure Submission where
  id     : Nat
  ctx    : BitVec 12
  target : Word
  /-- Where the descriptor lay when SEQ was taken. -/
  pa     : Nat
  desc   : List Word
  seq    : BitVec 32
  verts  : List Word
  todo   : List Nat
  /-- The covered pixels, by number, that have been performed. -/
  did    : List Nat
  count  : Nat
  pushed : Bool
  issuer : Nat × Nat × Nat
  place  : Nat
  deriving DecidableEq, Repr

/-- A fabric request of this package without a response (R77): tag, what it asks, the tick of its first issue, and
who waits: a fibre's load (core, place), a store counted for loss (core, place), or an engine command. -/
structure SentRequest where
  tag   : BitVec 16
  op    : FabricOp
  since : Word
  waiter : Waiter
  value : Bool
  /-- PC of the instruction, SETA and SETB of its clause, and the tick of the latest issue. -/
  pc    : BitVec 48
  sets  : Option (Fin 12) × Option (Fin 12)
  sent  : Word
  /-- A read whose response may still be kept as a copy: neither a store of this package to its line nor a BISnp has come
  between (R73, R87). -/
  keep  : Bool
  deriving DecidableEq, Repr

/-- Requests of this package to one target on one logical plane (R77). -/
structure SendWindow where
  next : BitVec 16
  sent : List SentRequest
  deriving DecidableEq, Repr

/-- The tag window of one source, incarnation and logical plane (R78). -/
structure RecvWindow where
  inc   : BitVec 16
  n     : BitVec 16
  done  : List (BitVec 16 × PeerAnswer)
  held  : List FabricRequest
  /-- Of the request with the next tag, the accesses that are performed already, by number, with the bytes read (R85). -/
  part  : AMap (List Byte)
  deriving DecidableEq, Repr

/-- The recovery timer of a logical plane (R77): idle, or stopped since a tick. -/
inductive TimerState where
  | idle
  | stopped (since : Word)
  deriving DecidableEq, Repr

/-- Bytes of a remote line that this package keeps (R73): home, its incarnation, the home's line, the first byte's address and
the bytes; whether the die L2 still holds them; and the lease of each core's L1 on them (R62, R74). DEDUCED, log entry 61: a
response to a read names the home's line. -/
structure PeerCopy where
  home  : Nat
  inc   : BitVec 16
  line  : Nat
  va    : Word
  bytes : List Byte
  inL2  : Bool
  leases : AMap Word
  deriving DecidableEq, Repr

/-- A request of an ended or saved fibre that met a page not present at its target (R27): it is sent again once the wait-table entry of
its page is gone. Target, die of the entry, context, page, and the request. -/
structure PeerRedo where
  id  : Nat
  die : Nat
  ctx : BitVec 12
  key : Word
  req : SentRequest
  deriving DecidableEq, Repr

/-- A wait-table entry of another package for whose page this package has written a fault record (R339, R340): package, die, token,
context and page. -/
structure PeerFault where
  src   : Nat
  die   : Nat
  token : Nat
  ctx   : BitVec 12
  key   : Word
  deriving DecidableEq, Repr

/-- The scale-up fabric's state (R73 to R80). Keys of the windows: 16 id + plane. -/
structure Fabric where
  steer    : Word
  down     : BitVec 16
  quiesce  : BitVec 16
  rto      : BitVec 32
  rtoErr   : Bool
  peers    : AMap Word
  send     : AMap SendWindow
  recv     : AMap RecvWindow
  timers   : AMap TimerState
  /-- Back-invalidations that the home counts as in progress, one for each: line and holder (R74). -/
  biPending : List (Nat × Nat)
  /-- BIrsp that this package owes as a holder: home, line, and the time after which it is sent (R74). -/
  biOwed   : List (Nat × Nat × Word)
  copies   : List PeerCopy
  redo     : List PeerRedo
  peerFaults : List PeerFault
  staleDrops : Word
  dupDrops : Word
  resends  : Word
  biSent   : Word
  deriving DecidableEq, Repr

/-- A message to the host (R389): vector, and what it carries. -/
structure HostMessage where
  vector : Nat
  words  : List Word
  deriving DecidableEq, Repr

/-- A checkpoint cut whose steps 2 to 4 are under way (R398): the manifest, the members by rank, the frames kept, and how many 4-byte words
each stack has copied. -/
structure CutRun where
  man    : Nat
  ids    : List Nat
  frames : List Nat
  pos    : AMap Nat
  deriving DecidableEq, Repr

/-- The device control registers that no other part of State holds, and platform state (chapter 19). -/
structure Platform where
  devid     : Word
  bootCode  : BitVec 8
  okBits    : BitVec 3
  stage     : BitVec 8
  pkgCfg    : Word
  ckptCtl   : Word
  imgBase   : Word
  imgCtl    : Word
  images    : List (BitVec 384)
  svn       : BitVec 32
  fusedSvn  : BitVec 32
  attBase   : Word
  attCtl    : Word
  attNonce  : List Word
  ctxtab    : Word
  traptab   : Word
  fbuf      : Word
  rmring    : Word
  shootVa   : Word
  shootCtl  : Word
  /-- The shootdown in progress: SHOOT_VA and SHOOT_CTL at GO, and the dies that it visits (R36). -/
  shooting  : Option (Word × Word × List Nat)
  replayVa  : Word
  replayCtl : Word
  faultWd   : BitVec 32
  preCtl    : Word
  preBase   : Word
  preSize   : BitVec 32
  islands   : AMap Word
  /-- Islands queued for admission, with the tick of the request, and when an island was last admitted (R392). -/
  wakeQueue : List (Nat × Word)
  lastAdmit : Word
  admitted  : AMap Word
  linkUp    : BitVec 8
  trained   : Bool
  masked    : BitVec 8
  msixPending : BitVec 8
  /-- What the latest message of a pending vector carries. -/
  msixHeld  : AMap (List Word)
  expanders : List Nat
  failedPorts : List Nat
  poisoned  : List Nat
  /-- Lines of HBM that the host holds a copy of, through CXL.mem (R71, R388). -/
  hostLines : List Nat
  /-- The checkpoint in progress: control core, ferry and place of the thread that waits (R398). -/
  ckptCut   : Option (Nat × Nat × Nat)
  cutRun    : Option CutRun
  ckptRestore : Bool
  deriving DecidableEq, Repr

/-- The control registers of MTCR and MFCR (R335). -/
structure ControlRegs where
  ageCap      : Nat
  barLimit    : AMap Word
  rclsThresh  : AMap (BitVec 32)
  amplBudget  : AMap (BitVec 32)
  peerTimeout : Nat
  lottery     : BitVec 32
  stagger     : Nat
  tickets     : AMap Word
  deriving DecidableEq, Repr

/-- Who issues instruction words. A control-core thread is a one-lane ferry of its control core. -/
inductive Agent where
  | none
  | ferry  (core ferry : Nat)
  | stream (core slot : Nat)
  deriving DecidableEq, Repr

/-- What moves next: a step of another agent, the next word of an issuing agent, or the passing of a tick. -/
inductive Turn where
  | ev (i : Instr)
  | run (a : Agent)
  | tick
  deriving DecidableEq, Repr

/-- The state of the package. -/
structure State where
  gtb      : Word
  mem      : Memory
  cores    : AMap Core
  dies     : AMap Die
  regs     : ControlRegs
  plat     : Platform
  fabric   : Fabric
  records  : AMap (List Word)
  queues   : AMap (List Nat)
  blocked  : List Nat
  nextGrid : Nat
  grids    : AMap Grid
  batch    : Option Batch
  colocate : Option Nat
  /-- Clusters for which resources are set aside, by grid: COLOCATE and span placements, and an admission that waits. -/
  plans    : AMap (List ClusterPlan)
  span     : Option SpanHold
  /-- Span launches made, latest first: SPANID and members by rank (R337). -/
  spans    : List (BitVec 16 × List Nat)
  /-- READY reports that have arrived: SPANID and rank (R166). -/
  readies  : List (BitVec 16 × Nat)
  saved    : List SavedCluster
  /-- Saved groups that a KILL has ended: grid, index and time of suspension (R173). -/
  voided   : List (Nat × Nat × Word)
  /-- Resume commands that name a fibre of a saved group: they act once it is restored (R170). -/
  heldResumes : List (BitVec 12 × List Word)
  suspended : List (BitVec 12)
  preOp    : Option PreOp
  kills    : List (BitVec 12)
  handles  : List Handle
  nextSeq  : Nat
  moves    : List (Nat × Bool)
  move     : Option Move
  /-- Automatic demotions tried for a promotion that has not started: its handle's and theirs (R53). -/
  autoTried : List (Nat × Nat)
  nets     : List Net
  subs     : List Submission
  nextSub  : Nat
  /-- Fibres that have submitted to a raster target since its frame was last aborted: context, target and where the descriptor lay;
  core, group slot and place (R325). -/
  submitters : List ((BitVec 12 × Word × Nat) × (Nat × Nat × Nat))
  /-- Writes that have raised version faults and are not performed yet (R118). -/
  owed     : List OwedWrite
  collSeq  : AMap Nat
  records2 : List (List Word)
  trapPushes : List TrapPush
  messages : List HostMessage
  turns    : List Turn
  cur      : Agent
  freeCtr  : Nat
  /-- The tick of the latest bounce decay (R70). -/
  decayed  : Word
  deriving DecidableEq, Repr

/-! ## Reset -/

/-- A core right after reset: nothing resident, SPAD 16 (R38). -/
def Core.reset : Core :=
  { fibres := [], groups := [], clusters := [], table := [], holding := [], ferries := [], nextFerry := 0,
    selCount := 0, l1 := [], l1Clock := 0, icache := [], dtlb := [], itlb := [], missed := (0, []), slots := [], claims := [], asleep := false, wakeAt := none,
    idleSince := 0, counters := [], spad := 16, spadPend := none, spadErr := false, pushTc := 0, owing := [], freeSel := 0, sent := [] }

/-- A die right after reset (R79, R61). -/
def Die.reset : Die :=
  { dead := false, inc := 0, l2 := [], dir := [], tlb := [], walks := [], wait := [], versions := [], regions := [],
    snaps := [], tcs := [], snoop := [], owing := [], late := 0 }

/-- The fabric right after reset: STEERp = p, nothing down or quiesced, RTO 50,000 (R76, R78), every PEER_INC 0. -/
def Fabric.reset : Fabric :=
  { steer := 0xFEDC_BA98_7654_3210, down := 0, quiesce := 0, rto := 50000, rtoErr := false, peers := [], send := [],
    recv := [], timers := [], biPending := [], biOwed := [], copies := [], redo := [], peerFaults := [], staleDrops := 0, dupDrops := 0,
    resends := 0, biSent := 0 }

/-- A network slot right after reset: unassigned, RC_ADAM at its reset value (R335, R360). -/
def Net.reset : Net :=
  { reg := 0, pend := none, adam := 0x0001_3BFF_3B33_1419, queue := [], master := [], moments := [], replicas := [],
    incoming := [], loaded := false, dropped := 0, steps := 0, taken := 0, run := none }

/-- The control registers right after reset (R335). -/
def ControlRegs.reset : ControlRegs :=
  { ageCap := 64, barLimit := [], rclsThresh := [], amplBudget := [], peerTimeout := 2000000, lottery := 1,
    stagger := 100, tickets := [] }

/-- The island that the sequencer admits as number `k` after reset (R392): the dies take turns, die 0 first, each with its islands in
ascending order. That a die's islands of a kind are its share of them, in order, is DEDUCED (log entry 4). -/
def resetIsland (k : Nat) : Nat :=
  let d := k % 4
  let j := k / 4
  if j < 40 then 40 * d + j else if j < 44 then 160 + 4 * d + (j - 40) else if j < 48 then 176 + 4 * d + (j - 44)
  else if j < 56 then 192 + 8 * d + (j - 48) else if j < 57 then 224 + d else if j < 58 then 228 + d else 232 + 6 * d + (j - 58)

/-- The platform right after reset (R386 to R399). DESIGN CHOICE for STEP, the bring-up registers, PRE_BASE, PRE_SIZE,
the fuses, the host link and the expanders: log entries 2 and 3. PRESUMED, log entry 85: the MSI-X vectors are masked, as PCI Express has
them after reset. -/
def Platform.reset : Platform :=
  { devid := 0x0640_0000_0000_0000, bootCode := 0, okBits := 0, stage := 0, pkgCfg := 0, ckptCtl := 0, imgBase := 0,
    imgCtl := 0, images := [], svn := 0, fusedSvn := 0, attBase := 0, attCtl := 0, attNonce := [0, 0, 0, 0],
    ctxtab := 0, traptab := 0, fbuf := 0, rmring := 0, shootVa := 0, shootCtl := 0, shooting := none, replayVa := 0, replayCtl := 0,
    faultWd := 0, preCtl := 0, preBase := 0, preSize := 0, islands := [],
    wakeQueue := (List.range 256).map (fun k => (resetIsland k, 0)), lastAdmit := 0,
    admitted := [],
    linkUp := 0, trained := false, masked := 0xFF, msixPending := 0, msixHeld := [], expanders := List.replicate 16 512,
    failedPorts := [], poisoned := [], hostLines := [], ckptCut := none, cutRun := none, ckptRestore := false }

/-- The package right after reset (R61, R79, R392). Nothing is resident and no program has been loaded. -/
def State.reset : State :=
  { gtb := 0, mem := [], cores := [], dies := [], regs := ControlRegs.reset, plat := Platform.reset,
    fabric := Fabric.reset, records := [], queues := [], blocked := [], nextGrid := 0, grids := [], batch := none,
    colocate := none, plans := [], span := none, spans := [], readies := [], saved := [], voided := [], heldResumes := [], suspended := [], preOp := none, kills := [],
    handles := [], nextSeq := 0, moves := [], move := none, autoTried := [], nets := [Net.reset, Net.reset], subs := [], nextSub := 0,
    submitters := [], owed := [],
    collSeq := [], records2 := [], trapPushes := [], messages := [], turns := [], cur := .none, freeCtr := 0,
    decayed := 0 }

end Sys2Proof.Machine
end

