-- ==== Sys2Proof/Machine/Base.lean ====
section
/-! DEFINITION. Reading and writing the parts of State by their names: bytes of memory, cores, dies, fibres, groups,
registers, predicates and flags; and the free choices of a step. -/

namespace Sys2Proof.Machine

/-! ## Numbers and bit fields -/

/-- Bits `lo + n - 1` to `lo` of a number. -/
def bitsAt (x lo n : Nat) : Nat := (x >>> lo) % 2 ^ n

/-- Bits `lo + n - 1` to `lo` of a word, as a number. -/
def fld (w : Word) (lo n : Nat) : Nat := bitsAt w.toNat lo n

/-- One bit of a word. -/
def flag (w : Word) (i : Nat) : Bool := fld w i 1 == 1

/-- The word `w` with `n` bits at `lo` replaced by `v`. -/
def setFld (w : Word) (lo n v : Nat) : Word :=
  BitVec.ofNat 64 (w.toNat - (fld w lo n) <<< lo + (v % 2 ^ n) <<< lo)

/-- A number as a 64-bit word. -/
def wd (n : Nat) : Word := BitVec.ofNat 64 n

/-- Reserved bits: every bit of the given range is zero. -/
def zeroBits (w : Word) (lo n : Nat) : Bool := fld w lo n == 0

/-- The later of two times. -/
def later (a b : Word) : Word := if a.toNat < b.toNat then b else a

/-- A signed field of `n` bits. -/
def signedField (n x : Nat) : Int := if 2 ^ (n - 1) ≤ x then (x : Int) - 2 ^ n else x

/-! ## Memory -/

/-- One byte of memory. -/
def Memory.get : Memory → Nat → Byte
  | [], _ => unlisted
  | (j, y) :: m, a => if a = j then y else Memory.get m a

/-- Memory with one byte replaced; a byte equal to the unlisted one is not listed. -/
def Memory.put : Memory → Nat → Byte → Memory
  | [], a, b => if b = unlisted then [] else [(a, b)]
  | (j, y) :: m, a, b =>
    if a < j then (if b = unlisted then (j, y) :: m else (a, b) :: (j, y) :: m)
    else if a = j then (if b = unlisted then m else (a, b) :: m)
    else (j, y) :: Memory.put m a b

/-- Addresses above `lo` strictly rise, and no entry equals the unlisted byte. -/
def Memory.wfFrom (lo : Nat) : Memory → Bool
  | [] => true
  | (j, y) :: m => decide (lo ≤ j) && decide (y ≠ unlisted) && Memory.wfFrom (j + 1) m

/-- The canonical form of memory. -/
def Memory.wf (m : Memory) : Bool := Memory.wfFrom 0 m

/-- The little-endian number in `n` bytes at `a` (R4). -/
def Memory.read (m : Memory) (a : Nat) : Nat → Nat
  | 0 => 0
  | n + 1 => (Memory.get m a).toNat + 256 * Memory.read m (a + 1) n

/-- Memory with the `n` low bytes of `v` at `a`, little-endian (R4). -/
def Memory.write (m : Memory) (a : Nat) : Nat → Nat → Memory
  | 0, _ => m
  | n + 1, v => Memory.write (Memory.put m a (BitVec.ofNat 8 v)) (a + 1) n (v / 256)

/-- Memory with a list of bytes at `a`. -/
def Memory.writeBytes (m : Memory) (a : Nat) : List Byte → Memory
  | [] => m
  | b :: bs => Memory.writeBytes (Memory.put m a b) (a + 1) bs

/-- The `n` bytes at `a`. -/
def Memory.bytes (m : Memory) (a n : Nat) : List Byte := (List.range n).map (fun i => Memory.get m (a + i))

/-! ## Cores, dies and what they hold -/

/-- The die of a core, main or control. -/
def dieOf (c : Nat) : Nat := if c < 640 then c / 160 else (c - 640) / 16

/-- A control core. -/
def isControl (c : Nat) : Bool := decide (640 ≤ c)

/-- The main cores of a die. -/
def coresOf (d : Nat) : List Nat := (List.range 160).map (fun i => 160 * d + i)

def State.core (s : State) (c : Nat) : Core := AMap.getD s.cores c Core.reset
def State.setCore (s : State) (c : Nat) (x : Core) : State := { s with cores := AMap.put s.cores c x }
def State.updCore (s : State) (c : Nat) (f : Core → Core) : State := s.setCore c (f (s.core c))

def State.die (s : State) (d : Nat) : Die := AMap.getD s.dies d Die.reset
def State.setDie (s : State) (d : Nat) (x : Die) : State := { s with dies := AMap.put s.dies d x }
def State.updDie (s : State) (d : Nat) (f : Die → Die) : State := s.setDie d (f (s.die d))

/-- A fibre with nothing in it: what a place that holds no fibre reads as. -/
def Fibre.blank : Fibre :=
  { pc := 0, pred := 0x8000, window := [], wbase := 0, gslot := 0, lane := 0, role := .compute, helper := false,
    waitk := .none, barn := 0, token := 0, flags := List.replicate 12 0, fpstat := 0, life := .live, lossCount := 0,
    lossId := none, settle := 0, notices := [], openBatch := [], closedBatches := [], view := [], query := none,
    pending := [], trans := [], due := [], pushTc := 0, resumed := false, holdTill := 0, sets := (none, none),
    blockQ := false, target := false, maint := none, after := none, biLines := [], early := [] }

/-- A group with nothing in it: what an empty slot reads as. -/
def Group.blank : Group :=
  { grid := 0, index := 0, ctx := 0, rank := 0, cluster := 0, width := 0, first := 0, quads := false,
    gregs := List.replicate 32 0, scratch := [], scratchSize := 0, scratchBase := 0, poolBytes := 0, bases := [], roles := [], barriers := [],
    queues := List.replicate 7 [], nextCmd := 0, stream := none }

/-- A barrier in which nothing has arrived. -/
def Barrier.blank : Barrier := { phase := 0, arrived := [], first := none }

/-- A cluster with nothing in it. -/
def Cluster.blank : Cluster :=
  { slots := [], scratch := [], scratchSize := 0, scratchBase := 0, barrier := Barrier.blank }

def State.fibre (s : State) (c p : Nat) : Fibre := AMap.getD (s.core c).fibres p Fibre.blank
def State.hasFibre (s : State) (c p : Nat) : Bool := (AMap.find (s.core c).fibres p).isSome
def Core.setFibre (k : Core) (p : Nat) (f : Fibre) : Core := { k with fibres := AMap.put k.fibres p f }
def State.setFibre (s : State) (c p : Nat) (f : Fibre) : State := s.updCore c (fun k => k.setFibre p f)
def State.updFibre (s : State) (c p : Nat) (g : Fibre → Fibre) : State := s.setFibre c p (g (s.fibre c p))

def State.group (s : State) (c g : Nat) : Group := AMap.getD (s.core c).groups g Group.blank
def State.setGroup (s : State) (c g : Nat) (x : Group) : State :=
  s.updCore c (fun k => { k with groups := AMap.put k.groups g x })
def State.updGroup (s : State) (c g : Nat) (f : Group → Group) : State := s.setGroup c g (f (s.group c g))

def State.cluster (s : State) (c l : Nat) : Cluster := AMap.getD (s.core c).clusters l Cluster.blank
def State.updCluster (s : State) (c l : Nat) (f : Cluster → Cluster) : State :=
  s.updCore c (fun k => { k with clusters := AMap.put k.clusters l (f (s.cluster c l)) })

/-- The groups that are resident on a core: its slots are 0 to 255 (R127). Numbers from 256 on keep what groups have issued that
are resident no longer, until it is over (R124, R129, R170). -/
def Core.resident (k : Core) : AMap Group := k.groups.filter (fun (g : Nat × Group) => decide (g.1 < 256))

/-- The group of the fibre at a place. -/
def State.groupOf (s : State) (c p : Nat) : Group := s.group c (s.fibre c p).gslot

/-- The context of the fibre at a place. -/
def State.ctxOf (s : State) (c p : Nat) : BitVec 12 := (s.groupOf c p).ctx

/-- A ferry with nothing in it. -/
def Ferry.blank : Ferry :=
  { ctx := 0, entry := 0, rs := false, q := false, lanes := [], pc := 0, clause := none, clauses := 0, pos := 0,
    held := [], hold := .none }

def State.ferry (s : State) (c n : Nat) : Ferry := AMap.getD (s.core c).ferries n Ferry.blank
def State.setFerry (s : State) (c n : Nat) (x : Ferry) : State :=
  s.updCore c (fun k => { k with ferries := AMap.put k.ferries n x })
def State.updFerry (s : State) (c n : Nat) (f : Ferry → Ferry) : State := s.setFerry c n (f (s.ferry c n))
def State.dropFerry (s : State) (c n : Nat) : State :=
  s.updCore c (fun k => { k with ferries := AMap.drop k.ferries n })

def State.grid (s : State) (g : Nat) : Option Grid := AMap.find s.grids g
def State.updGrid (s : State) (g : Nat) (f : Grid → Grid) : State :=
  match s.grid g with
  | some x => { s with grids := AMap.put s.grids g (f x) }
  | none => s

/-- Word `i` of the cached translation record of a context (R8); zero before any record has been read. -/
def State.record (s : State) (ctx : BitVec 12) (i : Nat) : Word :=
  (AMap.getD s.records ctx.toNat []).getD i 0

/-- USER of a context (R8). -/
def State.user (s : State) (ctx : BitVec 12) : Bool := flag (s.record ctx 0) 1

/-- The package's accelerator ID (R387). -/
def State.accid (s : State) : Nat := fld s.plat.pkgCfg 0 10

/-- The package's incarnation (R79). -/
def State.incarn (s : State) : BitVec 16 := BitVec.ofNat 16 (fld s.plat.pkgCfg 32 16)

/-! ## Senders of the fabric (R79, R83) -/

/-- The entry of an ID in PEER_INC. -/
def State.peerEntry (s : State) (id : Nat) : Word := AMap.getD s.fabric.peers id 0

/-- A packet of a sender is accepted: a live member with the expected incarnation (R79). -/
def State.senderOk (s : State) (src : Nat) (inc : BitVec 16) : Bool :=
  let e := s.peerEntry src
  flag e 16 && !flag e 17 && fld e 0 16 == inc.toNat && src != s.accid

/-- A packet is dropped as stale. -/
def State.addStale (s : State) : State :=
  { s with fabric := { s.fabric with staleDrops := wd (min (2 ^ 64 - 1) (s.fabric.staleDrops.toNat + 1)) } }

/-- A packet is dropped as a duplicate. -/
def State.addDup (s : State) : State :=
  { s with fabric := { s.fabric with dupDrops := wd (min (2 ^ 64 - 1) (s.fabric.dupDrops.toNat + 1)) } }

/-! ## Free choices -/

/-- One of the two outcomes that the specification allows: choice `b` of agent `a` in this step. Log entry 7. -/
def State.coin (s : State) (a b : Nat) : Bool := Config.freeBool s.freeCtr a b

/-- A list in the order of free choices: one of those left each time. -/
def shuffle {α : Type} (pick : Nat → Nat) : Nat → List α → List α
  | 0, _ => []
  | n + 1, l =>
    match l[pick n % l.length]? with
    | some a => a :: shuffle pick n (l.eraseIdx (pick n % l.length))
    | none => []

/-! ## Registers, predicates and FPSTAT of one fibre -/

/-- The latest value written to a window register. -/
def Fibre.reg (f : Fibre) (n : Nat) : Word := f.window.getD n 0

/-- Does the window have register `n`? -/
def Fibre.has (f : Fibre) (n : Nat) : Bool := decide (n < f.window.length)

/-- The value before a transient result, and whether the read at word `pos` of the same block lies in the forwarding
window of R148. -/
def transientOf (ts : List Transient) (n : Nat) : Option Transient := ts.find? (fun t => t.reg == n)

/-- A read of `wn` by the word at position `pos`: a transient result outside the window may give the value before it
(R148), and each pending long-latency write may already have landed (R151). `coin` makes the free choices. -/
def Fibre.read (f : Fibre) (coin : Nat → Bool) (pos n : Nat) : Word :=
  let base := match transientOf f.trans n with
    | some t => if t.inBlock && decide (pos ≤ t.pos + 8) then f.reg n else if coin n then t.old else f.reg n
    | none => f.reg n
  f.pending.foldl (fun v p => match p.regs.find? (fun r => r.1 == n) with
    | some r => if coin (512 + n) then r.2 else v
    | none => v) base

/-- A plain write of `wn` that reaches the banks. -/
def Fibre.write (f : Fibre) (n : Nat) (v : Word) : Fibre :=
  { f with window := f.window.set n v, trans := f.trans.filter (fun t => t.reg != n) }

/-- A transient write of `wn` by the word at position `pos` (R148). -/
def Fibre.writeTransient (f : Fibre) (coin : Nat → Bool) (pos n : Nat) (v : Word) : Fibre :=
  let old := match transientOf f.trans n with
    | some t => if coin (256 + n) then t.old else f.reg n
    | none => f.reg n
  { f with window := f.window.set n v,
           trans := { reg := n, old := old, pos := pos, inBlock := true } :: f.trans.filter (fun t => t.reg != n) }

/-- Predicate `pn` in PRED; p15 reads 1 (R127). -/
def Fibre.pbit (f : Fibre) (n : Nat) : Bool := n == 15 || f.pred.getLsbD n

/-- A read of predicate `pn`: a pending write may already have landed, as for a register (R151). -/
def Fibre.readPred (f : Fibre) (coin : Nat → Bool) (n : Nat) : Bool :=
  f.pending.foldl (fun v p => match p.preds.find? (fun r => r.1 == n) with
    | some r => if n != 15 && coin (1024 + n) then r.2 else v
    | none => v) (f.pbit n)

/-- A write of predicate `pn`; writes to p15 are discarded (R127). -/
def Fibre.setPred (f : Fibre) (n : Nat) (b : Bool) : Fibre :=
  if n = 15 then f
  else { f with pred := if b then f.pred ||| BitVec.ofNat 16 (2 ^ n) else f.pred &&& ~~~ BitVec.ofNat 16 (2 ^ n) }

/-- FPSTAT with more flags set (R189): bit 0 IX, 1 UF, 2 OF, 3 DZ, 4 IV. -/
def Fibre.addFp (f : Fibre) (x : BitVec 5) : Fibre := { f with fpstat := f.fpstat ||| x }

/-- Group register `gn`. -/
def Group.greg (g : Group) (n : Nat) : Word := g.gregs.getD n 0

/-- Completion flag counter `i`. -/
def Fibre.flagCount (f : Fibre) (i : Nat) : Nat := f.flags.getD i 0

/-- Is a fibre a live member of its group? A kept or draining window belongs to an ended one. -/
def Fibre.isLive (f : Fibre) : Bool := f.life == .live

/-- The fibres of a group that live, by place. -/
def State.liveOf (s : State) (c g : Nat) : List Nat :=
  ((s.core c).fibres.filter (fun x => x.2.gslot == g && x.2.isLive)).map (·.1)

end Sys2Proof.Machine
end

