-- ==== Sys2Proof/Machine/Float.lean ====
section
/-! DEFINITION. Floating-point formats, exact values, rounding and the arithmetic on them (chapter 08). A finite value is
kept exactly as a sign, a positive mantissa and a power of two; every operation is exact and rounded once. -/

namespace Sys2Proof.Machine

/-! ## Formats and values (R175) -/

/-- A floating-point format: exponent width, fraction width, bias, and whether it has infinities. -/
structure Fmt where
  ew   : Nat
  fw   : Nat
  bias : Nat
  inf  : Bool
  deriving DecidableEq, Repr

def Fmt.f64 : Fmt := ⟨11, 52, 1023, true⟩
def Fmt.f32 : Fmt := ⟨8, 23, 127, true⟩
def Fmt.f16 : Fmt := ⟨5, 10, 15, true⟩
def Fmt.bf16 : Fmt := ⟨8, 7, 127, true⟩
def Fmt.e4m3 : Fmt := ⟨4, 3, 7, false⟩
def Fmt.e5m2 : Fmt := ⟨5, 2, 15, true⟩

/-- The format of a type; FP32 for a type that is no floating-point format. -/
def fmtOf : Ty → Fmt
  | .f64 => .f64
  | .f16 => .f16
  | .bf16 => .bf16
  | .e4m3 => .e4m3
  | .e5m2 => .e5m2
  | _ => .f32

/-- What a pattern means. A NaN's payload is the fraction below the quiet bit, at the top of 51 bits (R181). -/
inductive FVal where
  | zero (neg : Bool)
  | fin (neg : Bool) (mant : Nat) (exp : Int)
  | inf (neg : Bool)
  | nan (neg quiet : Bool) (payload : Nat)
  deriving DecidableEq, Repr

/-- FPSTAT flags (R189). -/
def fpIX : BitVec 5 := 1
def fpUF : BitVec 5 := 2
def fpOF : BitVec 5 := 4
def fpDZ : BitVec 5 := 8
def fpIV : BitVec 5 := 16

namespace Fmt
def width (f : Fmt) : Nat := 1 + f.ew + f.fw
def emin (f : Fmt) : Int := 1 - (f.bias : Int)
def signBit (f : Fmt) (neg : Bool) : Nat := if neg then 2 ^ (f.ew + f.fw) else 0
/-- The largest finite magnitude, as bits. -/
def maxBits (f : Fmt) : Nat := if f.inf then (2 ^ f.ew - 1) * 2 ^ f.fw - 1 else 2 ^ (f.ew + f.fw) - 2
def infBits (f : Fmt) : Nat := (2 ^ f.ew - 1) * 2 ^ f.fw
/-- The default NaN (R175). -/
def nanBits (f : Fmt) : Nat := if f.inf then (2 ^ f.ew - 1) * 2 ^ f.fw + 2 ^ (f.fw - 1) else 2 ^ (f.ew + f.fw) - 1
end Fmt

/-- The value of a pattern (R175). -/
def decodeF (f : Fmt) (x : Nat) : FVal :=
  let neg := bitsAt x (f.ew + f.fw) 1 == 1
  let e := bitsAt x f.fw f.ew
  let m := bitsAt x 0 f.fw
  if !f.inf && decide (e = 2 ^ f.ew - 1) && decide (m = 2 ^ f.fw - 1) then .nan neg true 0
  else if f.inf && decide (e = 2 ^ f.ew - 1) then
    if m = 0 then .inf neg
    else .nan neg (decide (2 ^ (f.fw - 1) ≤ m)) (m % 2 ^ (f.fw - 1) * 2 ^ (52 - f.fw))
  else if e = 0 then
    if m = 0 then .zero neg else .fin neg m (f.emin - f.fw)
  else .fin neg (2 ^ f.fw + m) ((e : Int) - f.bias - f.fw)

/-- A subnormal of FP32 read as zero under FTZ (R177). -/
def flushIn (f : Fmt) (ftz : Bool) (x : Nat) : Nat :=
  if ftz && decide (bitsAt x f.fw f.ew = 0) then f.signBit (bitsAt x (f.ew + f.fw) 1 == 1) else x

/-- A NaN as bits of a format, quieted (R180, R181). -/
def nanTo (f : Fmt) (neg : Bool) (payload : Nat) : Nat :=
  f.signBit neg + (if f.inf then f.nanBits + payload / 2 ^ (52 - f.fw) else f.nanBits)

/-! ## Rounding (R178) -/

/-- The quotient of a mantissa by `2^shift` and whether it rounds away from zero. -/
def roundUp (rm : Rm) (neg : Bool) (mant shift : Nat) : Nat :=
  let q := mant / 2 ^ shift
  let r := mant % 2 ^ shift
  let up := match rm with
    | .rne => decide (2 ^ shift < 2 * r) || (decide (2 * r = 2 ^ shift) && decide (q % 2 = 1))
    | .rtz => false
    | .rup => !neg && decide (r ≠ 0)
    | .rdn => neg && decide (r ≠ 0)
  if up then q + 1 else q

/-- The overflow result of a direction (R178). -/
def overflowTo (f : Fmt) (rm : Rm) (neg : Bool) : Nat :=
  let big := match rm with
    | .rne => true
    | .rtz => false
    | .rup => !neg
    | .rdn => neg
  f.signBit neg + (if big then (if f.inf then f.infBits else f.nanBits) else f.maxBits)

/-- A positive mantissa times `2^exp` rounded to a format: the bits and the flags OF, UF and IX (R178). `ftz` writes a
subnormal result as zero (R177); `sat` makes an overflow the largest finite magnitude (R183). -/
def roundTo (f : Fmt) (rm : Rm) (ftz sat neg : Bool) (mant : Nat) (exp : Int) : Nat × BitVec 5 :=
  let e := exp + (Nat.log2 mant : Int)
  let ulpFree := e - f.fw
  let ulpMin := f.emin - f.fw
  let ulp := if ulpFree < ulpMin then ulpMin else ulpFree
  let at_ (u : Int) : Nat := if exp < u then roundUp rm neg mant (u - exp).toNat else mant * 2 ^ (exp - u).toNat
  let m := at_ ulp
  let exact := if exp < ulp then decide (mant % 2 ^ (ulp - exp).toNat = 0) else true
  let tiny := decide (e < f.emin) && !(decide (e = f.emin - 1) && decide (at_ ulpFree = 2 ^ (f.fw + 1)))
  let bits := (ulp - ulpMin).toNat * 2 ^ f.fw + m
  let beyond := decide (f.maxBits < bits) || (!f.inf && rm == .rne && decide (e = 8) && decide (mant * 2 ^ 8 ≥ 464 * 2 ^ Nat.log2 mant))
  if beyond then (if sat then f.signBit neg + f.maxBits else overflowTo f rm neg, fpOF ||| fpIX)
  else if ftz && decide (bits < 2 ^ f.fw) then (f.signBit neg, fpUF ||| fpIX)
  else (f.signBit neg + bits, if exact then 0 else if tiny then fpUF ||| fpIX else fpIX)

/-- An integer times `2^exp` rounded; an exact zero has the sign `z`. -/
def roundInt (f : Fmt) (rm : Rm) (ftz z : Bool) (x : Int) (exp : Int) : Nat × BitVec 5 :=
  if x = 0 then (f.signBit z, 0) else roundTo f rm ftz false (decide (x < 0)) x.natAbs exp

/-! ## NaN operands (R180) -/

/-- IV for a signalling NaN among the operands. -/
def snanFlag (vs : List FVal) : BitVec 5 :=
  if vs.any (fun v => match v with
    | .nan _ q _ => !q
    | _ => false) then fpIV else 0

/-- The result when an operand is NaN: the first NaN, quieted. -/
def nanResult (f : Fmt) (vs : List FVal) : Option (Nat × BitVec 5) :=
  vs.findSome? (fun v => match v with
    | .nan n _ p => some (nanTo f n p, snanFlag vs)
    | _ => none)

/-- An invalid operation (R180). -/
def invalid (f : Fmt) : Nat × BitVec 5 := (f.nanBits, fpIV)

def FVal.neg : FVal → Bool
  | .zero n | .fin n _ _ | .inf n | .nan n _ _ => n

def FVal.negate : FVal → FVal
  | .zero n => .zero !n
  | .fin n m e => .fin (!n) m e
  | .inf n => .inf !n
  | v => v

/-- A signed mantissa aligned to exponent `e`. -/
def alignTo (neg : Bool) (mant : Nat) (exp e : Int) : Int :=
  let m : Int := mant * 2 ^ (exp - e).toNat
  if neg then -m else m

/-- Exact product of two finite or zero values. -/
def mulVal (a b : FVal) : FVal :=
  match a, b with
  | .fin n m e, .fin k p g => .fin (n != k) (m * p) (e + g)
  | a, b => .zero (a.neg != b.neg)

/-! ## Arithmetic (R179, R180) -/

/-- The sum of two values that are not NaN. -/
def addVal (f : Fmt) (rm : Rm) (ftz : Bool) (a b : FVal) : Nat × BitVec 5 :=
  match a, b with
  | .inf n, .inf k => if n = k then (f.signBit n + f.infBits, 0) else invalid f
  | .inf n, _ => (f.signBit n + f.infBits, 0)
  | _, .inf n => (f.signBit n + f.infBits, 0)
  | .zero n, .zero k => (f.signBit (if n = k then n else rm == .rdn), 0)
  | .fin n m e, .zero _ => roundTo f rm ftz false n m e
  | .zero _, .fin n m e => roundTo f rm ftz false n m e
  | .fin n m e, .fin k p g =>
    let lo := if e < g then e else g
    roundInt f rm ftz (rm == .rdn) (alignTo n m e lo + alignTo k p g lo) lo
  | _, _ => invalid f

/-- A format's operation on patterns: NaN operands first (R180). -/
def withNan (f : Fmt) (vs : List FVal) (k : Nat × BitVec 5) : Nat × BitVec 5 :=
  match nanResult f vs with
  | some r => r
  | none => k

def inF (f : Fmt) (ftz : Bool) (x : Nat) : FVal := decodeF f (flushIn f ftz x)

def fAdd (f : Fmt) (rm : Rm) (ftz : Bool) (a b : Nat) : Nat × BitVec 5 :=
  let x := inF f ftz a
  let y := inF f ftz b
  withNan f [x, y] (addVal f rm ftz x y)

def fSub (f : Fmt) (rm : Rm) (ftz : Bool) (a b : Nat) : Nat × BitVec 5 :=
  let x := inF f ftz a
  let y := inF f ftz b
  withNan f [x, y] (addVal f rm ftz x y.negate)

/-- A product times nothing is rounded here; infinities and zeros first. -/
def mulRound (f : Fmt) (rm : Rm) (ftz : Bool) (a b : FVal) : Nat × BitVec 5 :=
  match a, b with
  | .inf _, .zero _ => invalid f
  | .zero _, .inf _ => invalid f
  | .inf n, b => (f.signBit (n != b.neg) + f.infBits, 0)
  | a, .inf n => (f.signBit (n != a.neg) + f.infBits, 0)
  | a, b => match mulVal a b with
    | .fin n m e => roundTo f rm ftz false n m e
    | v => (f.signBit v.neg, 0)

def fMul (f : Fmt) (rm : Rm) (ftz : Bool) (a b : Nat) : Nat × BitVec 5 :=
  let x := inF f ftz a
  let y := inF f ftz b
  withNan f [x, y] (mulRound f rm ftz x y)

/-- `a × b + c`, rounded once. A `0 × ∞` product sets IV whatever `c` is (R236). -/
def fFma (f : Fmt) (rm : Rm) (ftz : Bool) (a b c : Nat) : Nat × BitVec 5 :=
  let x := inF f ftz a
  let y := inF f ftz b
  let z := inF f ftz c
  let bad := match x, y with
    | .inf _, .zero _ => true
    | .zero _, .inf _ => true
    | _, _ => false
  let r := withNan f [x, y, z] (if bad then invalid f else
    match x, y with
    | .inf n, y => addVal f rm ftz (.inf (n != y.neg)) z
    | x, .inf n => addVal f rm ftz (.inf (n != x.neg)) z
    | x, y => addVal f rm ftz (mulVal x y) z)
  if bad then (r.1, r.2 ||| fpIV) else r

/-- A quotient with a sticky last bit, wide enough for one rounding. -/
def fDiv (f : Fmt) (rm : Rm) (ftz : Bool) (a b : Nat) : Nat × BitVec 5 :=
  let x := inF f ftz a
  let y := inF f ftz b
  withNan f [x, y] (match x, y with
    | .inf _, .inf _ => invalid f
    | .zero _, .zero _ => invalid f
    | .inf n, y => (f.signBit (n != y.neg) + f.infBits, 0)
    | x, .inf n => (f.signBit (n != x.neg), 0)
    | .zero n, y => (f.signBit (n != y.neg), 0)
    | .fin n _ _, .zero k => (f.signBit (n != k) + f.infBits, fpDZ)
    | .fin n m e, .fin k p g =>
      let num := m * 2 ^ (2 * f.fw + 8)
      let q := 2 * (num / p) + (if num % p = 0 then 0 else 1)
      roundTo f rm ftz false (n != k) q (e - g - (2 * f.fw + 8) - 1)
    | _, _ => invalid f)

/-- The largest `r` with `r * r ≤ n`, found bit by bit from bit `k - 1`. -/
def isqrtFrom (n : Nat) : Nat → Nat → Nat
  | 0, r => r
  | k + 1, r =>
    let t := r + 2 ^ k
    isqrtFrom n k (if t * t ≤ n then t else r)
def isqrt (n : Nat) : Nat := isqrtFrom n (Nat.log2 n / 2 + 1) 0

/-- A square root with a sticky last bit: mantissa and exponent. -/
def sqrtVal (f : Fmt) (m : Nat) (e : Int) : Nat × Int :=
  let k : Nat := 2 * f.fw + 8 + (e % 2).toNat
  let n := m * 2 ^ k
  let r := isqrt n
  (2 * r + (if r * r = n then 0 else 1), (e - k) / 2 - 1)

def fSqrt (f : Fmt) (rm : Rm) (ftz : Bool) (a : Nat) : Nat × BitVec 5 :=
  let x := inF f ftz a
  withNan f [x] (match x with
    | .zero n => (f.signBit n, 0)
    | .inf false => (f.infBits, 0)
    | .fin false m e =>
      let r := sqrtVal f m e
      roundTo f rm ftz false false r.1 r.2
    | _ => invalid f)

/-- Order of two values that are not NaN: is `a` less than `b`? Zeros are equal. -/
def ltVal (a b : FVal) : Bool :=
  match a, b with
  | .zero _, .zero _ => false
  | .zero _, b => !b.neg
  | a, .zero _ => a.neg
  | .inf n, .inf k => n && !k
  | .inf n, _ => n
  | _, .inf k => !k
  | .fin n m e, .fin k p g =>
    let lo := if e < g then e else g
    decide (alignTo n m e lo < alignTo k p g lo)
  | _, _ => false

/-- Less than, with −0 less than +0 (R182). -/
def ltZero (a b : FVal) : Bool :=
  match a, b with
  | .zero n, .zero k => n && !k
  | a, b => ltVal a b

/-- FMIN or FMAX (R182). -/
def fMinMax (f : Fmt) (ftz max : Bool) (a b : Nat) : Nat × BitVec 5 :=
  let p := flushIn f ftz a
  let q := flushIn f ftz b
  let x := decodeF f p
  let y := decodeF f q
  match x, y with
  | .nan n _ l, .nan _ _ _ => (nanTo f n l, snanFlag [x, y])
  | .nan _ _ _, _ => (q, snanFlag [x, y])
  | _, .nan _ _ _ => (p, snanFlag [x, y])
  | _, _ => (if max then (if ltZero x y then q else p) else (if ltZero y x then q else p), 0)

/-! ## Conversions (R181, R183, R184) -/

/-- A floating-point value written in another format. -/
def convF (g : Fmt) (rm : Rm) (sat : Bool) (v : FVal) : Nat × BitVec 5 :=
  match v with
  | .zero n => (g.signBit n, 0)
  | .fin n m e => roundTo g rm false sat n m e
  | .inf n =>
    if sat then (g.signBit n + g.maxBits, 0)
    else if g.inf then (g.signBit n + g.infBits, 0)
    else (g.signBit n + g.nanBits, fpIV)
  | .nan n q p => (nanTo g n p, if q then 0 else fpIV)

/-- Every value of a format is one of the other: the conversion is exact, and SAT says nothing about it (R183, R240). -/
def Fmt.widensTo (f g : Fmt) : Bool := decide (f.ew ≤ g.ew) && decide (f.fw ≤ g.fw)

/-- A conversion between formats: infinities stay, and E4M3, which has none, takes its NaN; SAT counts where it narrows (R183). -/
def cvtFF (f g : Fmt) (rm : Rm) (sat : Bool) (x : Nat) : Nat × BitVec 5 := convF g rm (sat && !f.widensTo g) (decodeF f x)

/-- The integer nearest a value in a direction. -/
def toInteger (rm : Rm) (neg : Bool) (m : Nat) (e : Int) : Int × Bool :=
  let r := if e < 0 then roundUp rm neg m (-e).toNat else m * 2 ^ e.toNat
  let exact := if e < 0 then decide (m % 2 ^ (-e).toNat = 0) else true
  (if neg then -(r : Int) else r, exact)

/-- A floating-point value to an integer between two bounds (R184). -/
def cvtFI (f : Fmt) (rm : Rm) (lo hi : Int) (x : Nat) : Int × BitVec 5 :=
  match decodeF f x with
  | .zero _ => (0, 0)
  | .nan _ _ _ => (0, fpIV)
  | .inf n => (if n then lo else hi, fpIV)
  | .fin n m e =>
    -- far outside the range the exact integer is not formed
    if e > 64 then (if n then lo else hi, fpIV)
    else
      let r := toInteger rm n m e
      if r.1 < lo then (lo, fpIV) else if hi < r.1 then (hi, fpIV) else (r.1, if r.2 then 0 else fpIX)

/-- An integer to a floating-point format (R184). -/
def cvtIF (f : Fmt) (rm : Rm) (x : Int) : Nat × BitVec 5 := roundInt f rm false false x 0

/-! ## B4 blocks (R186, R187) -/

/-- Twice eight times the magnitudes of a B4 type: the magnitudes in eighths. -/
def b4Eighths : Nat → List Nat
  | 1 => [0, 4, 8, 12, 16, 24, 32, 48]
  | 2 => [0, 1, 2, 4, 8, 16, 32, 64]
  | 3 => [0, 8, 16, 24, 32, 48, 64, 128]
  | _ => [0, 8, 16, 24, 32, 40, 48, 56]

/-- A B4 code under a scale byte, as FP32 bits (R186). -/
def b4Decode (scale code : Nat) : Nat :=
  let e := scale % 64
  let t := scale / 64 % 4
  if e = 63 then Fmt.f32.nanBits
  else
    let neg := decide (8 ≤ code)
    let mag := if t = 0 then (if neg then 8 * (16 - code) else 8 * code) else (b4Eighths t).getD (code % 8) 0
    if mag = 0 then (if t = 0 then 0 else Fmt.f32.signBit neg)
    else (roundTo .f32 .rne false false neg mag ((e : Int) - 35)).1

/-- The code of magnitude `m * 2^e8` eighths: the nearest, or with `zero` the next towards zero, and ties by R187.
The answer is the index of the magnitude, whether it is exact, and whether it saturated. `lim` is the last index. -/
def b4Nearest (tab : List Nat) (zero : Bool) (m : Nat) (sh : Int) (lim : Nat) : Nat × Bool × Bool :=
  let num := if sh < 0 then m else m * 2 ^ sh.toNat
  let den := if sh < 0 then 2 ^ (-sh).toNat else 1
  -- the value is num / den eighths
  let below := ((List.range (lim + 1)).filter (fun i => decide (tab.getD i 0 * den ≤ num))).getLastD 0
  let lo := tab.getD below 0
  if below = lim then (lim, decide (lo * den = num), decide (lo * den ≠ num))
  else
    let hi := tab.getD (below + 1) 0
    if lo * den = num then (below, true, false)
    else if zero then (below, false, false)
    else
      let twice := 2 * num
      let mid := (lo + hi) * den
      (if twice < mid then below else if mid < twice then below + 1 else if below % 2 = 0 then below else below + 1, false, false)

/-- A finite value encoded into a block of scale byte `scale`, whose exponent is below 63 (R187): the code and flags. -/
def b4Encode (scale : Nat) (zero : Bool) (v : FVal) : Nat × BitVec 5 :=
  let e := scale % 64
  let t := scale / 64 % 4
  match v with
  | .fin n m x =>
    -- q = m * 2^(x - (e - 32)); in eighths that is three more
    let sh := x - ((e : Int) - 32) + 3
    let tab := if t = 0 then [0, 8, 16, 24, 32, 40, 48, 56, 64] else b4Eighths t
    let lim := if t = 0 then (if n then 8 else 7) else 7
    let r := b4Nearest tab zero m sh lim
    let fl := if r.2.1 then 0 else if r.2.2 then fpIX ||| fpOF else fpIX
    if t = 0 then ((if n then (16 - r.1) % 16 else r.1), fl)
    else ((if n then 8 else 0) + r.1, fl)
  | v => (if t = 0 then 0 else if v.neg then 8 else 0, 0)

/-- An infinity saturated into a block (R20). -/
def b4Saturate (scale : Nat) (neg : Bool) : Nat :=
  if scale / 64 % 4 = 0 then (if neg then 8 else 7) else (if neg then 15 else 7)

/-- The scale exponent of a whole block of type `t` (R187): from the largest magnitude. -/
def b4Exponent (t : Nat) (vs : List FVal) : Nat :=
  let mx := match t with
    | 0 => 7
    | 1 => 6
    | 2 => 8
    | _ => 16
  let es := vs.filterMap (fun v => match v with
    | .fin _ m x =>
      -- least k with m * 2^x ≤ mx * 2^k
      let k0 : Int := x + Nat.log2 m - 5
      let ks := (List.range 12).map (fun (i : Nat) => k0 + (i : Int))
      ks.find? (fun k => decide (if x < k then m ≤ mx * 2 ^ (k - x).toNat else m * 2 ^ (x - k).toNat ≤ mx))
    | _ => none)
  match es with
  | [] => 0
  | k :: ks =>
    let top := ks.foldl (fun a b => if a < b then b else a) k
    let e := 32 + top
    if e < 0 then 0 else if 62 < e then 62 else e.toNat

/-- Whole-block encoding (R187): the scale byte, the codes and the flags. -/
def b4Block (t : Nat) (zero : Bool) (vs : List FVal) : Nat × List Nat × BitVec 5 :=
  let bad := vs.any (fun v => match v with
    | .inf _ => true
    | .nan _ _ _ => true
    | _ => false)
  if bad then (64 * t + 63, vs.map (fun _ => 0), fpIV)
  else
    let scale := 64 * t + b4Exponent t vs
    let cs := vs.map (fun v => b4Encode scale zero v)
    (scale, cs.map (·.1), cs.foldl (fun f c => f ||| c.2) 0)

/-! ## The matrix array (R192) -/

/-- The exact sum of products of one step: a value, or none where a NaN, an infinity times zero, or infinities of
opposite sign meet. -/
def exactDot (ps : List (FVal × FVal)) : Option FVal :=
  let r := ps.foldl (fun (r : Option (Option Bool × Int × Int)) p =>
    match r with
    | none => none
    | some (i, x, e) =>
      match p.1, p.2 with
      | .nan _ _ _, _ => none
      | _, .nan _ _ _ => none
      | .inf _, .zero _ => none
      | .zero _, .inf _ => none
      | .inf n, b => match i with
        | some k => if k = (n != b.neg) then r else none
        | none => some (some (n != b.neg), x, e)
      | a, .inf n => match i with
        | some k => if k = (n != a.neg) then r else none
        | none => some (some (n != a.neg), x, e)
      | .fin n m g, .fin k q h =>
        let pe := g + h
        let lo := if pe < e then pe else e
        some (i, x * 2 ^ (e - lo).toNat + alignTo (n != k) (m * q) pe lo, lo)
      | _, _ => r) (some (none, 0, 0))
  match r with
  | none => none
  | some (some n, _, _) => some (.inf n)
  | some (none, x, e) => if x = 0 then some (.zero false) else some (.fin (decide (x < 0)) x.natAbs e)

/-- All the terms of a step are zeros of negative sign. -/
def allNegZero (ps : List (FVal × FVal)) : Bool :=
  ps.all (fun p => match mulVal p.1 p.2 with
    | .zero n => n
    | _ => false)

/-- One step on one accumulator element in its type (R192). A result that is exactly zero is +0 unless the element and
every product are −0 (DEDUCED, log entry 16). -/
def mmaStep (f : Fmt) (c : Nat) (ps : List (FVal × FVal)) : Nat :=
  match exactDot ps, decodeF f c with
  | none, _ => f.nanBits
  | _, .nan _ _ _ => f.nanBits
  | some t, v =>
    let t := match t with
      | .zero _ => .zero (allNegZero ps)
      | t => t
    (addVal f .rne false v t).1

/-- An accumulator element narrowed on drain: towards zero, NaN to the default NaN (R194). -/
def drainF (f g : Fmt) (x : Nat) : Nat :=
  match decodeF f x with
  | .nan _ _ _ => g.nanBits
  | .inf n => g.signBit n + (if g.inf then g.infBits else g.maxBits)
  | v => (convF g .rtz false v).1

end Sys2Proof.Machine
end

