-- ==== Sys2Proof/Machine/Rmw.lean ====
section
/-! DEFINITION. The read-modify-write operations of atomics (R203, R266). -/

namespace Sys2Proof.Machine

/-- A signed number of `n` bytes. -/
def signedOf (n x : Nat) : Int := if 2 ^ (8 * n - 1) ≤ x % 2 ^ (8 * n) then (x % 2 ^ (8 * n) : Nat) - (2 ^ (8 * n) : Nat) else (x % 2 ^ (8 * n) : Nat)

/-- The new value that an atomic operation leaves at `n` bytes, from the old value and the operand. -/
def aopVal (n : Nat) (op : Aop) (m v : Nat) : Nat :=
  let w := 2 ^ (8 * n)
  let m := m % w
  let v := v % w
  match op with
  | .add => (m + v) % w
  | .mins => if signedOf n v < signedOf n m then v else m
  | .maxs => if signedOf n m < signedOf n v then v else m
  | .minu => if v < m then v else m
  | .maxu => if m < v then v else m
  | .and => m &&& v
  | .or => m ||| v
  | .xor => m ^^^ v
  | .exch => v
  | .incw => if v ≤ m then 0 else m + 1
  | .decw => if m = 0 ∨ v < m then v else m - 1
  | .fadd => (fAdd (if n = 8 then fmtOf .f64 else fmtOf .f32) .rne false m v).1

/-- The new value of a compare and swap. -/
def casVal (n compare new m : Nat) : Nat := if m % 2 ^ (8 * n) = compare % 2 ^ (8 * n) then new % 2 ^ (8 * n) else m

/-- A compare and swap of `n` bytes stores its new value. -/
def casStores (n compare m : Nat) : Bool := m % 2 ^ (8 * n) == compare % 2 ^ (8 * n)

end Sys2Proof.Machine
end

