-- ==== Sys2Proof/Machine/Cache.lean ====
section
/-! DEFINITION. The memory hierarchy below a physical address: L1 lines and leases, the die L2s, the home directory,
pushes and their completion times, points of coherence, and atomics (chapters 02 and 03). `mem` holds the value at each
word's home. Words are numbered: word `wn` is bytes 4 wn to 4 wn + 3. -/

namespace Sys2Proof

/-- A domain above DIE, kept by the home directory (R67). -/
def Domain.wide : Domain → Bool
  | .core | .die => false
  | .package | .pod | .host => true

end Sys2Proof

namespace Sys2Proof.Machine

/-! ## Words, lines and homes -/

/-- The home die of a word: PA[15:14] (R45, R46; for host memory DEDUCED, log entry 15). -/
def homeOf (wn : Nat) : Nat := (wn / 4096) % 4

/-- The 32 bits that a mask of 4-bit elements covers. -/
def maskBits (m : BitVec 8) : BitVec 32 :=
  (List.range 8).foldl (fun x i => if m.getLsbD i then x ||| (0xF : BitVec 32) <<< (4 * i) else x) 0

/-- `old` with the masked elements of `new` (R43). -/
def mergeWord (m : BitVec 8) (old new : BitVec 32) : BitVec 32 :=
  if m = 0xFF then new else (old &&& ~~~ maskBits m) ||| (new &&& maskBits m)

def State.memWord (s : State) (wn : Nat) : BitVec 32 := BitVec.ofNat 32 (Memory.read s.mem (4 * wn) 4)
def State.setMemWord (s : State) (wn : Nat) (v : BitVec 32) : State :=
  { s with mem := Memory.write s.mem (4 * wn) 4 v.toNat }

/-- The completion time still attached to a word at a die (R64, R68). -/
def State.tcOf (s : State) (d wn : Nat) : Word :=
  let t := AMap.getD (s.die d).tcs wn 0
  if s.gtb.toNat < t.toNat then t else 0
def State.setTc (s : State) (d wn : Nat) (t : Word) : State :=
  s.updDie d (fun x => { x with tcs := if s.gtb.toNat < t.toNat then AMap.put x.tcs wn t else AMap.drop x.tcs wn })
/-- A completion time is attached to a word beside one that is still to pass: a grant or a write takes effect at the latest
of them (R68). -/
def State.raiseTc (s : State) (d wn : Nat) (t : Word) : State := s.setTc d wn (later t (s.tcOf d wn))

/-! ## Lane stores on their way (R105) -/

/-- Lane stores of a word that a die holds. -/
def State.dieOwes (s : State) (d wn : Nat) (rs : List StoreRec) : State :=
  if rs.isEmpty then s
  else s.updDie d (fun x => { x with owing := AMap.put x.owing wn (AMap.getD x.owing wn [] ++ rs) })

/-- A word of a die has reached its home: its lane stores are performed there. -/
def State.dieOver (s : State) (d wn : Nat) : State :=
  if (AMap.find (s.die d).owing wn).isNone then s else s.updDie d (fun x => { x with owing := AMap.drop x.owing wn })

/-! ## Die L2 and directory -/

/-- A line as it enters the L2: lease class 7, bounce counter 0 (R62, R70). -/
def L2Line.fresh (dom : Domain) : L2Line :=
  { dom := dom, words := [], k := 7, wroteSinceFill := false, lexp1 := 0, c1 := 0, lexp2 := 0, owner := none,
    ownMask := 0, bounce := 0, pin := false }

def State.l2Line (s : State) (d line : Nat) (dom : Domain) : L2Line :=
  AMap.getD (s.die d).l2 line (L2Line.fresh dom)
def State.setL2Line (s : State) (d line : Nat) (x : L2Line) : State :=
  s.updDie d (fun y => { y with l2 := AMap.put y.l2 line x })
def State.l2Word (s : State) (d wn : Nat) : Option L2Word :=
  (AMap.find (s.die d).l2 (wn / 32)).bind (fun l => AMap.find l.words (wn % 32))
def State.setL2Word (s : State) (d wn : Nat) (dom : Domain) (x : L2Word) : State :=
  let l := s.l2Line d (wn / 32) dom
  s.setL2Line d (wn / 32) { l with dom := dom, words := AMap.put l.words (wn % 32) x }
def State.dropL2Word (s : State) (d wn : Nat) : State :=
  match AMap.find (s.die d).l2 (wn / 32) with
  | some l => s.setL2Line d (wn / 32) { l with words := AMap.drop l.words (wn % 32) }
  | none => s

def DirLine.fresh : DirLine := { words := [], bounce := 0, grant := none }
def State.dirLine (s : State) (line : Nat) : DirLine :=
  AMap.getD (s.die (homeOf (32 * line))).dir line DirLine.fresh
def State.setDirLine (s : State) (line : Nat) (x : DirLine) : State :=
  s.updDie (homeOf (32 * line)) (fun y => { y with dir := AMap.put y.dir line x })
def State.dirWord (s : State) (wn : Nat) : DirWord :=
  AMap.getD (s.dirLine (wn / 32)).words (wn % 32) { sharers := [], owner := none }
def State.setDirWord (s : State) (wn : Nat) (x : DirWord) : State :=
  let l := s.dirLine (wn / 32)
  s.setDirLine (wn / 32) { l with words := AMap.put l.words (wn % 32) x }

/-- A die added to a list of dies. -/
def addDie (ds : List Nat) (d : Nat) : List Nat := if d ∈ ds then ds else d :: ds

/-- The bounce counter of a line's directory rises (R70). -/
def State.bumpDir (s : State) (line : Nat) : State :=
  let l := s.dirLine line
  s.setDirLine line { l with bounce := min 7 (l.bounce + 1) }

/-- The context of the latest ownership grant of a line (R67). E is a grant of ownership too: the word becomes M at the die
without a further one (DEDUCED, log entry 62). -/
def State.setGrant (s : State) (line : Nat) (ctx : BitVec 12) : State :=
  s.setDirLine line { s.dirLine line with grant := some ctx }

/-- The completion time that a die's L2 gives a write of a line by a core of the die (R64), or by none of them. -/
def State.leaseTc (s : State) (d line : Nat) (core : Option Nat) : Word :=
  match AMap.find (s.die d).l2 line with
  | none => s.gtb
  | some l => later s.gtb (if core = some l.c1 then l.lexp2 else l.lexp1)

/-- The value at a word's home; an owner supplies it and keeps a clean or owned copy (R67). A reading die that is not
the home is registered as sharer, or as exclusive holder, for a context, where no other die holds the word. -/
def State.homeRead (s : State) (reader : Option (Nat × BitVec 12)) (wn : Nat) : State × BitVec 32 :=
  let w := s.dirWord wn
  let r : State × BitVec 32 :=
    match w.owner with
    | none => (s, s.memWord wn)
    | some (d, st) =>
      let v := match s.l2Word d wn with
        | some x => x.value
        | none => s.memWord wn
      if reader.any (fun r => r.1 == d) then (s, v)
      else
        let st' := if st = .E then WordState.S else .O
        let s := match s.l2Word d wn with
          | some x => s.setL2Word d wn (s.l2Line d (wn / 32) .package).dom { x with st := st' }
          | none => s
        let dw : DirWord := if st = .E then { sharers := addDie w.sharers d, owner := none }
          else { w with owner := some (d, .O) }
        (s.setDirWord wn dw, v)
  match reader with
  | none => r
  | some (d, ctx) =>
    let s := r.1
    let w := s.dirWord wn
    if d = homeOf wn ∨ w.owner.any (fun (o : Nat × WordState) => o.1 == d) then r
    else if w.owner.isNone && w.sharers.all (· == d) then
      ((s.setDirWord wn { sharers := [], owner := some (d, .E) }).setGrant (wn / 32) ctx, r.2)
    else (s.setDirWord wn { w with sharers := addDie w.sharers d }, r.2)

/-- The home takes a word from every die but one: a dirty holder writes it back, and each acknowledges with its own
lease time (R67, R68). An acknowledged time that has not passed stays with the word at its home, so that later grants and
reads there know it. -/
def State.homeInvalidate (s : State) (keep : Option Nat) (wn : Nat) : State × Word :=
  let w := s.dirWord wn
  let holders : List Nat := (match w.owner with
    | some (d, _) => addDie w.sharers d
    | none => w.sharers).filter (fun d => some d != keep)
  let r := holders.foldl (fun (r : State × Word) (d : Nat) =>
    let s := r.1
    let s := match s.l2Word d wn with
      | some x => if x.st == WordState.M || x.st == WordState.O then s.setMemWord wn x.value else s
      | none => s
    let t := s.leaseTc d (wn / 32) none
    ((s.dropL2Word d wn).dieOver d wn, later r.2 t)) (s, s.gtb)
  let kept : DirWord := match keep with
    | none => { sharers := [], owner := none }
    | some k => { sharers := w.sharers.filter (· == k), owner := w.owner.filter (fun o => o.1 == k) }
  let t := later r.2 (s.tcOf (homeOf wn) wn)
  ((r.1.setDirWord wn kept).raiseTc (homeOf wn) wn t, t)

/-- The host as a holder of a line: it is no accelerator ID (R71, R388). -/
def hostHolder : Nat := 1024

/-- BISnp to holders of a line: each is one back-invalidation in progress (R73, R74, R83). -/
def State.snoopOut (s : State) (line : Nat) (ids : List Nat) : State :=
  { s with fabric := { s.fabric with
      biPending := s.fabric.biPending ++ ids.map (fun i => (line, i)),
      biSent := wd (min (2 ^ 64 - 1) (s.fabric.biSent.toNat + ids.length)) } }

/-- Back-invalidation of the remote holders of a line (R71, R73, R74): those its snoop filter entry names, or every member
of the span. -/
def State.backInvalidate (s : State) (line : Nat) : State :=
  let h := homeOf (32 * line)
  match AMap.find (s.die h).snoop line with
  | none => s
  | some e => (s.updDie h (fun x => { x with snoop := AMap.drop x.snoop line })).snoopOut line (if e.span then e.members else e.holders)

/-- The host's copy of a line is asked back over CXL.mem; a line of the host window is written over CXL.cache. Either is
complete when the host says so (R71, R388). -/
def State.hostInvalidate (s : State) (line : Nat) : State :=
  if decide (line ∈ s.plat.hostLines) || decide (0x100000000000 ≤ 128 * line) && decide (128 * line < 0x200000000000) then
    { s with
      plat := { s.plat with hostLines := s.plat.hostLines.filter (· != line) },
      fabric := { s.fabric with biPending := s.fabric.biPending ++ [(line, hostHolder)] } }
  else s

/-- The copies of a line beyond the package go, as its domain asks. -/
def State.outside (s : State) (dom : Domain) (line : Nat) : State :=
  match dom with
  | .pod => s.backInvalidate line
  | .host => s.hostInvalidate line
  | _ => s

/-- A write at a word's home: every die's copy goes, and the words are merged over memory (R43, R67, R68). -/
def State.homeWrite (s : State) (dom : Domain) (wn : Nat) (v : BitVec 32) (mask : BitVec 8) (core : Option Nat) :
    State × Word :=
  let r := s.homeInvalidate none wn
  let s := r.1.setMemWord wn (mergeWord mask (r.1.memWord wn) v)
  let s := s.outside dom (wn / 32)
  let t := later r.2 (s.leaseTc (homeOf wn) (wn / 32) core)
  (s.raiseTc (homeOf wn) wn t, t)

/-- A die that is not the home obtains a word in M (R67, R68): its value then, and the time. -/
def State.obtainM (s : State) (d : Nat) (dom : Domain) (ctx : BitVec 12) (wn : Nat) : State × BitVec 32 × Word :=
  let r := s.homeInvalidate (some d) wn
  let s := r.1
  let v := match s.l2Word d wn with
    | some x => x.value
    | none => s.memWord wn
  let s := (s.setDirWord wn { sharers := [], owner := some (d, .M) }).setGrant (wn / 32) ctx
  let s := s.setL2Word d wn dom { value := v, mask := 0xFF, st := .M }
  let t := later r.2 (s.leaseTc (homeOf wn) (wn / 32) none)
  (s.raiseTc d wn t, v, t)

/-- A release or CWB pushes an M or O word of a die to its home (R67). -/
def State.homePush (s : State) (d wn : Nat) : State × Word :=
  match s.l2Word d wn with
  | none => (s, s.gtb)
  | some x =>
    if x.st = .M ∨ x.st = .O then
      let dom := (s.l2Line d (wn / 32) .package).dom
      let w := s.dirWord wn
      let s := (s.dieOver d wn).setMemWord wn x.value
      let st := if x.st = .M then WordState.E else .S
      let s := s.setL2Word d wn dom { value := x.value, mask := 0, st := st }
      let s := s.setDirWord wn (if x.st = .M then { w with owner := some (d, .E) }
        else { sharers := addDie w.sharers d, owner := none })
      let s := s.outside dom (wn / 32)
      let t := later (s.leaseTc (homeOf wn) (wn / 32) none) (later (s.tcOf d wn) (s.tcOf (homeOf wn) wn))
      (s.raiseTc (homeOf wn) wn t, t)
    else (s, s.gtb)

/-- The lane stores of a word that has left a core's L1: its die owes them where it now holds the word in M or O (R67, R105). -/
def State.passStores (s : State) (c : Nat) (dom : Domain) (wn : Nat) : State :=
  match AMap.find (s.core c).owing wn with
  | none => s
  | some rs =>
    let t := s.updCore c (fun k => { k with owing := AMap.drop k.owing wn })
    if dom.wide && (s.l2Word (dieOf c) wn).any (fun (x : L2Word) => x.st == .M || x.st == .O) then t.dieOwes (dieOf c) wn rs else t

/-- A word outside CORE has left a core's L1, or has been written for the core past it: later releases of the core cover it until its
push is complete (R71, R91). -/
def State.noteSent (s : State) (c : Nat) (dom : Domain) (wn : Nat) : State :=
  if dom = .core then s else s.updCore c (fun k => { k with sent := AMap.put k.sent wn dom })

/-- Is a lease unexpired (R63)? -/
def leaseOk (lease : BitVec 24) (now : Word) : Bool :=
  let d := (lease - now.setWidth 24).toNat
  decide (2 < d) && decide (d ≤ 4096)

/-- An L1 of a die, other than that of core `c`, holds a line under an unexpired lease (R44, R62, R63). -/
def State.lentBut (s : State) (d line : Nat) (c : Option Nat) : Bool :=
  s.cores.any (fun (k : Nat × Core) => dieOf k.1 == d && some k.1 != c && (AMap.find k.2.l1 line).any (fun (l : L1Line) => leaseOk l.lease s.gtb))

/-- An L1 of a die holds a line under an unexpired lease (R44). -/
def State.lineLent (s : State) (d line : Nat) : Bool := s.lentBut d line none

/-- The core owning a word of a DIE-domain line gives it back (R66): its word goes to the L2. The bounce counter rises where
ownership moves because of another core (R70). -/
def State.recallOwned (s : State) (d line : Nat) (by_ : Option Nat) : State :=
  match AMap.find (s.die d).l2 line with
  | none => s
  | some l =>
    match l.owner with
    | none => s
    | some c =>
      let words : AMap CacheWord := match AMap.find (s.core c).l1 line with
        | some x => x.words.filter (fun (w : Nat × _) => l.ownMask.getLsbD w.1)
        | none => []
      let s := words.foldl (fun (s : State) (w : Nat × CacheWord) => s.setL2Word d (32 * line + w.1) .die { value := w.2.value, mask := 0xFF, st := .S }) s
      let s := match AMap.find (s.core c).l1 line with
        | some x => s.updCore c (fun k => { k with l1 := AMap.put k.l1 line { x with
            words := x.words.map (fun (w : Nat × CacheWord) => if l.ownMask.getLsbD w.1 then (w.1, { w.2 with mask := 0 }) else w) } })
        | none => s
      let s := words.foldl (fun (s : State) (w : Nat × CacheWord) => (s.passStores c .die (32 * line + w.1)).noteSent c .die (32 * line + w.1)) s
      let l := s.l2Line d line .die
      let moved := by_.any (· != c)
      -- the words that it gives back are a write-back of the line (R62)
      s.setL2Line d line { l with
        owner := none, ownMask := 0, bounce := if moved then min 7 (l.bounce + 1) else l.bounce,
        k := if !words.isEmpty && s.lentBut d line (some c) then 0 else l.k,
        wroteSinceFill := l.wroteSinceFill || !words.isEmpty }

/-- The owner of a line, if it is another core than `c`, gives its words back (R66, R70). -/
def State.recallOther (s : State) (d line c : Nat) : State :=
  if ((AMap.find (s.die d).l2 line).bind (·.owner)).any (· != c) then s.recallOwned d line (some c) else s

/-- The line of a physical address is one whose reading from memory fails: poisoned, or behind a failed port (R47). A poisoned line of
HBM is one to which a move of its page has copied poison (log entry 76). -/
def State.poisonedAt (s : State) (pa : Nat) : Bool :=
  decide (pa / 128 ∈ s.plat.poisoned) ||
    (decide (0x010000000000 ≤ pa) && decide (pa < 0x090000000000) && decide ((pa - 0x010000000000) / 4096 % 16 ∈ s.plat.failedPorts))

/-- A read of a word by a die would have to take it from memory that answers poison: neither its L2 nor an owner holds it. -/
def State.poisonWord (s : State) (d wn : Nat) : Bool :=
  s.poisonedAt (4 * wn) && (s.l2Word d wn).isNone && (s.dirWord wn).owner.isNone

/-- The completion time that a push of a word into a die's L2 or its home still has (R95). -/
def State.settleOf (s : State) (d : Nat) (dom : Domain) (wn : Nat) : Word :=
  later (s.tcOf d wn) (if dom.wide then s.tcOf (homeOf wn) wn else 0)

/-- The value of a word in a die's L2, read from the home where the die holds none (R67), and the completion time
that a push of it still has (R95). Poisoned data is not cached (R47). -/
def State.l2Read (s : State) (d : Nat) (ctx : BitVec 12) (dom : Domain) (wn : Nat) : State × BitVec 32 × Word :=
  match s.l2Word d wn with
  | some x => (s, x.value, s.settleOf d dom wn)
  | none =>
    if s.poisonWord d wn then (s, s.memWord wn, 0)
    else if dom.wide then
      if homeOf wn = d then
        let r := s.homeRead none wn
        (r.1, r.2, s.settleOf d dom wn)
      else
        let r := s.homeRead (some (d, ctx)) wn
        let st := if (r.1.dirWord wn).owner.any (fun (o : Nat × WordState) => o.1 == d) then WordState.E else .S
        (r.1.setL2Word d wn dom { value := r.2, mask := 0, st := st }, r.2, s.settleOf d dom wn)
    else
      let v := s.memWord wn
      (s.setL2Word d wn dom { value := v, mask := 0, st := .S }, v, s.settleOf d dom wn)

/-- A dirty word of core `c`'s L1 arrives at the die L2 (R43, R62, R64, R67): its completion time. A word
that another core owns is recalled first (R66). -/
def State.l2Arrive (s : State) (c : Nat) (dom : Domain) (ctx : BitVec 12) (wn : Nat) (v : BitVec 32)
    (mask : BitVec 8) : State × Word :=
  let d := dieOf c
  let line := wn / 32
  let s := s.recallOther d line c
  let l := s.l2Line d line dom
  let tc := s.leaseTc d line (some c)
  let s := s.setL2Line d line { l with dom := dom, k := if s.lentBut d line (some c) then 0 else l.k, wroteSinceFill := true }
  let r : State × Word :=
    if dom.wide then
      if homeOf wn = d then s.homeWrite dom wn v mask (some c)
      else
        match s.l2Word d wn with
        | some x =>
          if x.st = .M ∨ x.st = .E then
            ((s.setL2Word d wn dom { value := mergeWord mask x.value v, mask := 0xFF, st := .M }).setDirWord wn
              { sharers := [], owner := some (d, .M) }, later tc (s.tcOf d wn))
          else
            let o := s.obtainM d dom ctx wn
            (o.1.setL2Word d wn dom { value := mergeWord mask o.2.1 v, mask := 0xFF, st := .M }, later tc o.2.2)
        | none =>
          let o := s.obtainM d dom ctx wn
          (o.1.setL2Word d wn dom { value := mergeWord mask o.2.1 v, mask := 0xFF, st := .M }, later tc o.2.2)
    else
      let x := (s.l2Word d wn).getD { value := s.memWord wn, mask := 0, st := .S }
      (s.setL2Word d wn dom { x with value := mergeWord mask x.value v, mask := x.mask ||| mask }, tc)
  (r.1.raiseTc d wn r.2, r.2)

/-! ## L1 -/

def State.l1Line (s : State) (c line : Nat) : Option L1Line := AMap.find (s.core c).l1 line
def State.setL1Line (s : State) (c line : Nat) (x : L1Line) : State :=
  s.updCore c (fun k => { k with l1 := if x.words.isEmpty then AMap.drop k.l1 line else AMap.put k.l1 line x })

/-- Does core `c` own a word (R66)? -/
def State.ownsWord (s : State) (c wn : Nat) : Bool :=
  match AMap.find (s.die (dieOf c)).l2 (wn / 32) with
  | some l => l.owner == some c && l.ownMask.getLsbD (wn % 32)
  | none => false

/-- A word that the L1 may serve: dirty whole, owned, or valid under an unexpired lease (R42, R63, R66). Of a word in which
only some elements are dirty the others are served under the lease alone (R21). -/
def State.l1Hit (s : State) (c wn : Nat) : Option (BitVec 32) :=
  match s.l1Line c (wn / 32) with
  | none => none
  | some l =>
    match AMap.find l.words (wn % 32) with
    | none => none
    | some w => if w.mask == 0xFF || s.ownsWord c wn || leaseOk l.lease s.gtb then some w.value else none

/-- The L1 word's value without regard to its lease. -/
def State.l1Word (s : State) (c wn : Nat) : Option CacheWord :=
  (s.l1Line c (wn / 32)).bind (fun l => AMap.find l.words (wn % 32))

/-- A line of an L1 is used: it is the latest of its set (R41). -/
def State.l1Touch (s : State) (c line : Nat) : State :=
  match s.l1Line c line with
  | none => s
  | some l => s.updCore c (fun k => { k with l1Clock := k.l1Clock + 1, l1 := AMap.put k.l1 line { l with used := k.l1Clock + 1 } })

/-- One dirty word of a core's L1 pushed to the die L2; it stays valid and clean (R58, R72), and a later release of the core waits for
it (R91). -/
def State.l1PushWord (s : State) (c : Nat) (wn : Nat) : State × Word :=
  match s.l1Line c (wn / 32) with
  | none => (s, s.gtb)
  | some l =>
    match AMap.find l.words (wn % 32) with
    | none => (s, s.gtb)
    | some w =>
      if w.mask = 0 then (s, s.gtb)
      else
        let r := s.l2Arrive c l.dom l.ctx wn w.value w.mask
        let t := r.1.setL1Line c (wn / 32) { l with words := AMap.put l.words (wn % 32) { w with mask := 0 } }
        ((t.passStores c l.dom wn).noteSent c l.dom wn, r.2)

/-- The words of a line that are dirty in a core's L1. -/
def L1Line.dirty (line : Nat) (l : L1Line) : List Nat :=
  (l.words.filter (fun (w : Nat × _) => w.2.mask != 0)).map (fun w => 32 * line + w.1)

/-- A line leaves the L1: its dirty words go to the die L2 (R42, R89). -/
def State.l1Evict (s : State) (c : Nat) (line : Nat) : State :=
  match s.l1Line c line with
  | none => s
  | some l =>
    let r := (l.dirty line).foldl (fun (r : State × Word) wn =>
      let x := r.1.l1PushWord c wn
      (x.1, later r.2 x.2)) (s, s.gtb)
    r.1.updCore c (fun k => { k with l1 := AMap.drop k.l1 line, pushTc := later k.pushTc r.2 })

/-! ## Room in the L1 and in the die L2 (R41, R44) -/

/-- The set of a line in an L1: PA[16:7] (R41). -/
def l1Set (line : Nat) : Nat := line % 1024

/-- The line of a set used longest ago. -/
def oldestLine (ls : AMap L1Line) : Option Nat :=
  (ls.foldl (fun (b : Option (Nat × Nat)) (x : Nat × L1Line) => match b with
    | some y => if x.2.used < y.2 then some (x.1, x.2.used) else b
    | none => some (x.1, x.2.used)) none).map (·.1)

/-- The line that leaves the set of a line in an L1 for the next one that comes: that used longest ago, where the set is full (R41). -/
def State.l1Victim (s : State) (c line : Nat) : Option Nat :=
  let mine := (s.core c).l1.filter (fun (x : Nat × L1Line) => l1Set x.1 == l1Set line)
  if mine.length < 16 then none else oldestLine mine

/-- A way of a line's set in an L1: the line used longest ago leaves a full set (R41). -/
def State.l1Room (s : State) (c line : Nat) : State :=
  let ls := (s.core c).l1
  if ls.length < 16 ∨ (AMap.find ls line).isSome then s
  else
    match s.l1Victim c line with
    | some v => s.l1Evict c v
    | none => s

/-- A word of a line that leaves a die L2 (R67): M and O are written back, E is notified to the home, S goes silently. -/
def State.l2LeaveWord (s : State) (d : Nat) (dom : Domain) (wn : Nat) (w : L2Word) : State :=
  if dom.wide then
    if w.st = .S then s
    else
      let s := (s.homePush d wn).1
      let x := s.dirWord wn
      s.setDirWord wn { sharers := if w.st = .E then x.sharers else x.sharers.filter (· != d), owner := x.owner.filter (fun o => o.1 != d) }
  else if w.mask != 0 then s.setMemWord wn (mergeWord w.mask (s.memWord wn) w.value)
  else s

/-- A line leaves a die L2 (R44, R67): recalled from every L1 of the die, then written back. -/
def State.l2Evict (s : State) (d line : Nat) : State :=
  let s := s.recallOwned d line none
  let s := ((s.cores.filter (fun k => dieOf k.1 == d)).map (·.1)).foldl (fun s c => s.l1Evict c line) s
  match AMap.find (s.die d).l2 line with
  | none => s
  | some l =>
    let s := l.words.foldl (fun (s : State) (w : Nat × L2Word) => s.l2LeaveWord d l.dom (32 * line + w.1) w.2) s
    s.updDie d (fun x => { x with l2 := AMap.drop x.l2 line })

/-- The lines of a die L2 in the set of a line. Which set a line falls in is not given: a free value (log entry 63). -/
def State.l2SetOf (s : State) (d line : Nat) : AMap L2Line :=
  (s.die d).l2.filter (fun (x : Nat × L2Line) => Config.l2Set x.1 % 262144 == Config.l2Set line % 262144)

/-- A line of a pin's range that its home L2 keeps (R54). -/
def State.linePinned (s : State) (d line : Nat) : Bool := (AMap.find (s.die d).l2 line).any (fun (l : L2Line) => l.pin)

/-- A line of a tensor that a handle pins, in the order of its pages (R54). -/
def State.inPin (s : State) (line : Nat) : Bool :=
  s.handles.any (fun h => h.pinned.any (fun (r : Nat × Nat) => decide (r.1 ≤ line) && decide (line < r.1 + r.2)))

/-- Each home L2 keeps as pinned what lies in a pinned range, at most eight lines of a set, and no longer what does not (R54). -/
def State.repin (s : State) : State :=
  s.dies.foldl (fun (s : State) (d : Nat × Die) =>
    let s := s.updDie d.1 (fun x => { x with l2 := x.l2.map (fun (l : Nat × L2Line) => (l.1, { l.2 with pin := l.2.pin && s.inPin l.1 })) })
    (s.die d.1).l2.foldl (fun (s : State) (l : Nat × L2Line) =>
      if homeOf (32 * l.1) = d.1 ∧ !l.2.pin ∧ s.inPin l.1
          ∧ ((s.l2SetOf d.1 l.1).filter (fun (x : Nat × L2Line) => x.2.pin)).length < 8 then
        s.setL2Line d.1 l.1 { l.2 with pin := true }
      else s) s) s

/-- A set that has no room for a line: it is full, and a lease or a pin keeps every line of it (R44). -/
def State.l2Full (s : State) (d line : Nat) : Bool :=
  let ls := (s.die d).l2
  if ls.length < 16 ∨ (AMap.find ls line).isSome then false
  else
    let mine := s.l2SetOf d line
    decide (16 ≤ mine.length) && mine.all (fun (x : Nat × L2Line) => s.lineLent d x.1 || s.linePinned d x.1)

/-- The line that leaves a full set: one that neither a lease nor a pin keeps, by a free choice (R44). None leaves where leases and
pins keep all of them: an access waits then (`State.l2Full`), but for one that a trap or a park performs, whose line stands beside
them (log entry 63). -/
def State.l2Victim (s : State) (d : Nat) (mine : AMap L2Line) : Option Nat :=
  let free := mine.filter (fun (x : Nat × L2Line) => !(s.lineLent d x.1 || s.linePinned d x.1))
  match free with
  | [] => none
  | _ => (free[Config.freeNat s.freeCtr (7 + d) % free.length]?).map (·.1)

/-- A die L2 holds a line (R44): a full set gives up a victim, and the line enters it. A line of a pinned range is pinned
where its set holds fewer than eight pinned lines (R54). -/
def State.l2Hold (s : State) (d : Nat) (dom : Domain) (line : Nat) : State :=
  let ls := (s.die d).l2
  if (AMap.find ls line).isSome then s
  else
    let s := if ls.length < 16 then s
      else
        let mine := s.l2SetOf d line
        if mine.length < 16 then s
        else match s.l2Victim d mine with
          | some v => s.l2Evict d v
          | none => s
    let pin := decide (homeOf (32 * line) = d) && s.inPin line
      && (decide ((s.die d).l2.length < 8) || decide (((s.l2SetOf d line).filter (fun (x : Nat × L2Line) => x.2.pin)).length < 8))
    s.setL2Line d line { L2Line.fresh dom with pin := pin }

/-- A line that a walker or another agent of a die uses is in the die's L2, where its set has room (R44). -/
def State.l2Keep (s : State) (d : Nat) (dom : Domain) (line : Nat) : State := if s.l2Full d line then s else s.l2Hold d dom line

/-- A core's L1 takes a line that it is to write or to fill: the die L2 holds it, and a way is free (R41, R44). -/
def State.l1Take (s : State) (c : Nat) (dom : Domain) (line : Nat) : State := (s.l2Hold (dieOf c) dom line).l1Room c line

/-! ## Fills, loads and stores of an L1 -/

/-- The die L2 grants core `c` a lease on a line (R62, R64). -/
def State.grantLease (s : State) (c : Nat) (dom : Domain) (line : Nat) : State × BitVec 24 :=
  let d := dieOf c
  let s := s.recallOther d line c
  let l := s.l2Line d line dom
  let k := if l.wroteSinceFill then l.k else min 7 (l.k + 1)
  let e := s.gtb + wd (32 * 2 ^ k)
  let l := { l with dom := dom, k := k, wroteSinceFill := false }
  let l := if l.c1 = c then { l with lexp1 := later l.lexp1 e }
    else if l.lexp1.toNat ≤ e.toNat then { l with lexp1 := e, c1 := c, lexp2 := l.lexp1 }
    else { l with lexp2 := later l.lexp2 e }
  (s.setL2Line d line l, e.setWidth 24)

def Counters.zero : Counters := { words := 0, selections := 0, l1fills := 0, tlbmiss := 0, bankcyc := 0 }

/-- A count added to the event counters of a context on a core (R333). -/
def State.count (s : State) (c : Nat) (ctx : BitVec 12) (f : Counters → Counters) : State :=
  s.updCore c (fun k => { k with counters := AMap.put k.counters ctx.toNat (f (AMap.getD k.counters ctx.toNat Counters.zero)) })

/-- One word of a fill: a word that is dirty whole or owned stays; a word with dirty elements takes the others; a word
still settling, or poisoned, is not kept (R42, R47, R95). -/
def State.fillWord (s : State) (c : Nat) (ctx : BitVec 12) (dom : Domain) (line : Nat) (words : AMap CacheWord) (i : Nat) :
    State × AMap CacheWord :=
  let wn := 32 * line + i
  let old := AMap.find words i
  if old.any (fun (w : CacheWord) => w.mask == 0xFF) || s.ownsWord c wn then (s, words)
  else if s.poisonWord (dieOf c) wn then (s, if old.any (fun (w : CacheWord) => w.mask != 0) then words else AMap.drop words i)
  else
    let x := s.l2Read (dieOf c) ctx dom wn
    let mask := match old with
      | some w => w.mask
      | none => 0
    let value := match old with
      | some w => mergeWord w.mask x.2.1 w.value
      | none => x.2.1
    (x.1, if mask = 0 ∧ x.2.2 ≠ 0 then AMap.drop words i else AMap.put words i { value := value, mask := mask })

/-- An L1 fill (R42, R62, R95). -/
def State.l1Fill (s : State) (c : Nat) (ctx : BitVec 12) (dom : Domain) (line : Nat) : State :=
  let g := (s.l1Take c dom line).grantLease c dom line
  let s := g.1.count c ctx (fun k => { k with l1fills := k.l1fills + 1 })
  let old := (s.l1Line c line).getD { ctx := ctx, dom := dom, lease := 0, used := 0, words := [] }
  let r := (List.range 32).foldl (fun (r : State × AMap CacheWord) i => r.1.fillWord c ctx dom line r.2 i) (s, old.words)
  (r.1.setL1Line c line { ctx := old.ctx, dom := dom, lease := g.2, used := old.used, words := r.2 }).l1Touch c line

/-- A word after its line has been looked up or filled: the L1's, or, where the L1 does not keep it or elements of it are still
settling, the L2's under the elements that are dirty; and the completion time to which it is settling (R42, R95). -/
def State.l1Get (s : State) (c : Nat) (ctx : BitVec 12) (dom : Domain) (wn : Nat) : State × BitVec 32 × Word :=
  let through (s : State) : State × BitVec 32 × Word :=
    let x := s.l2Read (dieOf c) ctx dom wn
    (x.1, (match s.l1Word c wn with
      | some w => mergeWord w.mask x.2.1 w.value
      | none => x.2.1), x.2.2)
  match s.l1Hit c wn with
  | some v => if (s.l1Word c wn).any (fun w => w.mask != 0 && w.mask != 0xFF) && s.settleOf (dieOf c) dom wn != 0 then through s else (s, v, 0)
  | none => through s

/-- A line is looked up for a load of some of its words: it is filled where one of them may not be served (R42). -/
def State.l1Look (s : State) (c : Nat) (ctx : BitVec 12) (dom : Domain) (ws : List Nat) : State :=
  let line := (ws.headD 0) / 32
  if ws.all (fun wn => (s.l1Hit c wn).isSome) then s.l1Touch c line else s.l1Fill c ctx dom line

/-- A plain store of one word, or of the masked elements of one, into the L1 (R42). -/
def State.l1Store (s : State) (c : Nat) (ctx : BitVec 12) (dom : Domain) (wn : Nat) (v : BitVec 32) (mask : BitVec 8) : State :=
  let l := (s.l1Line c (wn / 32)).getD { ctx := ctx, dom := dom, lease := s.gtb.setWidth 24, used := 0, words := [] }
  let w := (AMap.find l.words (wn % 32)).getD { value := 0, mask := 0 }
  (s.setL1Line c (wn / 32) { l with
    ctx := ctx, dom := dom, words := AMap.put l.words (wn % 32) { value := mergeWord mask w.value v, mask := w.mask ||| mask } }).l1Touch
      c (wn / 32)

/-- A store of elements of a formatted frame's word: a word that is not valid is fetched first, and the elements written are
recorded (R21, R42). -/
def State.l1StoreElems (s : State) (c : Nat) (ctx : BitVec 12) (dom : Domain) (wn : Nat) (v : BitVec 32) (mask : BitVec 8) : State :=
  let s := s.l1Take c dom (wn / 32)
  if mask = 0xFF ∨ (s.l1Word c wn).isSome then s.l1Store c ctx dom wn v mask
  else
    let s := s.l1Fill c ctx dom (wn / 32)
    if (s.l1Word c wn).isSome then s.l1Store c ctx dom wn v mask
    else
      let x := s.l2Read (dieOf c) ctx dom wn
      let t := x.1.l1Store c ctx dom wn (mergeWord mask x.2.1 v) 0xFF
      match t.l1Line c (wn / 32), t.l1Word c wn with
      | some l, some w => t.setL1Line c (wn / 32) { l with words := AMap.put l.words (wn % 32) { w with mask := mask } }
      | _, _ => t

/-- One dirty word pushed on to its point of coherence (R71). -/
def State.pushWord (s : State) (c : Nat) (wn : Nat) : State × Word :=
  let r := s.l1PushWord c wn
  let h := r.1.homePush (dieOf c) wn
  (h.1, later r.2 h.2)

/-- A list of words pushed in turn: the latest completion time. -/
def State.pushWords (s : State) (c : Nat) (ws : List Nat) : State × Word :=
  ws.foldl (fun (r : State × Word) wn =>
    let x := r.1.pushWord c wn
    (x.1, later r.2 x.2)) (s, s.gtb)

/-- The M and O words of a die pushed to their homes. -/
def State.pushDie (s : State) (d : Nat) : State × Word :=
  let ws := (s.die d).l2.flatMap (fun (l : Nat × _) =>
    if l.2.dom.wide then ((l.2.words.filter (fun (w : Nat × _) => w.2.st == .M || w.2.st == .O)).map (fun w => 32 * l.1 + w.1)) else [])
  ws.foldl (fun (r : State × Word) wn =>
    let x := r.1.homePush d wn
    (x.1, later r.2 x.2)) (s, s.gtb)

/-- A push of a word is not complete: its time is still to pass, or back-invalidations of its line are in progress (R71). -/
def State.sentOpen (s : State) (d wn : Nat) (dom : Domain) : Bool :=
  s.settleOf d dom wn != 0 || (dom == .pod || dom == .host) && s.fabric.biPending.any (fun x => x.1 == wn / 32)

/-- Words that left a core's L1 earlier go on to their homes: the latest completion time that they still have. Those whose push is
complete are forgotten (R71). -/
def State.pushSent (s : State) (c : Nat) : State × Word :=
  let d := dieOf c
  let r := (s.core c).sent.foldl (fun (r : State × Word) (w : Nat × Domain) =>
    let x := r.1.homePush d w.1
    (x.1, later r.2 (later x.2 (x.1.settleOf d w.2 w.1)))) (s, s.gtb)
  (r.1.updCore c (fun k => { k with sent := k.sent.filter (fun (w : Nat × Domain) => r.1.sentOpen d w.1 w.2) }), r.2)

/-- What a release pushes (R71, R91): every dirty word of the core's L1 outside CORE, and the words that left it earlier, as far as
their homes: the latest completion time of these. A word that another release of the core has pushed is no longer dirty, and its
copies are stale until its own time. -/
def State.releasePush (s : State) (c : Nat) : State × Word :=
  let ws := (s.core c).l1.flatMap (fun (l : Nat × _) => if l.2.dom = .core then [] else l.2.dirty l.1)
  let r := s.pushWords c ws
  let h := r.1.pushSent c
  (h.1, later r.2 h.2)

/-- The lines of the words that a release of a core covers and whose copies beyond the package are asked back (R71). -/
def State.sentLines (s : State) (c : Nat) : List Nat :=
  ((s.core c).sent.filter (fun (w : Nat × Domain) => w.2 == .pod || w.2 == .host)).foldl (fun l (w : Nat × Domain) => addDie l (w.1 / 32)) []

/-- Of a list of lines, those of which a back-invalidation is in progress. -/
def State.busyLines (s : State) (ls : List Nat) : List Nat := ls.filter (fun l => s.fabric.biPending.any (fun x => x.1 == l))

/-- Every dirty word of a core's L1, in every domain, goes to the die L2 (R60, R108). -/
def State.l1WriteBack (s : State) (c : Nat) : State × Word :=
  ((s.core c).l1.flatMap (fun (l : Nat × _) => l.2.dirty l.1)).foldl (fun (r : State × Word) wn =>
    let x := r.1.l1PushWord c wn
    (x.1, later r.2 x.2)) (s, s.gtb)

/-! ## Points of coherence (R71) -/

/-- A clean copy of a word in the L2 of a die that is not its home goes, so that the next read is made at the home: a host
write of another domain than HOST drops no device copy (R388). -/
def State.forgetClean (s : State) (d wn : Nat) : State :=
  match s.l2Word d wn with
  | none => s
  | some x =>
    if x.st == .M || x.st == .O then s
    else
      let w := s.dirWord wn
      (s.dropL2Word d wn).setDirWord wn { sharers := w.sharers.filter (· != d), owner := w.owner.filter (fun o => o.1 != d) }

/-- One word at its point of coherence for a core: the core's L1 for CORE, the die L2 for DIE, else the home. -/
def State.pointRead (s : State) (c : Nat) (ctx : BitVec 12) (dom : Domain) (wn : Nat) : State × BitVec 32 :=
  let d := dieOf c
  match dom with
  | .core =>
    let r := (s.l1Look c ctx .core [wn]).l1Get c ctx .core wn
    (r.1, r.2.1)
  | .die =>
    let r := ((s.recallOther d (wn / 32) c).l2Hold d .die (wn / 32)).l2Read d ctx .die wn
    (r.1, r.2.1)
  | _ =>
    if homeOf wn = d then s.homeRead none wn
    else
      let r := ((s.forgetClean d wn).l2Hold d dom (wn / 32)).l2Read d ctx dom wn
      (r.1, r.2.1)

/-- A core's own copy of a word goes where it is clean. -/
def State.dropClean (s : State) (c wn : Nat) : State :=
  match s.l1Line c (wn / 32) with
  | some l => s.setL1Line c (wn / 32) { l with words := l.words.filter (fun (w : Nat × CacheWord) => w.1 != wn % 32 || w.2.mask != 0) }
  | none => s

/-- One word, or its masked elements, written at its point of coherence: the completion time (R71, R101). The issuing
core's own clean copy is dropped. -/
def State.pointWrite (s : State) (c : Nat) (ctx : BitVec 12) (dom : Domain) (wn : Nat) (v : BitVec 32)
    (mask : BitVec 8) : State × Word :=
  match dom with
  | .core =>
    let r := if mask = 0xFF then s.l1Take c .core (wn / 32) else s.l1Look c ctx .core [wn]
    (r.l1Store c ctx .core wn v mask, s.gtb)
  | _ =>
    let d := dieOf c
    let s := (((if dom = .die then s.recallOther d (wn / 32) c else s).dropClean c wn).l2Hold d dom (wn / 32))
    let r := s.l2Arrive c dom ctx wn v mask
    let h := r.1.homePush d wn
    (h.1.noteSent c dom wn, later r.2 h.2)

/-- The words that `n` bytes at `pa` touch. -/
def wordsOf (pa n : Nat) : List Nat := (List.range ((pa % 4 + n + 3) / 4)).map (fun i => pa / 4 + i)

/-- `n` bytes read through a function that reads one word. -/
def readBy (f : State → Nat → State × BitVec 32) (s : State) (pa n : Nat) : State × Nat :=
  let r := (wordsOf pa n).foldr (fun wn (k : State → State × Nat) s =>
    let x := f s wn
    let y := k x.1
    (y.1, x.2.toNat + 2 ^ 32 * y.2)) (fun s => (s, 0)) s
  (r.1, bitsAt r.2 (8 * (pa % 4)) (8 * n))

/-- The part of `n` bytes of `v` at `pa` that falls in word `wn`: its bits, and the mask of its elements. -/
def partOf (pa n v wn : Nat) : BitVec 32 × BitVec 8 :=
  let bits := (v % 2 ^ (8 * n)) * 2 ^ (8 * (pa % 4))
  let cover := (2 ^ (2 * n) - 1) * 2 ^ (2 * (pa % 4))
  (BitVec.ofNat 32 (bits >>> (32 * (wn - pa / 4))), BitVec.ofNat 8 (cover >>> (8 * (wn - pa / 4))))

/-- `n` bytes read at their point of coherence. -/
def State.pointBytes (s : State) (c : Nat) (ctx : BitVec 12) (dom : Domain) (pa n : Nat) : State × Nat :=
  readBy (fun s wn => s.pointRead c ctx dom wn) s pa n

/-- `n` bytes written at their point of coherence. -/
def State.pointStore (s : State) (c : Nat) (ctx : BitVec 12) (dom : Domain) (pa n v : Nat) : State × Word :=
  (wordsOf pa n).foldl (fun (r : State × Word) wn =>
    let p := partOf pa n v wn
    let x := r.1.pointWrite c ctx dom wn p.1 p.2
    (x.1, later r.2 x.2)) (s, s.gtb)

/-- `n` bytes read by an agent of the package that has no cache: at the home (R17). -/
def State.devRead (s : State) (pa n : Nat) : State × Nat := readBy (fun s wn => s.homeRead none wn) s pa n

/-- `n` bytes of a domain written at the home by an agent of the package that has no cache: their completion time. -/
def State.devWriteTc (s : State) (dom : Domain) (pa n v : Nat) : State × Word :=
  (wordsOf pa n).foldl (fun (r : State × Word) wn =>
    let p := partOf pa n v wn
    let x := r.1.homeWrite dom wn p.1 p.2 none
    (if wn / 32 ∈ x.1.plat.hostLines then x.1.hostInvalidate (wn / 32) else x.1, later r.2 x.2)) (s, s.gtb)

/-- `n` bytes written at the home. -/
def State.devWrite (s : State) (pa n v : Nat) : State := (s.devWriteTc .package pa n v).1

/-- An 8-byte word read at the home. -/
def State.devWord (s : State) (pa : Nat) : State × Word :=
  let r := s.devRead pa 8
  (r.1, wd r.2)

/-- `n` consecutive 8-byte words read at the home. -/
def State.devWords (s : State) (pa : Nat) : Nat → State × List Word
  | 0 => (s, [])
  | n + 1 =>
    let r := s.devWord pa
    let q := State.devWords r.1 (pa + 8) n
    (q.1, r.2 :: q.2)

/-- Consecutive 8-byte words written at the home. -/
def State.devPut (s : State) (pa : Nat) : List Word → State
  | [] => s
  | w :: ws => State.devPut (s.devWrite pa 8 w.toNat) (pa + 8) ws

/-! ## Plain, acquire and atomic accesses of a core -/

/-- A plain load of `n` bytes: its value and the settle time (R42, R95). Its words lie in one line, which is looked up once. -/
def State.loadBytes (s : State) (c : Nat) (ctx : BitVec 12) (dom : Domain) (pa n : Nat) : State × Nat × Word :=
  let ws := wordsOf pa n
  let s := s.l1Look c ctx dom ws
  let r := readBy (fun s wn =>
    let x := s.l1Get c ctx dom wn
    (x.1, x.2.1)) s pa n
  (r.1, r.2, ws.foldl (fun t wn => later t (s.l1Get c ctx dom wn).2.2) 0)

/-- A plain store of `n` bytes into an L1 that has taken its line: 1 or 2 bytes into a word that is not valid fetch the line
first (R42). -/
def State.storeBytes (s : State) (c : Nat) (ctx : BitVec 12) (dom : Domain) (pa n v : Nat) : State :=
  if n < 4 then
    let wn := pa / 4
    let s := if (s.l1Word c wn).isSome then s else s.l1Fill c ctx dom (wn / 32)
    let old := match s.l1Word c wn with
      | some w => (s, w.value)
      | none => let x := s.l2Read (dieOf c) ctx dom wn; (x.1, x.2.1)
    let p := partOf pa n v wn
    old.1.l1Store c ctx dom wn (mergeWord p.2 old.2 p.1) 0xFF
  else (wordsOf pa n).foldl (fun s wn => s.l1Store c ctx dom wn (partOf pa n v wn).1 0xFF) s

/-- An acquire read of `n` bytes (R72, R92): the core's own dirty words are pushed, the value is the one at the point of
coherence, and the line is filled afresh with it. -/
def State.acquireBytes (s : State) (c : Nat) (ctx : BitVec 12) (dom : Domain) (pa n : Nat) : State × Nat × Word :=
  if dom = .core then s.loadBytes c ctx dom pa n
  else
    let ws := wordsOf pa n
    let r := s.pushWords c ws
    let v := r.1.pointBytes c ctx dom pa n
    let t := ws.foldl (fun (t : Word) wn => later t (v.1.settleOf (dieOf c) dom wn)) 0
    (v.1.l1Fill c ctx dom (pa / 128), v.2, t)

/-- A core's copies of words go from its L1, dirty or clean: the value has just been taken over elsewhere. -/
def State.dropL1Words (s : State) (c : Nat) (ws : List Nat) : State :=
  ws.foldl (fun (s : State) wn => match s.l1Line c (wn / 32) with
    | some l => s.setL1Line c (wn / 32) { l with words := AMap.drop l.words (wn % 32) }
    | none => s) s

/-- A die holds a word in E or M (R69). -/
def State.holdsEM (s : State) (d wn : Nat) : Bool :=
  (s.l2Word d wn).any (fun (x : L2Word) => x.st == .E || x.st == .M) && (s.dirWord wn).owner.any (fun (o : Nat × WordState) => o.1 == d)

/-- An atomic cannot be performed yet: a core obtains a DIE-domain word only after the latest lease that another core holds on its
line (R66), and a HOST-domain line must be held exclusive (R69). -/
def State.atomicWaits (s : State) (c : Nat) (dom : Domain) (pa n : Nat) : Bool :=
  let line := pa / 128
  match dom with
  | .die =>
    let d := dieOf c
    !(wordsOf pa n).all (fun wn => s.ownsWord c wn) && decide ((s.l2Line d line .die).bounce < 4)
      && decide (s.gtb.toNat < (s.leaseTc d line (some c)).toNat)
  | .host => decide (line ∈ s.plat.hostLines) || decide ((line, hostHolder) ∈ s.fabric.biPending)
  | _ => false

/-- An atomic in the issuing core's L1, on words that it owns or now obtains (R66, R69). -/
def State.atomicOwned (s : State) (c : Nat) (ctx : BitVec 12) (pa n : Nat) (f : Nat → Nat) : State × Nat × Word :=
  let d := dieOf c
  let line := pa / 128
  let ws := wordsOf pa n
  let r := readBy (fun s wn =>
    match if s.ownsWord c wn then s.l1Word c wn else none with
    | some w => (s, w.value)
    | none => let x := s.l2Read d ctx .die wn; (x.1, x.2.1)) s pa n
  let s := r.1
  let l := s.l2Line d line .die
  let s := s.setL2Line d line { l with owner := some c, ownMask := ws.foldl (fun m wn => m ||| BitVec.ofNat 32 (2 ^ (wn % 32))) l.ownMask }
  (ws.foldl (fun s wn => s.l1Store c ctx .die wn (partOf pa n (f r.2) wn).1 0xFF) s, r.2, s.leaseTc d line (some c))

/-- An atomic in the issuing die's L2, which holds the words in E or M or now obtains M (R67, R69, R70). -/
def State.atomicDie (s : State) (c : Nat) (ctx : BitVec 12) (dom : Domain) (pa n : Nat) (f : Nat → Nat) : State × Nat × Word :=
  let d := dieOf c
  let line := pa / 128
  let ws := wordsOf pa n
  let o := ws.foldl (fun (r : State × Word) wn =>
    if r.1.holdsEM d wn then (r.1.setDirWord wn { sharers := [], owner := some (d, .M) }, later r.2 (r.1.tcOf d wn))
    else
      let x := r.1.obtainM d dom ctx wn
      (x.1, later r.2 x.2.2)) (s, s.gtb)
  let r := readBy (fun s wn => let x := s.l2Read d ctx dom wn; (x.1, x.2.1)) o.1 pa n
  let w := ws.foldl (fun (s : State) wn => s.setL2Word d wn dom { value := (partOf pa n (f r.2) wn).1, mask := 0xFF, st := .M })
    (r.1.dropL1Words c ws)
  let t := later o.2 (w.leaseTc d line (some c))
  (ws.foldl (fun (s : State) wn => s.raiseTc d wn t) w, r.2, t)

/-- An atomic at the home die's L2: M or O at any die is recalled first (R69). -/
def State.atomicHome (s : State) (c : Nat) (dom : Domain) (pa n : Nat) (f : Nat → Nat) : State × Nat × Word :=
  let ws := wordsOf pa n
  let inv := ws.foldl (fun (r : State × Word) wn => let o := r.1.homeInvalidate none wn; (o.1, later r.2 o.2)) (s, s.gtb)
  let r := readBy (fun s wn => s.homeRead none wn) inv.1 pa n
  let w := ws.foldl (fun (q : State × Word) wn =>
    let x := q.1.homeWrite dom wn (partOf pa n (f r.2) wn).1 0xFF (if homeOf wn = dieOf c then some c else none)
    (x.1, later q.2 x.2)) (r.1.dropL1Words c ws, inv.2)
  (w.1, r.2, w.2)

/-- An atomic on 4 or 8 bytes at the place of R69: the old value, the completion time of its write. `f` gives the new
value. -/
def State.atomicBytes (s : State) (c : Nat) (ctx : BitVec 12) (dom : Domain) (pa n : Nat) (f : Nat → Nat) :
    State × Nat × Word :=
  let d := dieOf c
  let ws := wordsOf pa n
  let line := pa / 128
  match dom with
  | .core =>
    let r := s.loadBytes c ctx .core pa n
    (r.1.storeBytes c ctx .core pa n (f r.2.1), r.2.1, s.gtb)
  | .die =>
    let owns := ws.all (fun wn => s.ownsWord c wn)
    let low := (s.l2Line d line .die).bounce < 4
    let s := (s.recallOther d line c).l1Take c .die line
    if owns then s.atomicOwned c ctx pa n f
    else
      let s := (ws.foldl (fun (r : State × Word) wn => r.1.l1PushWord c wn) (s, 0)).1
      if low then s.atomicOwned c ctx pa n f
      else
        let r := readBy (fun s wn => let x := s.l2Read d ctx .die wn; (x.1, x.2.1)) (s.recallOwned d line (some c)) pa n
        let w := r.1.pointStore c ctx .die pa n (f r.2)
        (w.1, r.2, later (r.1.leaseTc d line (some c)) w.2)
  | _ =>
    let s := (ws.foldl (fun (r : State × Word) wn => r.1.l1PushWord c wn) (s.l2Hold d dom line, 0)).1
    let held := ws.all (fun wn => s.holdsEM d wn)
    let here := dom = .package ∧ homeOf (pa / 4) ≠ d ∧ (held ∨ (s.dirLine line).bounce < 4)
    let moved := ws.any (fun wn => (s.dirWord wn).owner.any (fun (o : Nat × WordState) => o.1 != d && o.2 != .E))
    let s := if moved then s.bumpDir line else s
    let r := if here then s.atomicDie c ctx dom pa n f else s.atomicHome c dom pa n f
    (ws.foldl (fun (t : State) wn => t.noteSent c dom wn) r.1, r.2)

/-- The dead die that an address is homed on (R81). -/
def State.deadAt (s : State) (pa : Nat) : Option Nat :=
  if (s.die (homeOf (pa / 4))).dead && decide (pa < 0x090000000000) then some (homeOf (pa / 4)) else none

/-- An L1 serves some elements of a word itself: they are dirty, the core owns the word, or it is clean under an unexpired lease. -/
def State.l1Serves (s : State) (c wn : Nat) (m : BitVec 8) : Bool :=
  (s.l1Line c (wn / 32)).any (fun (l : L1Line) => (AMap.find l.words (wn % 32)).any (fun (w : CacheWord) =>
    m &&& ~~~w.mask == 0 || s.ownsWord c wn || (w.mask == 0 && leaseOk l.lease s.gtb)))

/-- A read of `n` bytes at `pa` by core `c`, or by an agent at the home, that needs data lost with a dead die or poisoned (R47,
R81): the number INFO1 gives. Words that a cache holds are not read from memory. -/
def State.lostAt (s : State) (c : Option Nat) (pa n : Nat) : Option Nat :=
  match s.deadAt pa with
  | some d => some d
  | none =>
    if s.poisonedAt pa then
      let bad := (wordsOf pa n).any (fun wn => match c with
        | some c => !s.l1Serves c wn (partOf pa n 0 wn).2 && s.poisonWord (dieOf c) wn
        | none => (s.dirWord wn).owner.isNone)
      if bad then some 4 else none
    else none

end Sys2Proof.Machine
end

