-- ==== Sys2Proof/Machine/Translate.lean ====
section
/-! DEFINITION. Translation of global addresses: table walks, region table, translation buffers and permissions
(chapter 01), and what a physical address may hold (R10, R47). -/

namespace Sys2Proof.Machine

/-- Why a translation fails: a page that is not present, a protection failure, or a table entry lost with its die. -/
inductive XFault where
  | page
  /-- The page is being moved and its translations are held (R50, R51). -/
  | moving
  | protection
  | lost (pa die : Nat)
  deriving DecidableEq, Repr

/-- What an access does to the page (R15). -/
inductive AccessKind where
  | read | write | atomic | fetch
  /-- Permission to write, asked before it is known whether anything is stored (R321). -/
  | claim
  deriving DecidableEq, Repr

/-! ## Physical addresses -/

/-- The first spare HBM address (R10). -/
def State.spareFrom (s : State) : Nat :=
  match fld s.plat.pkgCfg 16 2 with
  | 1 => 0x00C000000000
  | 2 => 0x008000000000
  | _ => 0x010000000000

/-- HBM outside the checkpoint spare part. -/
def State.inHbm (s : State) (pa : Nat) : Bool := decide (pa < s.spareFrom)
/-- The second tier (R46). -/
def inSecond (pa : Nat) : Bool := decide (0x010000000000 ≤ pa) && decide (pa < 0x090000000000)
/-- The host window. -/
def inHost (pa : Nat) : Bool := decide (0x100000000000 ≤ pa) && decide (pa < 0x200000000000)
/-- Device control registers. -/
def inControl (pa : Nat) : Bool := decide (0x200000000000 ≤ pa) && decide (pa < 0x200100000000)

/-- An address that a leaf's frame may have (R10). -/
def State.paOk (s : State) (pa : Nat) : Bool := s.inHbm pa || inSecond pa || inHost pa || inControl pa

/-- The granule of a second-tier address is present in its expander (R46, R47). -/
def State.portOk (s : State) (pa : Nat) : Bool :=
  if inSecond pa then
    let t := pa - 0x010000000000
    decide (t / 65536 * 4096 + t % 4096 < s.plat.expanders.getD (t / 4096 % 16) 0 * 2 ^ 30)
  else true

/-! ## Entries -/

namespace TlbEntry
def addr (e : TlbEntry) : Nat := fld e.pte 12 40 * 4096
def ca (e : TlbEntry) : Nat := fld e.pte 7 2
def uncached (e : TlbEntry) : Bool := e.ca == 1
def pin (e : TlbEntry) : Bool := flag e.pte 6
def u (e : TlbEntry) : Bool := flag e.pte 5
def x (e : TlbEntry) : Bool := flag e.pte 4
def w (e : TlbEntry) : Bool := flag e.pte 3
def rd (e : TlbEntry) : Bool := flag e.pte 2
def kind (e : TlbEntry) : Nat := fld e.comp 30 2
def geom (e : TlbEntry) : Nat := fld e.comp 28 2
def efmt (e : TlbEntry) : Nat := fld e.comp 24 4
def wver (e : TlbEntry) : Nat := fld e.comp 8 16
def node (e : TlbEntry) : Nat := e.addr + fld e.comp 32 6 * 64
/-- The physical address of a virtual address of a plain page. -/
def pa (e : TlbEntry) (va : Nat) : Nat := e.addr + (if e.big then va % 2 ^ 21 else va % 2 ^ 16)
/-- Does the entry translate an address for a context? -/
def covers (e : TlbEntry) (ctx : BitVec 12) (va : Nat) : Bool :=
  e.ctx == ctx && (if e.big then e.page / 32 == va / 2 ^ 21 else e.page == va / 2 ^ 16)
end TlbEntry

/-- A non-leaf entry at a level is well formed (R12, R14). -/
def nonLeafOk (level : Nat) (pte comp : Word) : Bool :=
  zeroBits pte 52 12 && comp == 0 && decide (level ≠ 0) &&
    (if level = 1 then true else zeroBits pte 9 3 && zeroBits pte 12 4)

/-- Bytes that a leaf's page takes in its frame: whole, or packed (R19). -/
def frameSize (comp : Word) : Nat :=
  if fld comp 30 2 = 2 then
    match fld comp 24 4 with
    | 0 => 65536
    | 1 | 2 => 32768
    | 7 => 12288
    | _ => 16384
  else 65536

/-- A leaf entry at a level is well formed (R10, R14): the whole of a packed frame lies where frames may lie. -/
def State.leafOk (s : State) (level : Nat) (pte comp : Word) : Bool :=
  let kind := fld comp 30 2
  let pa := fld pte 12 40 * 4096
  zeroBits pte 52 12 && zeroBits comp 38 26 && zeroBits pte 9 3 && (kind == 1 || zeroBits comp 32 6)
    && decide (level < 2) && !(flag pte 3 && !flag pte 2) && decide (fld pte 7 2 < 2) && kind != 3
    && (level == 0 || kind == 0)
    && (kind != 2 || (decide (fld comp 24 4 < 8) && (if fld comp 24 4 = 7 then decide (fld comp 28 2 < 2) else zeroBits comp 28 2)))
    && (if level = 1 then zeroBits pte 12 9 else if kind = 0 then zeroBits pte 12 4 else true)
    && s.paOk pa && (!inControl pa || fld pte 7 2 == 1)
    && (kind != 2 || ((s.inHbm pa || inSecond pa) && s.paOk (pa + frameSize comp - 1)))

/-! ## Region table -/

/-- The domain of an address in a region table of 64 entries, two words each (R28, R29). -/
def regionIn (ws : List Word) (va : Nat) : Domain :=
  let g := va / 2 ^ 21
  let hit (i : Nat) : Option Domain :=
    let a := ws.getD (2 * i) 0
    let b := ws.getD (2 * i + 1) 0
    if flag a 0 && zeroBits a 57 7 && zeroBits a 4 17 && zeroBits b 57 7 && zeroBits b 0 21
        && decide (fld a 21 36 ≤ g) && decide (g ≤ fld b 21 36) then
      match fld a 1 3 with
      | 0 => some .core
      | 1 => some .die
      | 2 => some .package
      | 3 => some .pod
      | 4 => some .host
      | _ => none
    else none
  ((List.range 64).findSome? hit).getD .package

/-- The domain that a fill on a die takes (R30): from the region table in memory, or from what the die has kept of it. -/
def State.regionAt (s : State) (d : Nat) (ctx : BitVec 12) (va : Nat) : State × Domain :=
  let kept := AMap.getD (s.die d).regions ctx.toNat []
  match kept[Config.freeNat s.freeCtr (16 + d) % (kept.length + 1)]? with
  | some ws => (s, regionIn ws va)
  | none =>
    let r := s.devWords (fld (s.record ctx 1) 10 42 * 1024) 128
    (r.1.updDie d (fun x => { x with regions := AMap.put x.regions ctx.toNat (if r.2 ∈ kept then kept else r.2 :: kept) }), regionIn r.2 va)

/-! ## Walks and translation buffers -/

/-- A buffer as it is before one entry more enters it: of a set that holds as many entries as it has ways, a freely chosen
one leaves (R1). -/
def makeRoom {α : Type} [DecidableEq α] (ways : Nat) (set : α → Bool) (pick : Nat) (l : List α) : List α :=
  if l.length < ways then l
  else
    let mine := l.filter set
    if mine.length < ways then l
    else match mine[pick % mine.length]? with
      | some x => l.erase x
      | none => l

/-- What one level of a walk answers: a failure, a leaf, or the next node (R11, R14, R16, R30). -/
def State.walkEntry (s : State) (d : Nat) (ctx : BitVec 12) (va node level : Nat) :
    State × Except XFault (TlbEntry ⊕ Nat) :=
  let idx := if level = 0 then va / 2 ^ 16 % 32 else va / 2 ^ (9 + 12 * level) % 4096
  let ea := node + 16 * idx
  match s.lostAt none ea 16 with
  | some die => (s, .error (.lost ea die))
  | none =>
    -- the walker's line is in its die's L2 (R44)
    let a := (s.l2Keep d .package (ea / 128)).devWord ea
    let b := a.1.devWord (ea + 8)
    let s := b.1
    if !flag a.2 0 then (s, .error .page)
    else if flag a.2 1 then
      if s.leafOk level a.2 b.2 then
        let comp := b.2 ||| wd (2 ^ d)
        let s := if comp = b.2 then s else s.devWrite (ea + 8) 8 comp.toNat
        let r := s.regionAt d ctx va
        (r.1, .ok (.inl { ctx := ctx, page := va / 2 ^ 16, big := level == 1, pte := a.2, comp := comp,
                          compPa := ea + 8, dom := r.2 }))
      else (s, .error .protection)
    else if nonLeafOk level a.2 b.2 then
      let next := fld a.2 12 40 * 4096 + (if level = 1 then fld a.2 9 3 * 512 else 0)
      let w : WalkEntry := { ctx := ctx, level := level - 1, index := va / 2 ^ (9 + 12 * level), node := next }
      (s.updDie d (fun x => { x with walks := w :: makeRoom 2048 (fun _ => true) (Config.freeNat s.freeCtr (20 + d)) x.walks }),
        .ok (.inr next))
    else (s, .error .protection)

/-- A walk from a node of a level down (R11). -/
def State.walkFrom (s : State) (d : Nat) (ctx : BitVec 12) (va node : Nat) : Nat → State × Except XFault TlbEntry
  | 0 => match s.walkEntry d ctx va node 0 with
    | (s, .ok (.inl e)) => (s, .ok e)
    | (s, .ok (.inr _)) => (s, .error .protection)
    | (s, .error x) => (s, .error x)
  | l + 1 => match s.walkEntry d ctx va node (l + 1) with
    | (s, .ok (.inl e)) => (s, .ok e)
    | (s, .ok (.inr next)) => State.walkFrom s d ctx va next l
    | (s, .error x) => (s, .error x)

/-! ## A shootdown in progress (R36) -/

/-- A translation is covered by a shootdown (R37). -/
def shootCovers (va ctl : Word) (e : TlbEntry) : Bool :=
  let base := fld va 16 41
  let pages := fld ctl 48 16
  let n := if e.big then 32 else 1
  e.ctx.toNat == fld ctl 36 12 && (pages == 0 || decide (base < e.page / n * n + n) && decide (e.page / n * n < base + pages))

/-- Between GO and the clearing of BUSY a look-up on a visited die may find a covered entry gone (R36). -/
def State.shotDown (s : State) (d : Nat) (agent : Nat) (e : TlbEntry) : Bool :=
  match s.plat.shooting with
  | some (va, ctl, ds) => decide (d ∈ ds) && shootCovers va ctl e && s.coin agent e.page
  | none => false

/-- The same of a walk-cache entry, with WALK. -/
def State.shotWalk (s : State) (d : Nat) (w : WalkEntry) : Bool :=
  match s.plat.shooting with
  | some (_, ctl, ds) => decide (d ∈ ds) && flag ctl 3 && w.ctx.toNat == fld ctl 36 12 && s.coin (8192 + d) w.index
  | none => false

/-- A walk on a die (R11, R14, R16, R30), from the lowest node its walk cache holds (R32). -/
def State.walk (s : State) (d : Nat) (ctx : BitVec 12) (va : Nat) : State × Except XFault TlbEntry :=
  let ws := (s.die d).walks
  let at_ (l : Nat) := ws.find? (fun w => w.ctx == ctx && w.level == l && w.index == va / 2 ^ (9 + 12 * (l + 1)) && !s.shotWalk d w)
  match at_ 0 with
  | some w => s.walkFrom d ctx va w.node 0
  | none =>
    match at_ 1 with
    | some w => s.walkFrom d ctx va w.node 1
    | none =>
      match at_ 2 with
      | some w => s.walkFrom d ctx va w.node 2
      | none => s.walkFrom d ctx va (fld (s.record ctx 0) 16 36 * 65536) 3

/-- A page's translations are held while the residency manager moves it (R50). -/
def State.pageMoves (s : State) (ctx : BitVec 12) (va : Nat) : Bool :=
  match s.move with
  | some m => match m.held with
    | some (p, _) => p == va / 2 ^ 16 && s.handles.any (fun h => h.seq == m.seq && h.ctx == ctx)
    | none => false
  | none => false

/-- A translation through a die's second-level TLB of 32,768 entries (R30 to R32). -/
def State.translateDie (s : State) (d : Nat) (ctx : BitVec 12) (va : Nat) : State × Except XFault TlbEntry :=
  match (s.die d).tlb.find? (fun e => e.covers ctx va && !s.shotDown d (4096 + d) e) with
  | some e => (s, .ok e)
  | none =>
    if s.pageMoves ctx va then (s, .error .moving)
    else match s.walk d ctx va with
    | (s, .ok e) =>
      let room (l : List TlbEntry) := makeRoom 32768 (fun _ => true) (Config.freeNat s.freeCtr (24 + d)) (l.filter (fun e => !e.covers ctx va))
      (s.updDie d (fun x => { x with tlb := e :: room x.tlb }), .ok e)
    | r => r

/-- A miss of the data TLB is counted once for each page that the lanes of one instruction touch (R31, R333). -/
def State.countMiss (s : State) (c : Nat) (ctx : BitVec 12) (va : Nat) : State :=
  let m := (s.core c).missed
  let seen := if m.1 = s.freeCtr then m.2 else []
  if va / 2 ^ 16 ∈ seen then s
  else (s.count c ctx (fun k => { k with tlbmiss := k.tlbmiss + 1 })).updCore c (fun k => { k with missed := (s.freeCtr, va / 2 ^ 16 :: seen) })

/-- A core's buffer with an entry more: 512 entries of 8 ways, the set a free value, for data; 64 entries, fully associative,
for instructions. -/
def Core.keepEntry (k : Core) (pick : Nat) (fetch : Bool) (e : TlbEntry) : Core :=
  let rest (l : List TlbEntry) := l.filter (fun x => !(x.ctx == e.ctx && x.big == e.big && x.page == e.page))
  let set (x : TlbEntry) : Nat := Config.tlbSet x.ctx.toNat (if x.big then x.page / 32 else x.page) % 64
  if fetch then { k with itlb := e :: makeRoom 64 (fun _ => true) pick (rest k.itlb) }
  else { k with dtlb := e :: makeRoom 8 (fun x => set x == set e) pick (rest k.dtlb) }

/-- A translation through a core's data or instruction TLB (R31). -/
def State.translate (s : State) (c : Nat) (ctx : BitVec 12) (va : Nat) (fetch : Bool) :
    State × Except XFault TlbEntry :=
  match (if fetch then (s.core c).itlb else (s.core c).dtlb).find? (fun e => e.covers ctx va && !s.shotDown (dieOf c) c e) with
  | some e => (s, .ok e)
  | none =>
    let s := if fetch then s else s.countMiss c ctx va
    match s.translateDie (dieOf c) ctx va with
    | (s, .ok e) => (s.updCore c (fun k => k.keepEntry (Config.freeNat s.freeCtr (32 + c)) fetch e), .ok e)
    | r => r

/-- The permission and privilege table (R10, R15). -/
def permits (user : Bool) (k : AccessKind) (e : TlbEntry) : Bool :=
  (!user || (e.u && !(inControl e.addr && e.kind != 1))) &&
    match k with
    | .read => e.rd
    | .write | .claim => e.w
    | .atomic => e.rd && e.w
    | .fetch => e.rd && e.x && e.kind == 0

/-- The die's DD bit is set before its first store through a translation that does not show it (R16). -/
def State.markWritten (s : State) (d : Nat) (e : TlbEntry) : State :=
  if flag e.comp (4 + d) then s
  else
    let r := s.devRead e.compPa 1
    let s := r.1.devWrite e.compPa 1 (r.2 ||| 2 ^ (4 + d))
    let up (x : TlbEntry) : TlbEntry := if x.compPa = e.compPa then { x with comp := x.comp ||| wd (2 ^ (4 + d)) } else x
    let s := s.updDie d (fun x => { x with tlb := x.tlb.map up })
    { s with cores := s.cores.map (fun k => if dieOf k.1 = d then (k.1, { k.2 with dtlb := k.2.dtlb.map up }) else k) }

end Sys2Proof.Machine
end

