-- ==== Sys2Proof/Machine/Access.lean ====
section
/-! DEFINITION. One access to a global address: the checks of R33 in their order, versioned pages (R109 to R115),
formatted pages (R19 to R21), and reads and writes of the resolved place. -/

namespace Sys2Proof.Machine

/-! ## Version tables and nodes -/

/-- A version-table entry as a die caches it (R110); all zero where none has been read. -/
def State.versionWords (s : State) (d : Nat) (ctx : BitVec 12) (r : Nat) : List Word :=
  match AMap.find (s.die d).versions (ctx.toNat * 16 + r) with
  | some e => e.words
  | none => [0, 0, 0, 0]

namespace VersionEntry
def word (e : List Word) (i : Nat) : Word := e.getD i 0
def hz (e : List Word) : Nat := fld (word e 0) 48 16
def pv (e : List Word) : Nat := fld (word e 0) 32 16
def wv (e : List Word) : Nat := fld (word e 0) 16 16
def base (e : List Word) : Nat := fld (word e 1) 16 41
def rings (e : List Word) : Nat := fld (word e 2) 6 46 * 64
def pages (e : List Word) : Nat := fld (word e 3) 0 24
/-- The age of a version (R109). -/
def age (e : List Word) (v : Nat) : Nat := (wv e + 65536 - v % 65536) % 65536
/-- The age of the horizon. -/
def horizon (e : List Word) : Nat := age e (hz e)
/-- Valid and well formed (R111). -/
def ok (e : List Word) : Bool :=
  flag (word e 0) 0 && zeroBits (word e 0) 1 15 && zeroBits (word e 1) 57 7 && zeroBits (word e 1) 0 16
    && zeroBits (word e 2) 52 12 && zeroBits (word e 2) 0 6 && zeroBits (word e 3) 24 8
    && pv e == (wv e + 65535) % 65536 && decide (1 ≤ horizon e) && decide (horizon e ≤ 32768) && pages e != 0
/-- The region covers a page (R111). -/
def covers (e : List Word) (page : Nat) : Bool := decide (base e ≤ page) && decide (page < base e + pages e)
end VersionEntry

/-- A version node's eight words (R113). -/
abbrev NodeWords := List Word

namespace NodeWords
def word (n : NodeWords) (i : Nat) : Word := n.getD i 0
def rid (n : NodeWords) : Nat := fld (word n 0) 0 4
def locked (n : NodeWords) : Bool := flag (word n 0) 7
def valid (n : NodeWords) (i : Nat) : Bool := flag (word n (i + 1)) 0
def frame (n : NodeWords) (i : Nat) : Nat := fld (word n (i + 1)) 16 36 * 65536
def ver (n : NodeWords) (i : Nat) : Nat := fld (word n 5) (16 * i) 16
def mask (n : NodeWords) (i : Nat) : Nat := fld (word n 6) (16 * i) 16
def holds (n : NodeWords) (i g : Nat) : Bool := valid n i && bitsAt (mask n i) g 1 == 1
def setVer (n : NodeWords) (i v : Nat) : NodeWords := n.set 5 (setFld (word n 5) (16 * i) 16 v)
def setMask (n : NodeWords) (i m : Nat) : NodeWords := n.set 6 (setFld (word n 6) (16 * i) 16 m)
/-- The slot whose frame a version of a granule resolves to (R114): none where it is gone. -/
def resolve (n : NodeWords) (e : List Word) (g v : Nat) : Option Nat :=
  let a := if VersionEntry.age e v ≥ 32768 then 0 else VersionEntry.age e v
  if VersionEntry.horizon e ≤ a then none
  else
    (List.range 4).foldl (fun (best : Option Nat) i =>
      if holds n i g && decide (a ≤ VersionEntry.age e (ver n i)) then
        match best with
        | some b => if VersionEntry.age e (ver n i) < VersionEntry.age e (ver n b) then some i else some b
        | none => some i
      else best) none
end NodeWords

/-- A frame that a version slot or a ring may name (R50, R113). -/
def State.frameOk (s : State) (pa : Nat) : Bool :=
  decide (pa % 65536 = 0) && (s.inHbm pa || inSecond pa)

/-- A die of the package has switched already to the version that follows the one of an entry (R118). -/
def State.switched (s : State) (ctx : BitVec 12) (rid : Nat) (e : List Word) : Bool :=
  (List.range 4).any (fun d => VersionEntry.wv (s.versionWords d ctx rid) == (VersionEntry.wv e + 1) % 65536)

/-- A well-formed node (R113). Its versions have ages by the latest version published: on a die that has still to switch to it,
a slot of that version lies one version ahead of the die's own (DEDUCED, log entry 64). -/
def State.nodeOk (s : State) (ctx : BitVec 12) (e : List Word) (n : NodeWords) : Bool :=
  let h := VersionEntry.horizon e
  let aged (v : Nat) : Bool := decide (VersionEntry.age e v ≤ 32768) || (v == (VersionEntry.wv e + 1) % 65536 && s.switched ctx n.rid e)
  zeroBits (n.word 0) 8 56 && zeroBits (n.word 0) 4 3 && n.word 7 == 0
    && (List.range 4).all (fun i => zeroBits (n.word (i + 1)) 52 12 && zeroBits (n.word (i + 1)) 1 15
      && (!n.valid i || (s.frameOk (n.frame i) && aged (n.ver i))))
    && (List.range 4).all (fun i => (List.range i).all (fun j =>
      !(n.valid i && n.valid j && n.ver i == n.ver j)
        || (decide (h ≤ VersionEntry.age e (n.ver i)) && decide ((n.mask i &&& n.mask j) = 0))))
    && (List.range 16).all (fun g => (List.range 4).any (fun i => n.holds i g))

/-! ## The resolved place of an access -/

/-- A resolved access: physical address, domain and translation. -/
structure Place where
  pa  : Nat
  dom : Domain
  e   : TlbEntry
  deriving DecidableEq, Repr

/-- How an access ends before it is performed. -/
inductive AccessStop where
  /-- It traps. -/
  | trap (t : Trap)
  /-- It parks on a page under an entry of the kind. -/
  | park (kind : TokenKind) (key : Word) (va : Word)
  /-- It waits, with nothing performed, for a line of a full L2 set to be free to leave (R44). -/
  | wait
  deriving DecidableEq, Repr

/-- A trap without INFO1. -/
def trap0 (code : TrapCode) (info0 : Word) : AccessStop := .trap { code := code, info0 := info0, info1 := 0 }

/-- The fault buffer's descriptor is enabled (R343). -/
def State.fbufOn (s : State) : Bool :=
  let lg := fld (s.devWord ((fld s.plat.fbuf 6 46) * 64 + 8)).2 0 5
  decide (6 ≤ lg) && decide (lg ≤ 16)

/-- The stop of a failed translation. -/
def State.xstop (s : State) (va : Word) (x : XFault) : AccessStop :=
  match x with
  | .protection => trap0 .protection va
  | .lost pa d => .trap { code := .dataLost, info0 := wd pa, info1 := wd d }
  | .moving => .park .move (wd (fld va 16 41 * 65536)) va
  | .page => if s.fbufOn then .park .fault (wd (fld va 16 41 * 65536)) va else trap0 .pageFault va

/-- The frame of a versioned access (R111 to R116), for the version named or else WV. -/
def State.versionPlace (s : State) (d : Nat) (ctx : BitVec 12) (va : Word) (e : TlbEntry) (writes : Bool)
    (ver : Option (BitVec 16)) : State × Except AccessStop Nat :=
  let r := s.devWords e.node 8
  let n : NodeWords := r.2
  let s := r.1
  let t := s.versionWords d ctx n.rid
  let g := fld va 12 4
  if !(VersionEntry.ok t && VersionEntry.covers t (fld va 16 41) && (e.dom == .package || e.dom == .pod)) then
    (s, .error (trap0 .protection va))
  else if !s.nodeOk ctx t n then (s, .error (trap0 .protection va))
  else
    let v := match ver with
      | some v => v.toNat
      | none => VersionEntry.wv t
    match n.resolve t g v with
    | none =>
      let info := wd (v + VersionEntry.hz t * 2 ^ 16 + n.rid * 2 ^ 32)
      (s, .error (.trap { code := .versionGone, info0 := va, info1 := info }))
    | some i =>
      if writes && n.ver i != VersionEntry.wv t then
        (s, .error (.park .version (wd (fld va 16 41 * 65536)) va))
      else (s, .ok (n.frame i + va.toNat % 65536))

/-- Who makes an access: a core, or an agent of a die that has no cache of its own. -/
structure Via where
  core : Option Nat
  die  : Nat
  deriving DecidableEq, Repr

/-- An access by a core. -/
def Via.of (c : Nat) : Via := { core := some c, die := dieOf c }
/-- An access by an agent of a die. -/
def Via.dev (d : Nat) : Via := { core := none, die := d }

/-- A translation for whoever makes the access: through the core's TLB, or through the die's (R31). -/
def State.translateVia (s : State) (v : Via) (ctx : BitVec 12) (va : Nat) (fetch : Bool) :
    State × Except XFault TlbEntry :=
  match v.core with
  | some c => s.translate c ctx va fetch
  | none => s.translateDie v.die ctx va

/-- Where an element of a formatted frame lies: bit position within the frame, and its width in bits (R19). -/
def elemBits (efmt e : Nat) : Nat × Nat :=
  match efmt with
  | 0 => (32 * e, 32)
  | 1 | 2 => (16 * e, 16)
  | 7 => (4 * e, 4)
  | _ => (8 * e, 8)

/-- The scale byte of an element's block in a B4 frame (R19). -/
def scaleByte (geom e : Nat) : Nat := 8192 + e / (if geom = 1 then 16 else 32)

/-- The first byte that an access of a page other than a versioned one reaches (R19). -/
def TlbEntry.place (e : TlbEntry) (va : Nat) : Nat :=
  if e.kind = 2 then e.addr + (elemBits e.efmt (va % 65536 / 4)).1 / 8 else e.pa va

/-- The bytes that an access of `n` bytes to a page reaches at `pa`: where, and how many, and for an element of a B4 frame its
block's scale byte too (R19). -/
def TlbEntry.parts (e : TlbEntry) (va pa n : Nat) : List (Nat × Nat) :=
  if e.kind = 2 then
    let x := va % 65536 / 4
    let b := elemBits e.efmt x
    (e.addr + b.1 / 8, (b.2 + 7) / 8) :: (if e.efmt = 7 then [(e.addr + scaleByte e.geom x, 1)] else [])
  else [(pa, n)]

/-- What a read or a write of `n` bytes loses (R47, R81). A core's store of less than a word into a word that its L1 does not hold
fetches the line, so it needs the word (R42). -/
def State.lossAt (s : State) (v : Via) (k : AccessKind) (pa n : Nat) : Option Nat :=
  match k with
  | .write =>
    match v.core with
    | some c => if n < 4 ∧ (s.l1Word c (pa / 4)).isNone then s.lostAt (some c) pa n else s.deadAt pa
    | none => s.deadAt pa
  | .claim => s.deadAt pa
  | _ => s.lostAt v.core pa n

/-- The die L2 of a core has no room for a line that the access needs: it waits (R44). -/
def State.noRoom (s : State) (v : Via) (e : TlbEntry) (ps : List (Nat × Nat)) : Bool :=
  match v.core with
  | some c => !e.uncached && ps.any (fun p => !inControl p.1 && s.l2Full (dieOf c) (p.1 / 128))
  | none => false

/-- The trap of an access to lost data (R346). -/
def lostTrap (pa x : Nat) : Trap :=
  { code := .dataLost, info0 := wd (if x = 4 then pa / 128 * 128 else pa / 4096 * 4096), info1 := wd x }

/-- Checks 5 to 7 of R33 on a translated access: where it is performed, or how it stops. -/
def State.resolveEntry (s : State) (v : Via) (ctx : BitVec 12) (va : Word) (n : Nat) (k : AccessKind)
    (ver : Option (BitVec 16)) (fmt : Bool) (e : TlbEntry) : State × Except AccessStop Place :=
  if !permits (s.user ctx) k e || (k == .atomic && e.uncached) then (s, .error (trap0 .protection va))
  else if e.kind == 2 && !(fmt && n == 4) then (s, .error (trap0 .formatSize va))
  else
    let writes := k == .write || k == .atomic || k == .claim
    let r : State × Except AccessStop Nat :=
      if e.kind = 1 then s.versionPlace v.die ctx va e writes ver else (s, .ok (e.place va.toNat))
    match r with
    | (s, .error x) => (s, .error x)
    | (s, .ok pa) =>
      let ps := e.parts va.toNat pa n
      if !ps.all (fun p => s.portOk p.1) then (s, .error (trap0 .protection va))
      else if inControl pa && n != 8 then (s, .error (trap0 .protection va))
      else
        match ps.findSome? (fun p => (s.lossAt v (if e.uncached ∧ k = .write then .claim else k) p.1 p.2).map (lostTrap p.1)) with
        | some t => (s, .error (.trap t))
        | none =>
          if s.noRoom v e ps then (s, .error .wait)
          else (if k = .write then s.markWritten v.die e else s, .ok { pa := pa, dom := e.dom, e := e })

/-- The checks of R33 on one access of `n` bytes: where it is performed, or how it stops. `fmt` admits a formatted page
(an access of 4 bytes, R20); `ver` names the version that a versioned page is read at. -/
def State.resolveVia (s : State) (v : Via) (ctx : BitVec 12) (va : Word) (n : Nat) (k : AccessKind)
    (ver : Option (BitVec 16)) (fmt : Bool) : State × Except AccessStop Place :=
  if va.toNat % n ≠ 0 then (s, .error (trap0 .misaligned va))
  else if fld va 57 7 ≠ 0 then (s, .error (trap0 .protection va))
  else
    match s.translateVia v ctx va.toNat (k == .fetch) with
    | (s, .error x) => (s, .error (s.xstop va x))
    | (s, .ok e) => s.resolveEntry v ctx va n k ver fmt e

/-- The checks of R33 on an access of a fibre of core `c`. -/
def State.resolve (s : State) (c : Nat) (ctx : BitVec 12) (va : Word) (n : Nat) (k : AccessKind)
    (ver : Option (BitVec 16)) (fmt : Bool) : State × Except AccessStop Place :=
  s.resolveVia (Via.of c) ctx va n k ver fmt

/-! ## Formatted pages -/

/-- The type of an element format (R19). -/
def efmtTy : Nat → Ty
  | 1 => .f16
  | 2 => .bf16
  | 3 => .e4m3
  | 4 => .e5m2
  | 5 => .i8
  | 6 => .u8
  | 7 => .b4
  | _ => .f32

/-- One byte-sized narrow value, or an FP32 pattern, as FP32 bits (R20). -/
def narrowToF32 (t : Ty) (x : Nat) : Nat :=
  match t with
  | .f32 => x
  | .i8 => (roundInt .f32 .rne false false (if 128 ≤ x then (x : Int) - 256 else x) 0).1
  | .u8 => (roundInt .f32 .rne false false x 0).1
  | t => (cvtFF (fmtOf t) .f32 .rne false x).1

/-- An FP32 pattern encoded into a narrow format other than B4, and the flags of a fibre's store (R20). -/
def f32ToNarrow (t : Ty) (x : Nat) : Nat × BitVec 5 :=
  match t with
  | .f32 => (x, 0)
  | .i8 =>
    let r := cvtFI .f32 .rne (-128) 127 x
    (((r.1 + 256) % 256).toNat, r.2)
  | .u8 =>
    let r := cvtFI .f32 .rne 0 255 x
    (r.1.toNat, r.2)
  | t => cvtFF .f32 (fmtOf t) .rne true x

/-- An element of a formatted page read as FP32 through a byte reader (R20). -/
def fmtLoad (rd : State → Nat → Nat → State × Nat) (s : State) (p : TlbEntry) (va : Nat) : State × Nat :=
  let e := va % 65536 / 4
  let b := elemBits p.efmt e
  if p.efmt = 7 then
    let x := rd s (p.addr + b.1 / 8) 1
    let y := rd x.1 (p.addr + scaleByte p.geom e) 1
    (y.1, b4Decode y.2 (bitsAt x.2 (b.1 % 8) 4))
  else
    let x := rd s (p.addr + b.1 / 8) (b.2 / 8)
    (x.1, narrowToF32 (efmtTy p.efmt) x.2)

/-- A change of packed elements: byte address of a word, its bits, and the mask of elements written (R21, R42). -/
structure ElemWrite where
  wn   : Nat
  bits : BitVec 32
  mask : BitVec 8
  deriving DecidableEq, Repr

/-- `w` bits (a multiple of four) of value `v` at bit `b` of the frame at `pa`. -/
def elemWrite (pa b w v : Nat) : ElemWrite :=
  let word := (pa + b / 8) / 4
  let off := 8 * ((pa + b / 8) % 4) + b % 8
  { wn := word, bits := BitVec.ofNat 32 (v <<< off), mask := BitVec.ofNat 8 ((2 ^ (w / 4) - 1) <<< (off / 4)) }

/-- What a fibre's store of an FP32 pattern to an element changes, and its FPSTAT flags (R20, R187). DESIGN CHOICE, log entry 65:
a store into a B4 block that is already NaN changes no bit of it. -/
def fmtStore (rd : State → Nat → Nat → State × Nat) (s : State) (p : TlbEntry) (va v : Nat) :
    State × List ElemWrite × BitVec 5 :=
  let e := va % 65536 / 4
  let b := elemBits p.efmt e
  if p.efmt = 7 then
    let sb := p.addr + scaleByte p.geom e
    let y := rd s sb 1
    if y.2 % 64 = 63 then (y.1, [], fpIV)
    else match decodeF .f32 v with
      | .nan _ _ _ => (y.1, [elemWrite sb 0 8 (y.2 / 64 * 64 + 63)], fpIV)
      | .inf n => (y.1, [elemWrite p.addr b.1 4 (b4Saturate y.2 n)], fpOF ||| fpIX)
      | x =>
        let r := b4Encode y.2 false x
        (y.1, [elemWrite p.addr b.1 4 r.1], r.2)
  else
    let r := f32ToNarrow (efmtTy p.efmt) v
    (s, [elemWrite p.addr b.1 b.2 r.1], r.2)

/-! ## Reading and writing a place -/

/-- The latest completion time that words of an access still have (R95). -/
def State.settleParts (s : State) (c : Nat) (dom : Domain) (ps : List (Nat × Nat)) : Word :=
  (ps.flatMap (fun p => wordsOf p.1 p.2)).foldl (fun t wn => later t (s.settleOf (dieOf c) dom wn)) 0

/-- A plain or acquire read of a place by core `c`: the value and the time it is still settling to. -/
def State.readPlace (s : State) (c : Nat) (ctx : BitVec 12) (p : Place) (va n : Nat) (acq : Bool) : State × Nat × Word :=
  let rd (s : State) (pa n : Nat) : State × Nat × Word :=
    if p.e.uncached then ((s.devRead pa n).1, (s.devRead pa n).2, 0)
    else if acq then s.acquireBytes c ctx p.dom pa n
    else s.loadBytes c ctx p.dom pa n
  if p.e.kind = 2 then
    let x := fmtLoad (fun s pa n => ((rd s pa n).1, (rd s pa n).2.1)) s p.e va
    (x.1, x.2, if p.e.uncached then 0 else s.settleParts c p.dom (p.e.parts va p.pa n))
  else rd s p.pa n

/-- Elements of a formatted frame written at the home, past every cache (R21). -/
def State.devElems (s : State) (ws : List ElemWrite) : State :=
  ws.foldl (fun s w =>
    let t := (s.homeWrite .package w.wn w.bits w.mask none).1
    if w.wn / 32 ∈ t.plat.hostLines then t.hostInvalidate (w.wn / 32) else t) s

/-- A plain store to a place by core `c`, and the FPSTAT flags it sets. -/
def State.writePlace (s : State) (c : Nat) (ctx : BitVec 12) (p : Place) (va n v : Nat) : State × BitVec 5 :=
  if p.e.kind = 2 then
    let rd (s : State) (pa n : Nat) : State × Nat :=
      if p.e.uncached then s.devRead pa n else ((s.loadBytes c ctx p.dom pa n).1, (s.loadBytes c ctx p.dom pa n).2.1)
    let r := fmtStore rd s p.e va v
    (if p.e.uncached then r.1.devElems r.2.1
      else r.2.1.foldl (fun s w => s.l1StoreElems c ctx p.dom w.wn w.bits w.mask) r.1, r.2.2)
  else if p.e.uncached then (s.devWrite p.pa n v, 0)
  else ((s.l1Take c p.dom (p.pa / 128)).storeBytes c ctx p.dom p.pa n v, 0)

/-- A release's own store, performed at the point of coherence (R91): its completion time and flags. -/
def State.writePoint (s : State) (c : Nat) (ctx : BitVec 12) (p : Place) (va n v : Nat) : State × Word × BitVec 5 :=
  if p.e.kind = 2 then
    let rd (s : State) (pa n : Nat) := if p.e.uncached then s.devRead pa n else s.pointBytes c ctx p.dom pa n
    let r := fmtStore rd s p.e va v
    if p.e.uncached then (r.1.devElems r.2.1, s.gtb, r.2.2)
    else
      let w := r.2.1.foldl (fun (q : State × Word) w =>
        let x := q.1.pointWrite c ctx p.dom w.wn w.bits w.mask
        (x.1, later q.2 x.2)) (r.1, s.gtb)
      (w.1, w.2, r.2.2)
  else if p.e.uncached then
    let r := s.devWriteTc p.dom p.pa n v
    (r.1, r.2, 0)
  else
    let r := s.pointStore c ctx p.dom p.pa n v
    (r.1, r.2, 0)

/-! ## Accesses at the point of coherence -/

/-- A read at the place's point of coherence (R71, R101). -/
def State.viaRead (s : State) (v : Via) (ctx : BitVec 12) (p : Place) (n : Nat) : State × Nat :=
  match v.core with
  | some c => if p.e.uncached then s.devRead p.pa n else s.pointBytes c ctx p.dom p.pa n
  | none => (if p.e.uncached then s else s.l2Keep v.die p.dom (p.pa / 128)).devRead p.pa n

/-- An acquire read of a place (R92): a core's own dirty words of it are pushed before it is read. Its settle time (R95). -/
def State.viaAcquire (s : State) (v : Via) (ctx : BitVec 12) (p : Place) (n : Nat) : State × Nat × Word :=
  match v.core with
  | some c => if p.e.uncached then ((s.devRead p.pa n).1, (s.devRead p.pa n).2, 0) else s.acquireBytes c ctx p.dom p.pa n
  | none =>
    let r : State × Nat :=
      if p.e.uncached then s.devRead p.pa n
      else if p.dom.wide then (s.l2Keep v.die p.dom (p.pa / 128)).devRead p.pa n
      else
        -- an agent of the die reads a line below PACKAGE in the die's L2
        let s := (s.recallOwned v.die (p.pa / 128) none).l2Keep v.die p.dom (p.pa / 128)
        readBy (fun s wn => ((s.l2Read v.die ctx p.dom wn).1, (s.l2Read v.die ctx p.dom wn).2.1)) s p.pa n
    (r.1, r.2, 0)

/-- A write at the place's point of coherence, and its completion time. -/
def State.viaWrite (s : State) (v : Via) (ctx : BitVec 12) (p : Place) (n x : Nat) : State × Word :=
  let s := s.markWritten v.die p.e
  match v.core with
  | some c => if p.e.uncached then s.devWriteTc p.dom p.pa n x else s.pointStore c ctx p.dom p.pa n x
  | none => (if p.e.uncached then s else s.l2Keep v.die p.dom (p.pa / 128)).devWriteTc p.dom p.pa n x

/-- An 8-byte word of a context's memory, read as an acquire. -/
def State.wordVia (s : State) (v : Via) (ctx : BitVec 12) (va : Word) : State × Except AccessStop Word :=
  match s.resolveVia v ctx va 8 .read none false with
  | (s, .error x) => (s, .error x)
  | (s, .ok p) =>
    let r := s.viaAcquire v ctx p 8
    (r.1, .ok (wd r.2.1))

/-- `n` consecutive 8-byte words of a context's memory. -/
def State.wordsVia (s : State) (v : Via) (ctx : BitVec 12) (va : Word) : Nat → State × Except AccessStop (List Word)
  | 0 => (s, .ok [])
  | n + 1 =>
    match s.wordVia v ctx va with
    | (s, .error x) => (s, .error x)
    | (s, .ok w) =>
      match State.wordsVia s v ctx (va + 8) n with
      | (s, .error x) => (s, .error x)
      | (s, .ok ws) => (s, .ok (w :: ws))

/-! ## Accesses that are not performed yet (R85, R90) -/

/-- A POD line whose back-invalidations are in progress at this home (R92, R95). -/
def State.podBusy (s : State) (dom : Domain) (pa : Nat) : Bool :=
  dom == .pod && s.fabric.biPending.any (fun x => x.1 == pa / 128)

/-- The package's own word of a place is dirty in the core's L1: an acquire pushes it before it reads (R72, R92). -/
def State.pushOwn (s : State) (c : Nat) (p : Place) (va n : Nat) : State :=
  if p.dom = .core ∨ p.e.uncached then s
  else (s.pushWords c ((p.e.parts va p.pa n).flatMap (fun x => wordsOf x.1 x.2))).1

/-- A fibre has stored to words: each that is now dirty in its core's L1, or held in M by its die, is one that the store may be lost
with (R105). -/
def State.noteStore (s : State) (c p id : Nat) (dom : Domain) (ws : List Nat) : State :=
  let r : StoreRec := { id := id, core := c, who := .fibre c p, live := true, grid := (s.groupOf c p).grid }
  ws.foldl (fun (s : State) wn =>
    if (s.l1Word c wn).any (fun (w : CacheWord) => w.mask != 0) then
      s.updCore c (fun k => { k with owing := AMap.put k.owing wn (AMap.getD k.owing wn [] ++ [r]) })
    else if dom.wide && (s.l2Word (dieOf c) wn).any (fun (x : L2Word) => x.st == .M) then s.dieOwes (dieOf c) wn [r]
    else s) s

/-- A fibre has loaded a value: its settle mark and its pending notices (R95). -/
def State.noteLoad (s : State) (c p : Nat) (dom : Domain) (pa : Nat) (t : Word) : State :=
  let home := s.accid
  let busy := s.podBusy dom pa
  s.updFibre c p (fun f => { f with
    settle := later f.settle t,
    notices := if busy then (if home ∈ f.notices then f.notices else home :: f.notices) else f.notices })

/-- A place of global memory as an access keeps it that is performed later. -/
def Place.late (p : Place) (va : Word) : LatePlace := .memory p.pa p.dom p.e va

/-- An access that is in a segment of scratchpad, and so in its banks. -/
def ScrTarget.banked : ScrTarget → Bool
  | .window _ _ => false
  | _ => true

/-- A segment read. -/
def State.scrRead (s : State) (c g : Nat) (t : ScrTarget) (n : Nat) : Nat :=
  match t with
  | .group off => Memory.read (s.group c g).scratch off n
  | .cluster off => Memory.read (s.cluster c (s.group c g).cluster).scratch off n
  | .window _ _ => 0

/-- A segment write. -/
def State.scrWrite (s : State) (c g : Nat) (t : ScrTarget) (n v : Nat) : State :=
  match t with
  | .group off => s.updGroup c g (fun x => { x with scratch := Memory.write x.scratch off n v })
  | .cluster off => s.updCluster c (s.group c g).cluster (fun x => { x with scratch := Memory.write x.scratch off n v })
  | .window _ _ => s

/-- The place `k` bytes on. -/
def LatePlace.shift (x : LatePlace) (k : Nat) : LatePlace :=
  match x with
  | .memory pa dom e va => .memory (pa + k) dom e (va + wd k)
  | .scratch (.group off) => .scratch (.group (off + k))
  | .scratch (.cluster off) => .scratch (.cluster (off + k))
  | .scratch t => .scratch t

/-- The words of `n` bytes of scratchpad, numbered apart from those of memory. -/
def ScrTarget.wordsOf (t : ScrTarget) (n : Nat) : List Nat :=
  match t with
  | .group off => Sys2Proof.Machine.wordsOf (2 ^ 60 + off) n
  | .cluster off => Sys2Proof.Machine.wordsOf (2 ^ 61 + off) n
  | .window _ _ => []

/-- The bytes of memory that an access reaches. -/
def LateAccess.parts (a : LateAccess) : List (Nat × Nat) :=
  match a.at_ with
  | .memory pa _ e va => e.parts va.toNat pa a.n
  | .scratch _ => []

/-- The words that an access touches. -/
def LateAccess.words (a : LateAccess) : List Nat :=
  match a.at_ with
  | .memory _ _ _ _ => a.parts.flatMap (fun x => wordsOf x.1 x.2)
  | .scratch t => t.wordsOf a.n

/-- The access is a load; a store without a result. -/
def LateAccess.isLoad (a : LateAccess) : Bool := a.kind == .load || a.kind == .peerLoad
def LateAccess.isStore (a : LateAccess) : Bool := a.kind == .store || a.kind == .release || a.kind == .peerStore

/-- Two accesses touch one word. -/
def LateAccess.meets (a b : LateAccess) : Bool := a.words.any (fun w => decide (w ∈ b.words))

/-- An access that may be performed now: its lines have room in the die L2 (R44), an acquire's value has no back-invalidation in
progress (R92), and the word of an atomic can be obtained (R66, R69). -/
def State.lateOpen (s : State) (c : Nat) (a : LateAccess) : Bool :=
  match a.at_ with
  | .scratch _ => true
  | .memory pa dom e _ =>
    (e.uncached || a.parts.all (fun x => !s.l2Full (dieOf c) (x.1 / 128)))
      && !(a.acq && s.podBusy dom pa)
      && (match a.kind with
          | .aop _ _ | .cas _ => !s.atomicWaits c dom pa a.n
          | .load | .store | .release | .peerLoad | .peerStore => true)

/-- A peer access of a core to its own package is made at the home: the core's dirty words of the place go there first, and its clean
copies go (R27, R87, R92). -/
def State.atHome (s : State) (c : Nat) (p : Place) (va n : Nat) : State :=
  let ws := (p.e.parts va p.pa n).flatMap (fun x => wordsOf x.1 x.2)
  ws.foldl (fun (s : State) wn => s.dropClean c wn) (s.pushWords c ws).1

/-- A place at its home: one read. -/
def State.homeGet (s : State) (p : Place) (va : Word) (n : Nat) : State × Nat :=
  if p.e.kind = 2 then fmtLoad (fun s a n => s.devRead a n) s p.e va.toNat else s.devRead p.pa n

/-- Words, or masked elements of words, written at their home under a domain: the completion time. -/
def State.homePut (s : State) (dom : Domain) (ws : List ElemWrite) : State × Word :=
  ws.foldl (fun (r : State × Word) w =>
    let x := r.1.homeWrite dom w.wn w.bits w.mask none
    (x.1, later r.2 x.2)) (s, s.gtb)

/-- A place at its home: one write (R73). -/
def State.homeSet (s : State) (p : Place) (va : Word) (n v : Nat) : State × Word :=
  if p.e.kind = 2 then
    let r := fmtStore (fun s a n => s.devRead a n) s p.e va.toNat v
    r.1.homePut p.dom r.2.1
  else s.homePut p.dom ((wordsOf p.pa n).map (fun wn => let q := partOf p.pa n v wn; { wn := wn, bits := q.1, mask := q.2 }))

/-- Words that a core has written at their home stay among those that its releases cover (R71, R91). -/
def State.noteSentAll (s : State) (c : Nat) (dom : Domain) (ws : List Nat) : State :=
  ws.foldl (fun (s : State) wn => s.noteSent c dom wn) s

/-- A register value stands in the result of a late access. -/
def State.lateResult (s : State) (c p : Nat) (a : LateAccess) (v : Word) : State :=
  s.updFibre c p (fun f => { f with pending := f.pending.map (fun q => if a ∈ q.late then { q with regs := q.regs ++ [(a.reg, v)] } else q) })

/-- An access of a fibre is performed no more: a result that is nothing else goes with it. -/
def State.dropLate (s : State) (c p : Nat) (a : LateAccess) : State :=
  s.updFibre c p (fun f => { f with
    pending := (f.pending.map (fun q => { q with late := q.late.erase a })).filter (fun q =>
      !(q.late.isEmpty && q.flag.isNone && q.regs.isEmpty && q.preds.isEmpty && q.await.isNone && q.fp == 0)) })

/-- A load of a fibre is performed: its value stands in its result. -/
def State.performLoad (s : State) (c p : Nat) (a : LateAccess) : State :=
  let r : State × Nat := match a.at_ with
    | .memory pa dom e va =>
      let x : Place := { pa := pa, dom := dom, e := e }
      if a.kind == .peerLoad then
        let y := (s.atHome c x va.toNat a.n).homeGet x va a.n
        (y.1.noteLoad c p dom pa (y.1.settleParts c dom a.parts), y.2)
      else
        let y := s.readPlace c a.ctx x va.toNat a.n a.acq
        (y.1.noteLoad c p dom pa y.2.2, y.2.1)
    | .scratch t => (s, s.scrRead c (s.fibre c p).gslot t a.n)
  let v : Word := if a.sx then (BitVec.ofNat (8 * a.n) r.2).signExtend 64 else wd r.2
  (r.1.lateResult c p a v).dropLate c p a

/-- A store of a fibre is performed, in the L1, or for a release at the point of coherence (R90, R91). -/
def State.performStore (s : State) (c p : Nat) (a : LateAccess) : State :=
  match a.at_ with
  | .memory pa dom e va =>
    let x : Place := { pa := pa, dom := dom, e := e }
    let r : State × Word × BitVec 5 := match a.kind with
      | .release => s.writePoint c a.ctx x va.toNat a.n a.data
      | .peerStore =>
        let y := ((s.atHome c x va.toNat a.n).markWritten (dieOf c) e).homeSet x va a.n a.data
        (y.1.noteSentAll c dom a.words, y.2, 0)
      | _ =>
        let y := s.writePlace c a.ctx x va.toNat a.n a.data
        (y.1, 0, y.2)
    let t := if a.kind == .peerStore then r.1 else r.1.noteStore c p (a.stamp / 2) dom a.words
    t.updFibre c p (fun f => { f.addFp r.2.2 with pushTc := later f.pushTc r.2.1 })
  | .scratch t => s.scrWrite c (s.fibre c p).gslot t a.n a.data

/-- An atomic of a fibre is performed at its place (R69): `f` gives the new value, and `stores` says whether there is one; the old value
stands in its result where it is wanted, and a reduction may be lost with a die (R16, R95, R105). -/
def State.performRmw (s : State) (c p : Nat) (a : LateAccess) (f : Nat → Nat) (stores : Nat → Bool) (old : Bool) : State :=
  match a.at_ with
  | .memory pa dom e _ =>
    let s := s.noteLoad c p dom pa (s.settleParts c dom [(pa, a.n)])
    let r := s.atomicBytes c a.ctx dom pa a.n f
    let t := if stores r.2.1 then r.1.markWritten (dieOf c) e else r.1
    let t := if !old && stores r.2.1 then t.noteStore c p (a.stamp / 2) dom (wordsOf pa a.n) else t
    let t := t.updFibre c p (fun x => { x with pushTc := later x.pushTc r.2.2 })
    if old then t.lateResult c p a (wd r.2.1) else t
  | .scratch t =>
    let m := s.scrRead c (s.fibre c p).gslot t a.n
    let u := s.scrWrite c (s.fibre c p).gslot t a.n (f m)
    if old then u.lateResult c p a (wd m) else u

/-- One access is performed. -/
def State.performOne (s : State) (c p : Nat) (a : LateAccess) : State :=
  match a.kind with
  | .load | .peerLoad => s.performLoad c p a
  | .store | .release | .peerStore => (s.performStore c p a).dropLate c p a
  | .aop op old => (s.performRmw c p a (fun m => aopVal a.n op m a.data) (fun _ => true) old).dropLate c p a
  | .cas new => (s.performRmw c p a (casVal a.n a.data new) (casStores a.n a.data) true).dropLate c p a

/-- The accesses that lower lanes of an instruction have still to perform on words of a list: a byte keeps what the highest lane stores,
and atomics of one word are applied in the order of the lanes (R85). -/
def State.lowerLanes (s : State) (c p stamp : Nat) (ws : List Nat) : List (Nat × LateAccess) :=
  ((s.core c).fibres.filter (fun (x : Nat × Fibre) => decide (x.1 < p))).flatMap (fun (x : Nat × Fibre) =>
    x.2.pending.flatMap (fun q => (q.late.filter (fun (a : LateAccess) =>
      !a.isLoad && a.stamp / 2 == stamp && a.words.any (fun w => decide (w ∈ ws)))).map (fun a => (x.1, a))))

/-- Those accesses are performed. -/
def State.lanesFirst (s : State) (c p stamp : Nat) (ws : List Nat) : State :=
  (s.lowerLanes c p stamp ws).foldl (fun (s : State) x => s.performOne c x.1 x.2) s

/-- One access is performed, after those of lower lanes that go before it. -/
def State.performLate (s : State) (c p : Nat) (a : LateAccess) : State :=
  (if a.isLoad then s else s.lanesFirst c p (a.stamp / 2) a.words).performOne c p a

/-- The accesses of a fibre that are still to perform. -/
def Fibre.lates (f : Fibre) : List LateAccess := f.pending.flatMap (fun q => q.late)

/-- Loads that a fibre has performed early go, of those that a test takes: the words that they stand for come after. -/
def State.dropEarly (s : State) (c p : Nat) (gone : EarlyLoad → Bool) : State :=
  if (s.fibre c p).early.any gone then s.updFibre c p (fun f => { f with early := f.early.filter (fun e => !gone e) }) else s

/-- No load that a fibre has performed early is used any more (R90). -/
def State.noEarly (s : State) (c p : Nat) : State := s.dropEarly c p (fun _ => true)

/-- Every access that a fibre has issued is performed (R90). -/
def State.settleIssued (s : State) (c p : Nat) : State :=
  (s.fibre c p).lates.foldl (fun (s : State) a => if a ∈ (s.fibre c p).lates then s.performLate c p a else s) s

/-- A store to a formatted page: the word it encodes may set flags of the fibre (R20, R187). -/
def LateAccess.formatted (a : LateAccess) : Bool :=
  a.isStore && match a.at_ with
    | .memory _ _ e _ => e.kind == 2
    | .scratch _ => false

/-- The stores of a fibre that may set its flags are performed: a store is no long-latency instruction, so a later read of FPSTAT has
its flags (R190, R263). -/
def State.settleFlags (s : State) (c p : Nat) : State :=
  (s.fibre c p).lates.foldl (fun (s : State) a =>
    if a ∈ (s.fibre c p).lates ∧ a.formatted = true then s.performLate c p a else s) s

/-- Every access of a fibre is performed, and none of what follows is (R90). -/
def State.settleFibre (s : State) (c p : Nat) : State := (s.settleIssued c p).noEarly c p

/-- The loads and atomics of a fibre are performed, and none of what follows is (R90). -/
def State.settleLoads (s : State) (c p : Nat) : State :=
  (s.fibre c p).lates.foldl (fun (s : State) a => if a.isStore || decide (a ∉ (s.fibre c p).lates) then s else s.performLate c p a) (s.noEarly c p)

/-- The accesses of a fibre to words of a list are performed, and none of those that follow: accesses of one fibre to one address keep
program order (R87). -/
def State.settleWords (s : State) (c p : Nat) (ws : List Nat) : State :=
  (s.fibre c p).lates.foldl (fun (s : State) a =>
    if a ∈ (s.fibre c p).lates ∧ a.words.any (fun w => decide (w ∈ ws)) then s.performLate c p a else s)
    (s.dropEarly c p (fun e => (wordsOf e.pa e.n).any (fun w => decide (w ∈ ws))))

/-- The accesses of a fibre to words of physical addresses are performed. -/
def State.settleAt (s : State) (c p : Nat) (ps : List (Nat × Nat)) : State := s.settleWords c p (ps.flatMap (fun x => wordsOf x.1 x.2))

/-- The accesses of a fibre to `n` bytes of scratchpad are performed (R24). -/
def State.settleScr (s : State) (c p : Nat) (t : ScrTarget) (n : Nat) : State := s.settleWords c p (t.wordsOf n)

/-- What comes before a load of a fibre: its accesses to the same words, and for an acquire the push of its core's dirty ones; nothing
performed before an acquire stands for a load after it (R72, R87, R90, R92). -/
def State.beforeLoad (s : State) (c p : Nat) (x : Place) (va n : Nat) (acq : Bool) : State :=
  let s := s.settleAt c p (x.e.parts va x.pa n)
  if acq then (s.noEarly c p).pushOwn c x va n else s

/-- Every access of every fibre is performed: before a step that takes a translation or a frame away (R36, R50). -/
def State.settleAll (s : State) : State :=
  s.cores.foldl (fun (s : State) (k : Nat × Core) => k.2.fibres.foldl (fun (s : State) (x : Nat × Fibre) =>
    if x.2.lates.isEmpty && x.2.early.isEmpty then s else s.settleFibre k.1 x.1) s) s

/-- Every access that is still to perform may be performed now. -/
def State.allOpen (s : State) : Bool :=
  s.cores.all (fun (k : Nat × Core) => k.2.fibres.all (fun (x : Nat × Fibre) => x.2.lates.all (fun a => s.lateOpen k.1 a)))

/-! ## Loads that are performed ahead of the words before them (R90) -/

/-- The core of a fibre performs a load, or an acquire, that the fibre has not reached: of 1 to 8 bytes of ordinary memory, at a free
address. It takes no line of the L1 from another (R41), has no effect where the load would stop, and none where an access of the fibre to its words, or an acquire, is still to
perform. -/
def State.loadEarly (s : State) (c p k : Nat) : State :=
  let n := 2 ^ (k % 4)
  let acq := k / 4 % 2 == 1
  let va := wd (k / 8 * n)
  match s.resolve c (s.ctxOf c p) va n .read none false with
  | (_, .error _) => s
  | (t, .ok x) =>
    if inControl x.pa || x.e.uncached || (s.l1Line c (x.pa / 128)).isNone && (s.l1Victim c (x.pa / 128)).isSome || acq && t.podBusy x.dom x.pa
        || (s.fibre c p).lates.any (fun a => a.acq || a.words.any (fun w => decide (w ∈ wordsOf x.pa n))) then s
    else
      let r := t.readPlace c (s.ctxOf c p) x va.toNat n acq
      (r.1.noteLoad c p x.dom x.pa r.2.2).updFibre c p (fun f => { f with
        early := f.early ++ [{ va := va, n := n, acq := acq, pa := x.pa, dom := x.dom, value := r.2.1 }] })

/-- A load that a fibre now reaches has been performed early: its value. What was performed before an acquire stands for nothing after
it (R90). -/
def State.takeEarly (s : State) (c p : Nat) (x : Place) (va : Word) (n : Nat) (acq : Bool) : Option (State × Nat) :=
  match (s.fibre c p).early.find? (fun e => e.va == va && e.n == n && e.acq == acq && e.pa == x.pa) with
  | none => none
  | some e =>
    some (s.updFibre c p (fun f => { f with
      early := if acq then f.early.drop (f.early.idxOf e + 1) else f.early.erase e }), e.value)

/-! ## Device control registers reached by a fibre -/

/-- An access that reaches the device control block instead of memory (R386). -/
def Place.control (p : Place) : Bool := inControl p.pa

end Sys2Proof.Machine
end

