-- ==== Sys2Proof/Machine/Flags.lean ====
section
/-! DEFINITION. FPSTAT and the completion-flag counters of one fibre: the flags of approximate functions (R188, R189),
the counting of R150. -/

namespace Sys2Proof.Machine

/-- A completion flag counted up at issue (R150). -/
def Fibre.countUp (f : Fibre) (i : Option (Fin 12)) : Fibre :=
  match i with
  | some k => { f with flags := f.flags.set k.val (f.flagCount k.val + 1) }
  | none => f

/-- A completion flag counted down when a result lands (R150). -/
def Fibre.countDown (f : Fibre) (i : Option (Fin 12)) : Fibre :=
  match i with
  | some k => { f with flags := f.flags.set k.val (f.flagCount k.val - 1) }
  | none => f

/-- Every flag named in a WAIT mask is zero (R150). -/
def Fibre.meets (f : Fibre) (wait : BitVec 12) : Bool :=
  (List.range 12).all (fun i => !wait.getLsbD i || f.flagCount i == 0)

/-- Every completion counter is zero (R154). -/
def Fibre.quiet (f : Fibre) : Bool := f.flags.all (· == 0)

/-- FPSTAT as RDSR reads it (R189). -/
def Fibre.fpWord (f : Fibre) : Word := f.fpstat.setWidth 64

/-- UF of an approximate function (R188): the input is finite and not zero, and the result's magnitude is below
2^−126. -/
def approxUF (x r : Nat) : BitVec 5 :=
  match decodeF .f32 x with
  | .fin _ _ _ => if bitsAt r 23 8 = 0 then fpUF else 0
  | _ => 0

end Sys2Proof.Machine
end

