-- ==== Sys2Proof/Machine/Ops.lean ====
section
/-! DEFINITION. The operations that instructions and steps share: fetching a word, parking a fibre, taking a trap and
resuming from one, entering a block, barriers, rendezvous, and the end of a fibre (chapters 06 and 14). Bytes and
registers are read and written by the operations of Machine/Base.lean. -/

namespace Sys2Proof.Machine

/-! ## Lists of places -/

/-- A place added to a rising list. -/
def insertPlace : List Nat → Nat → List Nat
  | [], p => [p]
  | q :: qs, p => if p < q then p :: q :: qs else if p = q then q :: qs else q :: insertPlace qs p

/-! ## Instruction fetch (R55) -/

/-- A line of code as a fill of an instruction cache reads it: from the die L2, which obtains what lies above DIE from its point of
coherence. -/
def State.codeLine (s : State) (c : Nat) (ctx : BitVec 12) (dom : Domain) (line : Nat) : State × List Word :=
  let d := dieOf c
  let rd (s : State) (wn : Nat) : State × BitVec 32 :=
    let s := if dom.wide ∧ homeOf wn ≠ d then s.forgetClean d wn else s
    ((s.l2Read d ctx dom wn).1, (s.l2Read d ctx dom wn).2.1)
  (List.range 16).foldr (fun i (k : State × List Word) =>
    let x := readBy rd k.1 (128 * line + 8 * i) 8
    (x.1, wd x.2 :: k.2)) (if dom.wide then s.l2Hold d dom line else (s.recallOwned d line none).l2Hold d dom line, [])

/-- An instruction cache with a line more: 128 KiB in 8 ways. Which set a line falls in and which line of a full set leaves are
free values. -/
def Core.keepCode (k : Core) (pick line : Nat) (ws : List Word) : Core :=
  let mine := k.icache.filter (fun (x : Nat × List Word) => Config.icacheSet x.1 % 128 == Config.icacheSet line % 128)
  let rest := if mine.length < 8 then k.icache
    else match mine[pick % mine.length]? with
      | some v => AMap.drop k.icache v.1
      | none => k.icache
  { k with icache := AMap.put rest line ws }

/-- A code word through the core's instruction cache. A line of which a word is poisoned is not kept (R47). -/
def State.fetchWord (s : State) (c : Nat) (ctx : BitVec 12) (pc : Nat) : State × Except AccessStop Word :=
  match s.resolve c ctx (wd (pc / 8 * 8)) 8 .fetch none false with
  | (s, .error x) => (s, .error x)
  | (s, .ok p) =>
    let line := p.pa / 128
    match AMap.find (s.core c).icache line with
    | some ws => (s, .ok (ws.getD (p.pa / 8 % 16) 0))
    | none =>
      let bad := (List.range 32).any (fun i => s.poisonWord (dieOf c) (32 * line + i))
      let r := s.codeLine c ctx p.dom line
      (if bad then r.1 else r.1.updCore c (fun k => k.keepCode (Config.freeNat s.freeCtr (1024 + c)) line r.2),
        .ok (r.2.getD (p.pa / 8 % 16) 0))

/-! ## Leaving a ferry, an entry and the holding list -/

/-- A fibre leaves every ferry; a ferry without lanes is gone. -/
def State.leaveFerry (s : State) (c p : Nat) : State :=
  s.updCore c (fun k => { k with
  ferries :=
    (k.ferries.map (fun f => (f.1, { f.2 with lanes := f.2.lanes.filter (· != p) }))).filter (fun f => !f.2.lanes.isEmpty) })

/-- A core lies in the scope of a PRE_CTL operation: package, die or core (R169). DESIGN CHOICE, log entry 80: R169 gives CORE the values 0 to
159 and no fate to others; they name the core of number 160 DIE + CORE all the same. -/
def PreOp.covers (o : PreOp) (c : Nat) : Bool :=
  match o.scope with
  | 0 => true
  | 1 => dieOf c == o.die
  | _ => c == 160 * o.die + o.core

/-- A SAVE in progress stops selection in its scope, a RESTORE that of the whole context (R170, R172). -/
def State.preHolds (s : State) (c : Nat) (ctx : BitVec 12) : Bool :=
  match s.preOp with
  | some o => o.ctx == ctx && (o.op == 2 || o.covers c)
  | none => false

/-- A RESTORE of a context is in progress: no fibre of it runs (R172). -/
def State.restoring (s : State) (ctx : BitVec 12) : Bool := s.preOp.any (fun o => o.ctx == ctx && o.op == 2)

/-- A fibre that waits in an entry is ready (R136): it waits for nothing, its context runs, and a restored fibre's write-backs
have settled (R108). -/
def State.isReady (s : State) (c p : Nat) : Bool :=
  let f := s.fibre c p
  s.hasFibre c p && f.isLive && f.waitk == .none && !s.preHolds c (s.groupOf c p).ctx
    && (f.holdTill == 0 || decide (f.holdTill.toNat < s.gtb.toNat))

/-- The ready fibres of an entry. -/
def State.readyOf (s : State) (c : Nat) (e : BlockEntry) : List Nat := e.wvec.filter (fun p => s.isReady c p)

/-- An entry that has stopped being eligible has AGE 0 (R138). -/
def State.restAges (s : State) (c : Nat) : State :=
  s.updCore c (fun k => { k with table := k.table.map (fun e => if (s.readyOf c e.2).isEmpty then (e.1, { e.2 with age := 0 }) else e) })

/-- A fibre leaves the block table and the holding list; an entry without fibres is free (R134), and one without a ready fibre
is no longer eligible (R138). -/
def State.leaveTable (s : State) (c p : Nat) : State :=
  (s.updCore c (fun k => { k with
    table := (k.table.filter (fun e => e.2.wvec != [p])).map (fun e => (e.1, { e.2 with wvec := e.2.wvec.filter (· != p) })),
    holding := k.holding.filter (fun h => h.place != p) })).restAges c

/-- SETA and SETB of the clause that the fibre's ferry is in (R154). -/
def State.clauseSets (s : State) (c p : Nat) : Option (Fin 12) × Option (Fin 12) :=
  match (s.core c).ferries.find? (fun f => decide (p ∈ f.2.lanes)) with
  | some f => match f.2.clause with
    | some k => (k.setA, k.setB)
    | none => (none, none)
  | none => (s.fibre c p).sets

/-- Whether the fibre's ferry runs a Q block; a ferry from a resumption entry runs on in the block its fibres parked in. -/
def State.inQuadBlock (s : State) (c p : Nat) : Bool :=
  match (s.core c).ferries.find? (fun f => decide (p ∈ f.2.lanes)) with
  | some f => if f.2.rs then (s.fibre c p).blockQ else f.2.q
  | none => (s.fibre c p).blockQ

/-- A pending result of a fibre lands (R150): registers, predicates, FPSTAT and the flag. -/
def Fibre.land (f : Fibre) (i : Nat) (r : Pending) : Fibre :=
  let f := r.regs.foldl (fun (f : Fibre) w => f.write w.1 w.2) f
  let f := r.preds.foldl (fun (f : Fibre) w => f.setPred w.1 w.2) f
  ({ f.addFp r.fp with pending := f.pending.eraseIdx i }).countDown r.flag

/-- The results of arithmetic units land: a fibre that parks waits for them (R234, R237). -/
def Fibre.landUnits (f : Fibre) : Fibre :=
  f.pending.foldl (fun (f : Fibre) r => if r.unit then f.land (f.pending.idxOf r) r else f) f

/-- A fibre leaves its ferry or entry to wait at `pc`: its accesses are performed, every result reaches the banks and its fetched
words go (R57, R149, R154). -/
def State.park (s : State) (c p : Nat) (pc : BitVec 48) (kind : WaitKind) (token : Nat) : State :=
  let s := (s.settleFibre c p).updFibre c p (fun f => f.landUnits)
  let sets := s.clauseSets c p
  let q := s.inQuadBlock c p
  let s := s.updFibre c p (fun f => { f with
    pc := pc, waitk := kind, barn := 0, token := token, trans := [], view := [],
    resumed := false, sets := sets, blockQ := q, maint := if kind = .token then f.maint else none })
  (s.leaveFerry c p).leaveTable c p

/-! ## Trap records (R345, R346) -/

/-- The code byte of a trap (R346). -/
def TrapCode.num : TrapCode → Nat
  | .illegalOp => 0x01 | .illegalPair => 0x02 | .illegalTarget => 0x03 | .misaligned => 0x04 | .pageFault => 0x05
  | .protection => 0x06 | .versionGone => 0x07 | .versionWindow => 0x08 | .formatSize => 0x09
  | .memExhausted => 0x0A | .dataLost => 0x0B | .peerLost => 0x0C | .barTimeout => 0x0D | .quadDiverged => 0x0E
  | .nestDepth => 0x0F | .slotFault => 0x10 | .queueFault => 0x11 | .bkpt => 0x12 | .swtrap => 0x13 | .priv => 0x14
  | .window => 0x15 | .rasterLinkLost => 0x16 | .watchdog => 0x18

/-- The eight words of a trap record. `spc` is the stream's PC for a trap that the matrix stream raised. -/
def State.trapWords (s : State) (c : Nat) (f : Fibre) (pc : BitVec 48) (t : Trap) (ended : Bool)
    (spc : Option (BitVec 48)) : List Word :=
  let g := s.group c f.gslot
  let cc := isControl c
  let gridId := if cc then 0xFFFFFFFF else g.grid % 2 ^ 32
  let index := if cc then c - 640 else g.index % 2 ^ 32
  let core := if cc then (c - 640) % 16 else c % 160
  [ wd (gridId * 2 ^ 32 + g.ctx.toNat * 2 ^ 8 + t.code.num),
    wd ((if ended then 2 ^ 63 else 0) + (if spc.isSome then 2 ^ 62 else 0) + f.lane % 64 * 2 ^ 56
        + (if cc then 2 ^ 55 else 0) + (if ended then 0 else pc.toNat)),
    wd (index * 2 ^ 32 + core * 2 ^ 24 + dieOf c * 2 ^ 22 + s.accid * 2 ^ 10),
    wd (match spc with
        | some x => x.toNat
        | none => 0),
    t.info0, t.info1, s.gtb, 0 ]

/-- TAKING A TRAP (R154, R345): the fibre leaves its ferry with WAITK 110 and its PC at `pc`, its results reach the
banks, and its record goes to the trap queue of its context. Every trap of a fibre or thread goes through here. -/
def State.takeTrapAs (s : State) (c p : Nat) (pc : BitVec 48) (t : Trap) (spc : Option (BitVec 48)) : State :=
  let f := s.fibre c p
  let words := s.trapWords c f pc t false spc
  let s := s.park c p pc .trap 0
  { s with trapPushes := s.trapPushes ++ [{ ctx := (s.group c f.gslot).ctx, words := words }] }

def State.takeTrap (s : State) (c p : Nat) (pc : BitVec 48) (t : Trap) : State := s.takeTrapAs c p pc t none

/-! ## The wait table (R338 to R340) -/

/-- A fault record (R340). -/
def State.faultWords (s : State) (d token : Nat) (ctx : BitVec 12) (cause : FaultCause) (va : Word) (rid : Nat)
    (eng : Bool) (k : AccessKind) (pc : Nat) : List Word :=
  let causeNum := match cause with
    | .notPresent => 0
    | .poolEmpty => 1
    | .nodeFull => 2
  let read := match k with
    | .read | .atomic => 1
    | _ => 0
  let write := match k with
    | .write | .atomic => 2
    | _ => 0
  let fetch := match k with
    | .fetch => 4
    | _ => 0
  [ wd (1 + ctx.toNat * 2 ^ 8 + causeNum * 2 ^ 20 + s.accid * 2 ^ 24 + d * 2 ^ 34 + token * 2 ^ 40),
    wd (read + write + fetch + (if eng then 8 else 0) + rid * 2 ^ 8 + fld va 12 4 * 2 ^ 12 + fld va 16 41 * 2 ^ 16),
    wd pc, s.gtb ]

/-- The lowest free index of a die's wait table. -/
def freeWait (w : AMap WaitEntry) : Option Nat :=
  (List.range (w.length + 1)).find? (fun i => (AMap.find w i).isNone && decide (i < Config.waitEntries))

/-- A write that raised a version fault is still to be performed: its fibre is parked or resumed at that word, or runs it again; its
command has that element to retry; its window has performed nothing since (R118). -/
def State.stillOwes (s : State) (o : OwedWrite) : Bool :=
  match o.who with
  | .fibre c p =>
    let f := s.fibre c p
    s.hasFibre c p && f.isLive && ((f.waitk == .token || f.resumed) && f.pc.toNat == o.mark
      || (s.core c).ferries.any (fun (x : Nat × Ferry) => decide (p ∈ x.2.lanes) && x.2.pc.toNat == o.mark))
  | .command c g id => (s.group c g).queues.any (fun q => q.any (fun (y : Command) => y.id == id && y.retry.isSome))
  | .peer w => (AMap.find s.fabric.recv w).any (fun x => x.n.toNat == o.mark)
  | .trapPush ctx => s.trapPushes.any (fun x => x.ctx == ctx)
  | .ended c g _ => s.subs.any (fun x => x.issuer.1 == c && x.issuer.2.1 == g)
  | .stream _ _ | .admission _ | .saved _ _ _ => false

/-- The region that a page's node names (R113). -/
def State.pageRid (s : State) (d : Nat) (ctx : BitVec 12) (page : Nat) : Nat :=
  match (s.translateDie d ctx (65536 * page)).2 with
  | .ok e => NodeWords.rid (s.devWords e.node 8).2
  | .error _ => 0

/-- The write version of a page's region, as a die holds it (R110). -/
def State.pageWv (s : State) (d : Nat) (ctx : BitVec 12) (page : Nat) : Nat :=
  VersionEntry.wv (s.versionWords d ctx (s.pageRid d ctx page))

/-- A fibre that parks has performed what its earlier version faults left to do, unless it runs the word at which it was resumed. -/
def State.dropOwed (s : State) (w : Waiter) : State :=
  match w with
  | .fibre c p =>
    if (s.core c).ferries.any (fun (x : Nat × Ferry) => decide (p ∈ x.2.lanes) && x.2.rs && x.2.pos == 0) then s
    else { s with owed := s.owed.filter (fun o => o.who != w) }
  | _ => s

/-- A version fault's write is owed (R118). -/
def State.owe (s : State) (d : Nat) (ctx : BitVec 12) (page : Nat) (w : Waiter) (pc : Nat) : State :=
  let mark := match w with
    | .peer n => match AMap.find s.fabric.recv n with
      | some x => x.n.toNat
      | none => 0
    | _ => pc
  { s with owed := s.owed.filter (fun o => s.stillOwes o) ++
    [{ ctx := ctx, page := page, rid := s.pageRid d ctx page, wv := s.pageWv d ctx page, who := w, mark := mark }] }

/-- A waiter joins the entry of a kind, context and key on a die, or allocates one (R338); a new fault entry writes a
record (R339, R340). None where every entry is in use. -/
def State.joinWait (s : State) (d : Nat) (kind : TokenKind) (ctx : BitVec 12) (key va : Word) (w : Waiter)
    (eng : Bool) (k : AccessKind) (pc : Nat) : Option (State × Nat) :=
  let page := fld key 16 41
  let s := s.dropOwed w
  let owing (s : State) : State := if kind = .version then s.owe d ctx page w pc else s
  match (s.die d).wait.find? (fun e => e.2.kind == kind && e.2.ctx == ctx && e.2.key == key) with
  | some e =>
    some ((owing s).updDie d (fun x => { x with wait := AMap.put x.wait e.1 { e.2 with
      waiters := e.2.waiters ++ [w], pops := e.2.pops || k == .read, pushes := e.2.pushes || k == .write } }), e.1)
  | none =>
    match freeWait (s.die d).wait with
    | none => none
    | some i =>
      let e : WaitEntry := { kind := kind, ctx := ctx, key := key, waiters := [w], time := s.gtb, cause := .notPresent,
                             gran := fld va 12 4, till := none, leaf := none,
                             rid := if kind = .version then s.pageRid d ctx page else 0,
                             wv := if kind = .version then s.pageWv d ctx page else 0, slot := none, freed := [], rmw := k == .atomic, eng := eng, pc := pc,
                             pops := k == .read, pushes := k == .write }
      let s := (owing s).updDie d (fun x => { x with wait := AMap.put x.wait i e })
      if kind = .fault then
        some ({ s with records2 := s.records2 ++ [s.faultWords d i ctx .notPresent va 0 eng k pc] }, i)
      else some (s, i)

/-- A lane's access stops: the fibre traps, or parks under a token with its PC at `pc`. None where no wait-table entry
is free: the access stalls (R338). -/
def State.stopFibre (s : State) (c p : Nat) (pc : BitVec 48) (x : AccessStop) (k : AccessKind) : Option State :=
  match x with
  | .wait => none
  | .trap t => some (s.takeTrap c p pc t)
  | .park kind key va =>
    match s.joinWait (dieOf c) kind (s.ctxOf c p) key va (.fibre c p) false k pc.toNat with
    | none => none
    | some (s, i) => some (s.park c p pc .token i)

/-! ## Entering a block (R134, R142) -/

/-- The block-table entry at a key. -/
def Core.entryAt (k : Core) (ctx : BitVec 12) (addr : BitVec 48) (rs : Bool) : Option (Nat × BlockEntry) :=
  k.table.find? (fun e => e.2.ctx == ctx && e.2.addr == addr && e.2.rs == rs)

/-- The entry that a fibre waits in. -/
def Core.entryOf (k : Core) (p : Nat) : Option (Nat × BlockEntry) := k.table.find? (fun e => decide (p ∈ e.2.wvec))

/-- The lowest free entry. -/
def Core.freeEntry (k : Core) : Option Nat :=
  (List.range (k.table.length + 1)).find? (fun i => (AMap.find k.table i).isNone && decide (i < Config.blockEntries))

/-- The places of a place's quad. -/
def quadOf (p : Nat) : List Nat := (List.range 4).map (fun i => p / 4 * 4 + i)

/-- Members of a quad that hold a fibre of the group. -/
def State.quadMembers (s : State) (c p : Nat) : List Nat :=
  (quadOf p).filter (fun q => s.hasFibre c q && (s.fibre c q).gslot == (s.fibre c p).gslot)

/-- A real member of the quad of `p` lives. -/
def State.quadReal (s : State) (c p : Nat) : Bool :=
  (s.quadMembers c p).any (fun q => (s.fibre c q).isLive && !(s.fibre c q).helper)

/-- A fibre waits at a Q block with WAITK 100. -/
def State.atRendezvous (s : State) (c q : Nat) : Bool :=
  (s.fibre c q).waitk == .rendezvous && (s.fibre c q).isLive

/-- A fibre that waits for nothing takes a trap that is due at its block boundary (R285, R305, R350), or is ready. -/
def State.takeDue (s : State) (c p : Nat) : State :=
  let f := s.fibre c p
  match f.due with
  | t :: ts => (s.updFibre c p (fun f => { f with due := ts, waitk := .none, barn := 0 })).takeTrapAs c p f.pc t.1 t.2
  | [] => s.updFibre c p (fun f => { f with waitk := .none, barn := 0 })

/-- The rendezvous of a quad: complete, diverged, or still waiting (R142, R144). -/
def State.checkQuad (s : State) (c p : Nat) : State :=
  let ms := s.quadMembers c p
  let live := ms.filter (fun q => (s.fibre c q).isLive)
  let waiting := live.filter (fun q => s.atRendezvous c q)
  let at_ := waiting.headD p
  let addrs := waiting.map (fun q => (s.fibre c q).pc)
  match addrs with
  | [] => s
  | a :: _ =>
    match addrs.find? (· != a) with
    | some b =>
      -- two different Q blocks: every member waiting at either traps (R144)
      waiting.foldl (fun s q =>
        let pc := (s.fibre c q).pc
        s.takeTrap c q pc { code := .quadDiverged, info0 := wd (if pc = a then b.toNat else a.toNat), info1 := 0 }) s
    | none =>
      if waiting.length = live.length && s.quadReal c p then
        let s := ms.foldl (fun s q =>
          let f := s.fibre c q
          if f.isLive then s.takeDue c q
          else
            let s := s.updFibre c q (fun f => { f with helper := true, life := .live, pc := a, waitk := .none })
            s.updCore c (fun k => { k with
              table := k.table.map (fun e => if at_ ∈ e.2.wvec then (e.1, { e.2 with wvec := insertPlace e.2.wvec q }) else e),
              holding := match k.holding.find? (fun h => h.place == at_) with
                | some h => k.holding ++ [{ h with place := q }]
                | none => k.holding })) s
        s
      else s

/-- A fibre in an entry that waits for nothing else: a due trap is taken at the boundary (R285, R305, R350), and a Q
block of a quad group waits for the rendezvous. -/
def State.becomeReady (s : State) (c p : Nat) : State :=
  if (s.fibre c p).due.isEmpty && ((s.core c).entryOf p).any (fun e => e.2.q && !e.2.rs) && (s.groupOf c p).quads then
    (s.updFibre c p (fun f => { f with waitk := .rendezvous, barn := 0 })).checkQuad c p
  else s.takeDue c p

/-- The fibre's bit is set in an entry. A trap that is due is taken at this boundary, whatever the fibre would wait for; one that comes
back to its rendezvous may complete it (R142). -/
def State.joinEntry (s : State) (c p i : Nat) (e : BlockEntry) : State :=
  let s := s.updCore c (fun k => { k with table := AMap.put k.table i { e with wvec := insertPlace e.wvec p } })
  if (s.fibre c p).waitk = .none ∨ (s.fibre c p).due ≠ [] then s.becomeReady c p
  else if (s.fibre c p).waitk = .rendezvous then s.checkQuad c p
  else s

/-- The fibre's descriptor is appended to the holding list (R134). -/
def State.hold (s : State) (c p : Nat) (rs : Bool) : State :=
  let f := s.fibre c p
  s.updCore c (fun k => { k with holding := k.holding ++
    [{ place := p, ctx := s.ctxOf c p, addr := f.pc, rs := rs, since := k.selCount }] })

/-- Fetching the first header of a block for a fibre that waits there: the header, or how the fibre stops. -/
def State.headerAt (s : State) (c : Nat) (ctx : BitVec 12) (pc : BitVec 48) : State × Except AccessStop Header :=
  match s.fetchWord c ctx pc.toNat with
  | (s, .error x) => (s, .error x)
  | (s, .ok w) =>
    match if isHeader w && pc.toNat % 8 == 0 then some (unpackHeader w) else none with
    | some (some h) => (s, .ok h)
    | some none => (s, .ok { len := 0, wait := 0, setA := none, setB := none, e := false, q := flag w 29, yh := BitVec.ofNat 2 (fld w 27 2) })
    | none => (s, .error (.trap { code := .illegalTarget, info0 := pc.setWidth 64, info1 := 0 }))

/-- A fibre goes to the entry keyed by its context and its PC (R134); `rs` is the resumption key. -/
def State.enterFree (s : State) (c p : Nat) (rs : Bool) : State :=
  let f := s.fibre c p
  let ctx := s.ctxOf c p
  match (s.core c).entryAt ctx f.pc rs with
  | some (i, e) => s.joinEntry c p i e
  | none =>
    match (s.core c).freeEntry with
    | none => s.hold c p rs
    | some i =>
      if rs then
        s.joinEntry c p i { ctx := ctx, addr := f.pc, q := false, yh := 0, wvec := [], age := 0, cur := 0, rs := true }
      else
        match s.headerAt c ctx f.pc with
        | (s, .ok h) =>
          s.joinEntry c p i { ctx := ctx, addr := f.pc, q := h.q, yh := h.yh, wvec := [], age := 0, cur := 0, rs := false }
        | (s, .error x) =>
          let after := if f.waitk = .none then none else some (f.waitk, f.barn)
          match s.stopFibre c p f.pc x .fetch with
          | some s => s.updFibre c p (fun f => if f.waitk = .token then { f with after := after, target := true } else f)
          | none => s.hold c p rs

/-- A fibre that goes on at its PC after a park or a trap (R154): to a resumption entry where no clause header stands there. With no
wait-table entry free for a fetch that parks, it is held, and its word is read when it is taken up again. -/
def State.resumeFree (s : State) (c p : Nat) : State :=
  let f := s.fibre c p
  match s.fetchWord c (s.ctxOf c p) f.pc.toNat with
  | (s, .ok w) => s.enterFree c p !(isHeader w && f.pc.toNat % 8 == 0)
  | (s, .error x) =>
    match s.stopFibre c p f.pc x .fetch with
    | some s => s
    | none => s.hold c p true

/-- The holding list drains into entries that are free, oldest first, with every held fibre of the same key (R135). -/
def State.drainHolding (s : State) (c : Nat) : Nat → State
  | 0 => s
  | n + 1 =>
    match (s.core c).holding, (s.core c).freeEntry with
    | h :: _, some _ =>
      let same := (s.core c).holding.filter (fun x => x.ctx == h.ctx && x.addr == h.addr && x.rs == h.rs)
      let s := s.updCore c (fun k => { k with
        freeSel := k.selCount, holding := k.holding.filter (fun x => !(x.ctx == h.ctx && x.addr == h.addr && x.rs == h.rs)) })
      State.drainHolding (same.foldl (fun s x =>
        if (s.fibre c x.place).resumed && !(s.fibre c x.place).target then s.resumeFree c x.place else s.enterFree c x.place x.rs) s) c n
    | _, _ => s

/-- Entries that have become free take held fibres (HOLDING_LIST_DRAIN, R135). -/
def State.refill (s : State) (c : Nat) : State :=
  if (s.core c).holding.isEmpty then s else s.drainHolding c ((s.core c).holding.length + 1)

/-- A fibre arrives (R134): entries that were free before it came have gone to the held fibres (R135). -/
def State.enter (s : State) (c p : Nat) (rs : Bool) : State := (s.refill c).enterFree c p rs

/-- A control thread goes on at its PC: it is a one-lane ferry of its core (R214). -/
def State.enterThread (s : State) (c p : Nat) : State :=
  let f := s.fibre c p
  let clause : Option ClauseState :=
    if f.resumed && !f.target then some { known := false, left := 0, setA := f.sets.1, setB := f.sets.2, e := false } else none
  let s := s.updFibre c p (fun f => { f with waitk := .none, target := false })
  match f.due with
  | t :: ts => (s.updFibre c p (fun f => { f with due := ts })).takeTrapAs c p f.pc t.1 t.2
  | [] => s.setFerry c p { Ferry.blank with ctx := s.ctxOf c p, entry := f.pc, rs := clause.isSome, lanes := [p], pc := f.pc,
                                            clause := clause }

/-- A fibre that leaves a block, is created or is resumed goes to its entry (R134). A resumed one whose PC is no clause
header goes to a resumption entry (R154); one that parked on its way to a block goes to that block again. -/
def State.place (s : State) (c p : Nat) : State :=
  let f := s.fibre c p
  if isControl c then s.enterThread c p
  else if f.target then (s.updFibre c p (fun f => { f with target := false })).enter c p false
  else if f.resumed then (s.refill c).resumeFree c p
  else s.enter c p false

/-- THE RETURN FROM A TRAP OR A PARK (R342, R347): WAITK goes to 000 and the fibre goes on at its PC, once all its
completion counters are zero. A barrier wait that the park interrupted goes on. -/
def State.resume (s : State) (c p : Nat) : State :=
  let f := s.fibre c p
  let s := s.updFibre c p (fun f => { f with
    waitk := match f.after with
      | some (k, _) => k
      | none => .none,
    barn := match f.after with
      | some (_, n) => n
      | none => 0,
    token := 0, after := none, resumed := true, view := [] })
  if f.isLive then s.place c p else s

/-! ## Barriers (R145) -/

/-- Every waiting fibre of a completed phase becomes ready, in the same step. -/
def State.releaseWaiters (s : State) (c : Nat) (ps : List Nat) (kind : WaitKind) (n : Nat) : State :=
  ps.foldl (fun s p =>
    let f := s.fibre c p
    if f.waitk = kind && f.barn == n then s.becomeReady c p
    else if f.after = some (kind, n) then s.updFibre c p (fun f => { f with after := none })
    else s) s

/-- The phase of a group barrier completes when every live fibre has arrived in it. -/
def State.checkGroupBarrier (s : State) (c g n : Nat) : State :=
  let b := AMap.getD (s.group c g).barriers n Barrier.blank
  let live := s.liveOf c g
  if !live.isEmpty && live.all (fun p => decide (p ∈ b.arrived)) then
    let s := s.updGroup c g (fun x => { x with
    barriers :=
      AMap.put x.barriers n { phase := b.phase + 1, arrived := [], first := none } })
    s.releaseWaiters c live .groupBarrier n
  else s

/-- The live fibres of a cluster. -/
def State.liveOfCluster (s : State) (c l : Nat) : List Nat := (s.cluster c l).slots.flatMap (fun g => s.liveOf c g)

/-- The phase of the cluster barrier completes when every live fibre of the cluster has arrived in it. -/
def State.checkClusterBarrier (s : State) (c l : Nat) : State :=
  let b := (s.cluster c l).barrier
  let live := s.liveOfCluster c l
  if !live.isEmpty && live.all (fun p => decide (p ∈ b.arrived)) then
    let s := s.updCluster c l (fun x => { x with barrier := { phase := b.phase + 1, arrived := [], first := none } })
    s.releaseWaiters c live .clusterBarrier 0
  else s

/-- The phase's limit has passed (R147). -/
def Barrier.expired (b : Barrier) (now : Word) : Bool :=
  match b.first with
  | some (t, l) => l != 0 && decide (t.toNat + l.toNat ≤ now.toNat)
  | none => false

/-- An arrival in a phase; the first sets its time and the limit in force (R147). -/
def Barrier.arrive (b : Barrier) (p : Nat) (now limit : Word) : Barrier :=
  { b with arrived := insertPlace b.arrived p, first := match b.first with
      | some x => some x
      | none => some (now, limit) }

/-- A fibre leaves a phase; a phase without arrivals has no first arrival (R145, R147). -/
def Barrier.leave (b : Barrier) (p : Nat) : Barrier :=
  let a := b.arrived.filter (· != p)
  { b with arrived := a, first := if a.isEmpty then none else b.first }

def State.barLimitOf (s : State) (ctx : BitVec 12) : Word := AMap.getD s.regs.barLimit ctx.toNat 0

/-- A fibre arrives at barrier `n` of its group, and the phase may complete. -/
def State.arriveGroup (s : State) (c p n : Nat) : State :=
  let g := (s.fibre c p).gslot
  let limit := s.barLimitOf (s.ctxOf c p)
  (s.updGroup c g (fun x => { x with
  barriers :=
    AMap.put x.barriers n ((AMap.getD x.barriers n Barrier.blank).arrive p s.gtb limit) })).checkGroupBarrier c g n

/-- A fibre arrives at the barrier of its cluster. -/
def State.arriveCluster (s : State) (c p : Nat) : State :=
  let l := (s.groupOf c p).cluster
  let limit := s.barLimitOf (s.ctxOf c p)
  (s.updCluster c l (fun x => { x with barrier := x.barrier.arrive p s.gtb limit })).checkClusterBarrier c l

/-! ## The end of a fibre (R129, R143, R145) -/

/-- Every barrier of the group and of the cluster is looked at again. -/
def State.checkBarriers (s : State) (c g : Nat) : State :=
  let s := (s.group c g).barriers.foldl (fun s b => s.checkGroupBarrier c g b.1) s
  s.checkClusterBarrier c (s.group c g).cluster

/-- The ended fibre's window: free, draining while a result is pending, or kept for a helper (R129). -/
def State.retire (s : State) (c p : Nat) (kept : Bool) : State :=
  let f := s.fibre c p
  if kept then s.updFibre c p (fun f => { f with life := .kept })
  else if f.pending.isEmpty && f.quiet then s.updCore c (fun k => { k with fibres := AMap.drop k.fibres p })
  else s.updFibre c p (fun f => { f with life := .draining })

/-- Losses of a fibre that has ended go to its grid (R105, R129). -/
def State.addLosses (s : State) (gid : Nat) (f : Fibre) : State :=
  if f.lossCount = 0 then s
  else s.updGrid gid (fun g => { g with
    losts := g.losts + f.lossCount,
    lostId := match g.lostId, f.lossId with
      | some a, some b => some (min a b)
      | none, b => b
      | a, none => a })

/-- Losses of the fibre of a place go to its grid. -/
def State.passLosses (s : State) (c p : Nat) : State := s.addLosses (s.groupOf c p).grid (s.fibre c p)

/-- The place that a command or a request of an ended fibre names instead: its lane, above every place (R129). -/
def endedPlace (lane : Nat) : Nat := 4096 + lane

/-- Commands and requests of an ended fibre no longer name its place. -/
def State.detach (s : State) (c p : Nat) : State :=
  let f := s.fibre c p
  let s := s.updGroup c f.gslot (fun g => { g with
    queues := g.queues.map (fun q => q.map (fun (x : Command) => if x.place = p then { x with place := endedPlace f.lane } else x)) })
  let gone (rs : AMap (List StoreRec)) : AMap (List StoreRec) :=
    rs.map (fun (w : Nat × List StoreRec) => (w.1, w.2.map (fun r => if r.who = .fibre c p then { r with live := false } else r)))
  let s := (s.updCore c (fun k => { k with owing := gone k.owing })).updDie (dieOf c) (fun x => { x with owing := gone x.owing })
  { s with
    submitters := s.submitters.filter (fun x => x.2 != (c, f.gslot, p)),
    subs := s.subs.map (fun (x : Submission) =>
      if x.issuer.1 = c && x.issuer.2.1 == f.gslot && x.place == p then { x with place := endedPlace f.lane } else x),
    fabric := { s.fabric with
      send := s.fabric.send.map (fun (w : Nat × SendWindow) => (w.1, { w.2 with sent := w.2.sent.map (fun (r : SentRequest) =>
        if !r.value && r.waiter == .fibre c p then { r with waiter := .ended c f.gslot f.lane } else r) })) } }

/-- A fibre no longer waits in a wait-table entry; an entry in which nothing waits is free, but for one whose engine step is under way. -/
def State.leaveWait (s : State) (c p : Nat) : State :=
  if (s.die (dieOf c)).wait.all (fun (e : Nat × WaitEntry) => decide (Waiter.fibre c p ∉ e.2.waiters)) then s
  else s.updDie (dieOf c) (fun x => { x with wait := (x.wait.map (fun (e : Nat × WaitEntry) =>
      (e.1, { e.2 with waiters := e.2.waiters.filter (· != .fibre c p) }))).filter (fun (e : Nat × WaitEntry) =>
        !e.2.waiters.isEmpty || e.2.till.isSome || e.2.leaf.isSome) })

/-- One fibre ends: it leaves its ferry, entry and barrier counts. -/
def State.endOne (s : State) (c p : Nat) : State :=
  let g := (s.fibre c p).gslot
  let s := (((s.settleFibre c p).passLosses c p).detach c p).updFibre c p (fun f => { f with
    waitk := .none, barn := 0, token := 0, query := none, view := [], trans := f.trans.map (fun t => { t with inBlock := false }),
    due := [], lossCount := 0, lossId := none, target := false, after := none })
  let s := ((s.leaveFerry c p).leaveTable c p).leaveWait c p
  let s := s.updGroup c g (fun x => { x with barriers := x.barriers.map (fun b => (b.1, b.2.leave p)) })
  let s := s.updCluster c (s.group c g).cluster (fun x => { x with barrier := x.barrier.leave p })
  let s := s.updFibre c p (fun f => { f with life := .draining })
  s.retire c p ((s.group c g).quads && s.quadReal c p)

/-- EXIT's effect (R129): the fibre ends; with the last real member of a quad its helpers end too, and a barrier or a
rendezvous may complete. A control thread stops. -/
def State.endFibre (s : State) (c p : Nat) : State :=
  if isControl c then
    ((s.settleFibre c p).updFibre c p (fun f => { f with life := .stopped, waitk := .none, trans := [], view := [] })).leaveFerry c p
  else
    let g := (s.fibre c p).gslot
    let ms := s.quadMembers c p
    let s := s.endOne c p
    let s := if (s.group c g).quads && !ms.any (fun q => (s.fibre c q).isLive && !(s.fibre c q).helper && s.hasFibre c q) then
        ms.foldl (fun s q =>
          if s.hasFibre c q then (if (s.fibre c q).isLive then s.endOne c q else s.retire c q false) else s) s
      else (ms.filter (fun q => s.hasFibre c q && (s.fibre c q).isLive)).take 1 |>.foldl (fun s q => s.checkQuad c q) s
    s.checkBarriers c g

/-- A trap that a fibre takes at its next block boundary (R285, R305, R350): at once where it waits ready in an entry. -/
def State.raiseDue (s : State) (c p : Nat) (t : Trap) (spc : Option (BitVec 48)) : State :=
  let s := s.updFibre c p (fun f => { f with due := f.due ++ [(t, spc)] })
  if (s.fibre c p).waitk = .none && ((s.core c).entryOf p).isSome then s.becomeReady c p else s

/-! ## Waking (R342) -/

/-- A wait-table entry is freed. -/
def State.freeToken (s : State) (d i : Nat) : State := s.updDie d (fun x => { x with wait := AMap.drop x.wait i })

end Sys2Proof.Machine
end

