-- ==== Sys2Proof/Machine/Operands.lean ====
section
/-! DEFINITION. How an instruction word is issued: the checks of R215 that depend on the core, the context and each
fibre's window, the guards, the lanes in ascending order, the traps and parks of single lanes, and the ferry's advance;
and how a lane reads its operands and writes its results (R196 to R204). -/

/-- Bytes of an access size (R202). -/
def Sys2Proof.Sz.bytes : Sys2Proof.Sz → Nat
  | .b1 => 1 | .b2 => 2 | .b4 => 4 | .b8 => 8 | .b16 => 16

namespace Sys2Proof.Machine

/-- One lane of the ferry that issues a word. -/
structure Lane where
  c   : Nat
  p   : Nat
  n   : Nat
  pos : Nat
  pc  : BitVec 48
  deriving DecidableEq, Repr

/-- How one lane ends an instruction word. -/
inductive LaneEnd where
  /-- Done: it goes on with its ferry. -/
  | go (s : State)
  /-- It leaves for a successor block (R132). -/
  | jump (s : State) (pc : BitVec 48)
  /-- It has left the ferry by other means: ended, or waiting at an entry. -/
  | gone (s : State)
  /-- It traps, with its PC at this word. -/
  | trap (s : State) (t : Trap)
  /-- Its access stops. -/
  | stop (s : State) (x : AccessStop) (k : AccessKind)
  /-- It can make no progress: the whole ferry waits. -/
  | stall

/-- What the device checks about a word before its effect (R198, R212, R215). -/
structure Checks where
  /-- Guard negation and guard predicate. -/
  n     : Bool
  g     : Nat
  fl    : Fl
  /-- Window registers named, pair upper registers included. -/
  regs  : List Nat
  main  : Bool
  ctl   : Bool
  priv  : Bool
  term  : Bool
  /-- The word, as a trap record gives it. -/
  word  : Word
  /-- Legal only in a Q block of a quad group (R249). -/
  quad  : Bool := false
  /-- Traps PRIV in every lane of a group but lane 0 (R255). -/
  lane0 : Bool := false
  /-- First register of a block whose size the open ray query of the fibre decides (R315). -/
  block : Option Nat := none
  deriving DecidableEq, Repr

/-! ## Operands of a lane -/

/-- The fibre of a lane. -/
def Lane.fibre (l : Lane) (s : State) : Fibre := s.fibre l.c l.p
/-- The context of a lane. -/
def Lane.ctx (l : Lane) (s : State) : BitVec 12 := s.ctxOf l.c l.p
/-- Register `wk` as this word reads it (R148, R151). -/
def Lane.reg (l : Lane) (s : State) (k : BitVec 8) : Word := (l.fibre s).read (s.coin l.p) l.pos k.toNat
/-- Register `wn` named by number. -/
def Lane.regN (l : Lane) (s : State) (k : Nat) : Word := (l.fibre s).read (s.coin l.p) l.pos k
/-- Group register `gk` of the lane's group. -/
def Lane.greg (l : Lane) (s : State) (k : BitVec 8) : Word := (s.groupOf l.c l.p).greg k.toNat
/-- Predicate `pk` as this word reads it. -/
def Lane.pred (l : Lane) (s : State) (k : Nat) : Bool := (l.fibre s).readPred (s.coin l.p) k
/-- A helper lane (R143). -/
def Lane.helper (l : Lane) (s : State) : Bool := (l.fibre s).helper

/-- A result to `wk`; with T it is transient, but not on a control thread (R148, R214). -/
def Lane.put (l : Lane) (s : State) (t : Bool) (k : BitVec 8) (v : Word) : State :=
  s.updFibre l.c l.p (fun f =>
    if t && !isControl l.c then f.writeTransient (s.coin l.p) l.pos k.toNat v else f.write k.toNat v)
/-- A result that always reaches the banks. -/
def Lane.putN (l : Lane) (s : State) (k : Nat) (v : Word) : State := s.updFibre l.c l.p (fun f => f.write k v)
def Lane.putPred (l : Lane) (s : State) (k : Nat) (b : Bool) : State := s.updFibre l.c l.p (fun f => f.setPred k b)
def Lane.addFp (l : Lane) (s : State) (x : BitVec 5) : State := s.updFibre l.c l.p (fun f => f.addFp x)

/-- The completion flag that FL names in the clause of the ferry (R198). -/
def Ferry.flagOf (fy : Ferry) (fl : Fl) : Option (Fin 12) :=
  match fl, fy.clause with
  | .setA, some k => k.setA
  | .setB, some k => k.setB
  | _, _ => none

/-- A result that lands later: it counts in the flag that FL names (R150). -/
def Lane.defer (l : Lane) (s : State) (fl : Fl) (regs : List (Nat × Word)) (preds : List (Nat × Bool)) (fp : BitVec 5)
    (line : Option Nat) (await : Option (Nat × Nat × BitVec 16)) (sz : Sz) (late : List LateAccess := []) (unit : Bool := false) :
    State :=
  let k := (s.ferry l.c l.n).flagOf fl
  let x : Pending := { flag := k, regs := regs, preds := preds, fp := fp, line := line, await := await, peerSz := sz,
                       late := late, unit := unit }
  s.updFibre l.c l.p (fun f => ({ f with pending := f.pending ++ [x] } : Fibre).countUp k)

/-! ## Registers that a word names (check 6 of R215) -/

/-- A register field, and the upper register of a pair. -/
def pairRegs (pair : Bool) (k : BitVec 8) : List Nat := if pair then [k.toNat, k.toNat + 1] else [k.toNat]

/-- The first register of a list that a window has not. -/
def Fibre.missing (f : Fibre) (regs : List Nat) : Option Nat := regs.find? (fun r => !f.has r)

/-- Registers of a result block of the fibre's open query: 10 where NOTRAP opened it (R315). -/
def Fibre.queryBlock (f : Fibre) : Nat :=
  match f.query with
  | some q => if !q.ended && q.flags.getLsbD 3 then 10 else 4
  | none => 4

/-- Registers that a word names for a fibre. -/
def Fibre.named (f : Fibre) (k : Checks) : List Nat :=
  match k.block with
  | some d => k.regs ++ (List.range f.queryBlock).map (fun i => d + i)
  | none => k.regs

/-! ## Issue -/

/-- Trap every fibre of a ferry at a word (checks 1 to 5 of R215, and the structure rules of R131 and R210). -/
def State.trapFerry (s : State) (c n : Nat) (pc : BitVec 48) (t : Trap) : State :=
  (s.ferry c n).lanes.foldl (fun s p => s.takeTrap c p pc t) s

/-- The guard of a lane (R197). -/
def Lane.guard (l : Lane) (s : State) (k : Checks) : Bool := l.pred s k.g != k.n

/-- A terminator stands at the end of a clause with E = 1, and nowhere else; the clause in which a resumption ferry
began is not checked (R131, R154, R210). -/
def Ferry.structureOk (fy : Ferry) (term : Bool) : Bool :=
  match fy.clause with
  | none => true
  | some k => if k.known then term == (k.e && k.left == 1) else true

/-- The checks of R215 that trap the whole ferry, and R249's of a quad word: from a resumption entry inside a block whose first
header has Q = 0 the word is performed or traps, by a free choice. They are: 2 (core kind), 3 (FL naming 15), 5 (privilege); then structure. -/
def State.ferryTrap (s : State) (c n : Nat) (k : Checks) : Option Trap :=
  let fy := s.ferry c n
  let bad : Trap := { code := .illegalOp, info0 := k.word, info1 := 0 }
  if (if isControl c then !k.ctl else !k.main) then some bad
  else if k.fl != .none && (fy.flagOf k.fl).isNone then some bad
  else if k.priv && s.user fy.ctx then some { code := .priv, info0 := k.word, info1 := 0 }
  else if k.quad && !((if fy.rs then fy.lanes.all (fun p => (s.fibre c p).blockQ) || s.coin c 4097 else fy.q) && fy.lanes.all (fun p => (s.groupOf c p).quads)) then some bad
  else if !fy.structureOk k.term then some bad
  else none

/-- The fibre leaves its ferry for a block: what it wrote with T is then outside the forwarding window (R148). -/
def State.leaveTo (s : State) (c p : Nat) (pc : BitVec 48) : State :=
  let s := s.updFibre c p (fun f => { f with
    pc := pc, trans := f.trans.map (fun t => { t with inBlock := false }), resumed := false })
  (s.leaveFerry c p).place c p

/-- The register that a WINDOW trap gives: one of those that are missing, where several are (log entry 7). -/
def Lane.missingNumber (l : Lane) (s : State) (k : Checks) : Nat :=
  let ms := ((l.fibre s).named k).filter (fun r => !(l.fibre s).has r)
  ms.getD (Config.freeNat s.freeCtr (4096 + l.p) % ms.length) 0

/-- One lane performs the word: its own traps and parks, or its effect. None: the ferry stalls. -/
def Lane.perform (l : Lane) (k : Checks) (body : Lane → State → LaneEnd) (s : State) : Option State :=
  match (l.fibre s).missing ((l.fibre s).named k) with
  | some _ => some (s.takeTrap l.c l.p l.pc { code := .window, info0 := wd (l.missingNumber s k), info1 := 0 })
  | none =>
    if k.lane0 && (l.fibre s).lane != 0 then
      some (s.takeTrap l.c l.p l.pc { code := .priv, info0 := k.word, info1 := 0 })
    else if l.guard s k then
      match body l s with
      | .go s => some s
      | .jump s pc => some (s.leaveTo l.c l.p pc)
      | .gone s => some s
      | .trap s t => some (s.takeTrap l.c l.p l.pc t)
      | .stop s x a => s.stopFibre l.c l.p l.pc x a
      | .stall => none
    else if k.term then some (s.leaveTo l.c l.p (l.pc + 8))
    else some s

/-- A lane that an earlier lane of the word has taken out of the ferry: a helper that ended with its quad's last real member
(R143), or a fibre that a barrier's or a quad's trap took. -/
def Lane.left (l : Lane) (s : State) : Bool := !decide (l.p ∈ (s.ferry l.c l.n).lanes)

/-- The lanes of a ferry in ascending order. -/
def performLanes (k : Checks) (body : Lane → State → LaneEnd) : List Lane → State → Option State
  | [], s => some s
  | l :: ls, s =>
    if l.left s then performLanes k body ls s
    else match l.perform k body s with
      | some s => performLanes k body ls s
      | none => none

/-- After a word: the ferry goes to the next one, or ends with its terminator. -/
def State.advance (s : State) (c n : Nat) (term : Bool) : State :=
  match AMap.find (s.core c).ferries n with
  | none => s
  | some fy =>
    if term || fy.lanes.isEmpty then s.dropFerry c n
    else s.setFerry c n { fy with
      pc := fy.pc + 8, pos := fy.pos + 1,
      clause := fy.clause.map (fun k => { k with left := k.left - 1 }) }

/-- A lane whose flag would pass 63 stalls the ferry (R150). -/
def State.flagFull (s : State) (fy : Ferry) (k : Checks) (ls : List Lane) : Bool :=
  match fy.flagOf k.fl with
  | none => false
  | some i => ls.any (fun l => l.guard s k && decide (63 ≤ (l.fibre s).flagCount i.val))

/-- The lanes of a ferry. -/
def Ferry.toLanes (fy : Ferry) (c n : Nat) : List Lane :=
  fy.lanes.map (fun p => { c := c, p := p, n := n, pos := fy.pos, pc := fy.pc })

/-- Issue a full-format word of the ferry `cur`: its checks, then each lane, then the advance. Events WORDS are counted
(R333). -/
def issue (k : Checks) (body : Lane → State → LaneEnd) (s : State) : Host.Outcome State Fault Refusal :=
  match s.cur with
  | .ferry c n =>
    match AMap.find (s.core c).ferries n with
    | none => .fault .noIssuer
    | some fy =>
      let s1 := s.count c fy.ctx (fun x => { x with words := x.words + 1 })
      match s.ferryTrap c n k with
      | some t => .next (s1.trapFerry c n fy.pc t)
      | none =>
        let ls := fy.toLanes c n
        if s.flagFull fy k ls then .next s
        else match performLanes k body ls s1 with
          | some s2 => .next (s2.advance c n k.term)
          | none => .next s
  | _ => .fault .noIssuer

/-- Issue one half of a pair word (R206 to R208): its lanes at PC[2], then the other half or the next word. -/
def issueHalf (g : Nat) (regs : List Nat) (body : Lane → State → LaneEnd) (s : State) :
    Host.Outcome State Fault Refusal :=
  match s.cur with
  | .ferry c n =>
    match AMap.find (s.core c).ferries n with
    | none => .fault .noIssuer
    | some fy =>
      let k : Checks := { n := false, g := g, fl := .none, regs := regs, main := true, ctl := true, priv := false,
                          term := false, word := 0 }
      let half1 := flag (fy.pc.setWidth 64) 2
      let s1 := if half1 && fy.pc != fy.entry then s else s.count c fy.ctx (fun x => { x with words := x.words + 1 })
      match performLanes k body (fy.toLanes c n) s1 with
      | none => .next s
      | some s2 =>
        match AMap.find (s2.core c).ferries n with
        | none => .next s2
        | some fy2 =>
          if half1 then
            .next (s2.setFerry c n { fy2 with
              pc := fy2.pc + 4, pos := fy2.pos + 1,
              clause := fy2.clause.map (fun k => { k with left := k.left - 1 }) })
          else .next (s2.setFerry c n { fy2 with pc := fy2.pc + 4 })
  | _ => .fault .noIssuer

/-! ## Checks of the instruction classes -/

/-- An instruction as the word that a trap record gives. -/
def wordOf (i : Instr) : Word := (encode i).getD 0

/-- Checks of a word that runs on both kinds of core. -/
def checksOf (i : Instr) (k : Ctl) (regs : List Nat) : Checks :=
  { n := k.n, g := k.g.toNat, fl := k.fl, regs := regs, main := true, ctl := true, priv := false, term := false,
    word := wordOf i }

/-- Checks of a word that only main cores run. -/
def mainChecks (i : Instr) (k : Ctl) (regs : List Nat) : Checks := { checksOf i k regs with ctl := false }

/-- Checks of a terminator. -/
def termChecks (i : Instr) (k : Ctl) (regs : List Nat) : Checks := { checksOf i k regs with term := true }

/-- The registers D, A; D, A, B; or D, A, B, C. -/
def regsDA (d a : BitVec 8) : List Nat := [d.toNat, a.toNat]
def regsDAB (d a b : BitVec 8) : List Nat := [d.toNat, a.toNat, b.toNat]
def regsDABC (d a b c : BitVec 8) : List Nat := [d.toNat, a.toNat, b.toNat, c.toNat]

/-- A lane that computes a word from its sources and writes it to D (R223). -/
def regBody (t : Bool) (d a b c : BitVec 8) (f : Word → Word → Word → Word) (l : Lane) (s : State) : LaneEnd :=
  .go (l.put s t d (f (l.reg s a) (l.reg s b) (l.reg s c)))

/-- A lane that computes a word and FPSTAT flags from its sources (R189, R223). -/
def fpBody (t : Bool) (d a b c : BitVec 8) (f : Word → Word → Word → Word × BitVec 5) (l : Lane) (s : State) : LaneEnd :=
  let r := f (l.reg s a) (l.reg s b) (l.reg s c)
  .go (l.addFp (l.put s t d r.1) r.2)

/-- A long-latency lane: the result and its flags land later (R150, R190). -/
def laterBody (fl : Fl) (d a b c : BitVec 8) (f : Word → Word → Word → Word × BitVec 5) (l : Lane) (s : State) :
    LaneEnd :=
  let r := f (l.reg s a) (l.reg s b) (l.reg s c)
  .go (l.defer s fl [(d.toNat, r.1)] [] r.2 none none .b8 [] true)

/-! ## Values -/

/-- The low 32 bits of a register. -/
def lo32 (w : Word) : Nat := w.toNat % 2 ^ 32
/-- A 32-bit pattern as a signed number. -/
def s32 (x : Nat) : Int := if 2 ^ 31 ≤ x % 2 ^ 32 then (x % 2 ^ 32 : Nat) - 2 ^ 32 else (x % 2 ^ 32 : Nat)
/-- A word as a signed number. -/
def s64 (w : Word) : Int := w.toInt
/-- An integer modulo 2^64. -/
def ofInt (x : Int) : Word := BitVec.ofInt 64 x
/-- An integer modulo 2^32, zero-extended (R176). -/
def ofInt32 (x : Int) : Word := (BitVec.ofInt 32 x).setWidth 64
/-- The value of a register as an operand of an integer type. -/
def intOf (t : Ty) (w : Word) : Int :=
  match t with
  | .i32 => s32 w.toNat
  | .u32 => (lo32 w : Nat)
  | .i64 => s64 w
  | _ => (w.toNat : Int)
/-- An integer result written under a type: a 32-bit type zeroes the high half (R176). -/
def putInt (t : Ty) (x : Int) : Word :=
  match t with
  | .i32 | .u32 => ofInt32 x
  | _ => ofInt x
/-- The width of an integer type in bits. -/
def intWidth : Ty → Nat
  | .i32 | .u32 => 32
  | _ => 64

/-- The offset register of R202: the low 32 bits, signed or not. -/
def ext32 (os : Bool) (w : Word) : Int := if os then s32 w.toNat else (lo32 w : Nat)

/-- An address sum modulo 2^64 (R7). -/
def addrSum (base : Word) (off : Int) : Word := ofInt ((base.toNat : Int) + off)

end Sys2Proof.Machine
end

