-- ==== Sys2Proof/Machine/Alu.lean ====
section
/-! DEFINITION. The integer instructions (R226 to R234): what each computes from its source registers, and its meaning. -/

namespace Sys2Proof.Machine

/-! ## Values -/

/-- Operands at the instruction's width, unsigned. -/
def uOf (t : Ty) (w : Word) : Nat := if intWidth t = 32 then lo32 w else w.toNat
/-- An unsigned result at the instruction's width. -/
def putU (t : Ty) (x : Nat) : Word := if intWidth t = 32 then wd (x % 2 ^ 32) else wd x

def iaddVal (t : Ty) (a b _c : Word) : Word := putInt t (intOf t a + intOf t b)
def isubVal (t : Ty) (a b _c : Word) : Word := putInt t (intOf t a - intOf t b)
def imulVal (t : Ty) (a b _c : Word) : Word := putInt t (intOf t a * intOf t b)
def imulhVal (t : Ty) (a b _c : Word) : Word := putInt t (intOf t a * intOf t b / 2 ^ intWidth t)
def imadVal (t : Ty) (a b c : Word) : Word := putInt t (intOf t a * intOf t b + intOf t c)
def iminVal (t : Ty) (a b _c : Word) : Word := putInt t (if intOf t b < intOf t a then intOf t b else intOf t a)
def imaxVal (t : Ty) (a b _c : Word) : Word := putInt t (if intOf t a < intOf t b then intOf t b else intOf t a)
def iabsVal (t : Ty) (a _b _c : Word) : Word := putInt t (if intOf t a < 0 then - intOf t a else intOf t a)
def inegVal (t : Ty) (a _b _c : Word) : Word := putInt t (- intOf t a)
def andVal (t : Ty) (a b _c : Word) : Word := putU t (a &&& b).toNat
def orVal (t : Ty) (a b _c : Word) : Word := putU t (a ||| b).toNat
def xorVal (t : Ty) (a b _c : Word) : Word := putU t (a ^^^ b).toNat
def andnVal (t : Ty) (a b _c : Word) : Word := putU t (a &&& ~~~ b).toNat
def movVal (t : Ty) (a _b _c : Word) : Word := putU t a.toNat

/-- The number of one bits in the low `n` bits. -/
def onesIn (x : Nat) : Nat → Nat
  | 0 => 0
  | n + 1 => x % 2 + onesIn (x / 2) n
/-- The low `n` bits in reverse order. -/
def reverseBits (x : Nat) : Nat → Nat
  | 0 => 0
  | n + 1 => x % 2 * 2 ^ n + reverseBits (x / 2) n

def popcVal (t : Ty) (a _b _c : Word) : Word := wd (onesIn (uOf t a) (intWidth t))
def clzVal (t : Ty) (a _b _c : Word) : Word :=
  wd (if uOf t a = 0 then intWidth t else intWidth t - 1 - Nat.log2 (uOf t a))
def brevVal (t : Ty) (a _b _c : Word) : Word := wd (reverseBits (uOf t a) (intWidth t))

/-- The shift count of R227. -/
def shiftCount (t : Ty) (opx : BitVec 8) (b : Word) : Nat :=
  if opx.getLsbD 7 then opx.toNat % 64 else b.toNat % intWidth t

def shlVal (t : Ty) (n : Nat) (a : Word) : Word := putU t (uOf t a * 2 ^ n)
def shrVal (t : Ty) (n : Nat) (a : Word) : Word := putU t (uOf t a / 2 ^ n)
/-- Arithmetic right shift, whatever the signedness of the type (R227). -/
def sarVal (t : Ty) (n : Nat) (a : Word) : Word :=
  if intWidth t = 32 then ofInt32 (s32 a.toNat / 2 ^ n) else ofInt (s64 a / 2 ^ n)
/-- Rotation left, or with `right` to the right (R227). -/
def rotVal (t : Ty) (right : Bool) (n : Nat) (a : Word) : Word :=
  let w := intWidth t
  let k := if right then (w - n) % w else n % w
  putU t ((uOf t a * 2 ^ k) % 2 ^ w + uOf t a / 2 ^ (w - k))

/-- Position and length of a bit-field descriptor, cut at the width (R228). -/
def fieldAt (t : Ty) (b : Word) : Nat × Nat :=
  let wid := intWidth t
  let pos := fld b 0 6
  let len := if wid ≤ pos then 0 else fld b 8 7
  (pos, min len (wid - pos))

def bfxVal (t : Ty) (a b _c : Word) : Word :=
  let f := fieldAt t b
  let r : Int := (bitsAt (uOf t a) f.1 f.2 : Nat)
  let signed := t.signed && decide (0 < f.2) && decide (2 ^ (f.2 - 1) ≤ r)
  putInt t (if signed then r - 2 ^ f.2 else r)

def bfiVal (t : Ty) (a b c : Word) : Word :=
  let f := fieldAt t b
  let x := uOf t c
  putU t (x - bitsAt x f.1 f.2 * 2 ^ f.1 + bitsAt (uOf t a) 0 f.2 * 2 ^ f.1)

/-- The index of LEA (R229). -/
def leaVal (t : Ty) (sh : Nat) (a b _c : Word) : Word :=
  let x : Int := match t with
    | .i32 => s32 b.toNat
    | .u32 => (lo32 b : Nat)
    | _ => s64 b
  ofInt ((a.toNat : Int) + x * 2 ^ sh)

/-- A 31-bit immediate, sign-extended (R230). -/
def imm31 (x : BitVec 31) : Word := x.signExtend 64

/-- MOVHI's replacement of one 16-bit part (R230). -/
def movhiVal (imm : BitVec 31) (a : Word) : Word := setFld a (16 * (imm.toNat / 2 ^ 16 % 4)) 16 (imm.toNat % 2 ^ 16)

def saddVal (t : Ty) (a b _c : Word) : Word :=
  let lo : Int := if t.signed then -(2 ^ (intWidth t - 1)) else 0
  let hi : Int := if t.signed then 2 ^ (intWidth t - 1) - 1 else 2 ^ intWidth t - 1
  let x := intOf t a + intOf t b
  putInt t (if x < lo then lo else if hi < x then hi else x)

/-- Byte `i` of a word, signed for I8 (R232). -/
def byteOf (t : Ty) (w : Word) (i : Nat) : Int :=
  let x := fld w (8 * i) 8
  if t = .i8 ∧ 128 ≤ x then (x : Int) - 256 else x

def idot4Val (t : Ty) (a b c : Word) : Word :=
  ofInt32 ((List.range 4).foldl (fun x i => x + byteOf t a i * byteOf t b i) (lo32 c : Int))

def permbVal (a b c : Word) : Word :=
  wd ((List.range 8).foldl (fun x i =>
    let k := fld c (4 * i) 4
    x + (if k < 8 then fld a (8 * k) 8 else fld b (8 * (k - 8)) 8) * 2 ^ (8 * i)) 0)

/-- Quotient and remainder (R185, R234). -/
def idivVal (t : Ty) (a b _c : Word) : Word × BitVec 5 :=
  (if intOf t b = 0 then putInt t (-1) else putInt t ((intOf t a).tdiv (intOf t b)), 0)
def iremVal (t : Ty) (a b _c : Word) : Word × BitVec 5 :=
  (if intOf t b = 0 then putInt t (intOf t a) else putInt t ((intOf t a).tmod (intOf t b)), 0)

/-! ## Meanings -/

def execIadd (o : AluOp) (s : State) : Host.Outcome State Fault Refusal :=
  issue (checksOf (.iadd o) o.ctl (regsDAB o.d o.a o.b)) (regBody o.ctl.t o.d o.a o.b o.c (iaddVal o.ty)) s
def execIsub (o : AluOp) (s : State) : Host.Outcome State Fault Refusal :=
  issue (checksOf (.isub o) o.ctl (regsDAB o.d o.a o.b)) (regBody o.ctl.t o.d o.a o.b o.c (isubVal o.ty)) s
def execImul (o : AluOp) (s : State) : Host.Outcome State Fault Refusal :=
  issue (checksOf (.imul o) o.ctl (regsDAB o.d o.a o.b)) (regBody o.ctl.t o.d o.a o.b o.c (imulVal o.ty)) s
def execImulh (o : AluOp) (s : State) : Host.Outcome State Fault Refusal :=
  issue (checksOf (.imulh o) o.ctl (regsDAB o.d o.a o.b)) (regBody o.ctl.t o.d o.a o.b o.c (imulhVal o.ty)) s
def execImad (o : AluOp) (s : State) : Host.Outcome State Fault Refusal :=
  issue (checksOf (.imad o) o.ctl (regsDABC o.d o.a o.b o.c)) (regBody o.ctl.t o.d o.a o.b o.c (imadVal o.ty)) s
def execImin (o : AluOp) (s : State) : Host.Outcome State Fault Refusal :=
  issue (checksOf (.imin o) o.ctl (regsDAB o.d o.a o.b)) (regBody o.ctl.t o.d o.a o.b o.c (iminVal o.ty)) s
def execImax (o : AluOp) (s : State) : Host.Outcome State Fault Refusal :=
  issue (checksOf (.imax o) o.ctl (regsDAB o.d o.a o.b)) (regBody o.ctl.t o.d o.a o.b o.c (imaxVal o.ty)) s
def execIabs (o : AluOp) (s : State) : Host.Outcome State Fault Refusal :=
  issue (checksOf (.iabs o) o.ctl (regsDA o.d o.a)) (regBody o.ctl.t o.d o.a o.b o.c (iabsVal o.ty)) s
def execIneg (o : AluOp) (s : State) : Host.Outcome State Fault Refusal :=
  issue (checksOf (.ineg o) o.ctl (regsDA o.d o.a)) (regBody o.ctl.t o.d o.a o.b o.c (inegVal o.ty)) s
def execAnd (o : AluOp) (s : State) : Host.Outcome State Fault Refusal :=
  issue (checksOf (.and o) o.ctl (regsDAB o.d o.a o.b)) (regBody o.ctl.t o.d o.a o.b o.c (andVal o.ty)) s
def execOr (o : AluOp) (s : State) : Host.Outcome State Fault Refusal :=
  issue (checksOf (.or o) o.ctl (regsDAB o.d o.a o.b)) (regBody o.ctl.t o.d o.a o.b o.c (orVal o.ty)) s
def execXor (o : AluOp) (s : State) : Host.Outcome State Fault Refusal :=
  issue (checksOf (.xor o) o.ctl (regsDAB o.d o.a o.b)) (regBody o.ctl.t o.d o.a o.b o.c (xorVal o.ty)) s
def execAndn (o : AluOp) (s : State) : Host.Outcome State Fault Refusal :=
  issue (checksOf (.andn o) o.ctl (regsDAB o.d o.a o.b)) (regBody o.ctl.t o.d o.a o.b o.c (andnVal o.ty)) s
def execPopc (o : AluOp) (s : State) : Host.Outcome State Fault Refusal :=
  issue (checksOf (.popc o) o.ctl (regsDA o.d o.a)) (regBody o.ctl.t o.d o.a o.b o.c (popcVal o.ty)) s
def execClz (o : AluOp) (s : State) : Host.Outcome State Fault Refusal :=
  issue (checksOf (.clz o) o.ctl (regsDA o.d o.a)) (regBody o.ctl.t o.d o.a o.b o.c (clzVal o.ty)) s
def execBrev (o : AluOp) (s : State) : Host.Outcome State Fault Refusal :=
  issue (checksOf (.brev o) o.ctl (regsDA o.d o.a)) (regBody o.ctl.t o.d o.a o.b o.c (brevVal o.ty)) s
def execMov (o : AluOp) (s : State) : Host.Outcome State Fault Refusal :=
  issue (checksOf (.mov o) o.ctl (regsDA o.d o.a)) (regBody o.ctl.t o.d o.a o.b o.c (movVal o.ty)) s

/-- The registers of a shift: B only where the count is in a register (R227). -/
def shiftRegs (o : AluOp) : List Nat := if o.opx.getLsbD 7 then regsDA o.d o.a else regsDAB o.d o.a o.b

def execShl (o : AluOp) (s : State) : Host.Outcome State Fault Refusal :=
  issue (checksOf (.shl o) o.ctl (shiftRegs o)) (regBody o.ctl.t o.d o.a o.b o.c
    (fun a b _ => shlVal o.ty (shiftCount o.ty o.opx b) a)) s
def execShr (o : AluOp) (s : State) : Host.Outcome State Fault Refusal :=
  issue (checksOf (.shr o) o.ctl (shiftRegs o)) (regBody o.ctl.t o.d o.a o.b o.c
    (fun a b _ => shrVal o.ty (shiftCount o.ty o.opx b) a)) s
def execSar (o : AluOp) (s : State) : Host.Outcome State Fault Refusal :=
  issue (checksOf (.sar o) o.ctl (shiftRegs o)) (regBody o.ctl.t o.d o.a o.b o.c
    (fun a b _ => sarVal o.ty (shiftCount o.ty o.opx b) a)) s
def execRot (o : AluOp) (s : State) : Host.Outcome State Fault Refusal :=
  issue (checksOf (.rot o) o.ctl (shiftRegs o)) (regBody o.ctl.t o.d o.a o.b o.c
    (fun a b _ => rotVal o.ty (o.opx.getLsbD 6) (shiftCount o.ty o.opx b) a)) s
def execBfx (o : AluOp) (s : State) : Host.Outcome State Fault Refusal :=
  issue (checksOf (.bfx o) o.ctl (regsDAB o.d o.a o.b)) (regBody o.ctl.t o.d o.a o.b o.c (bfxVal o.ty)) s
def execBfi (o : AluOp) (s : State) : Host.Outcome State Fault Refusal :=
  issue (checksOf (.bfi o) o.ctl (regsDABC o.d o.a o.b o.c)) (regBody o.ctl.t o.d o.a o.b o.c (bfiVal o.ty)) s
def execLea (o : AluOp) (s : State) : Host.Outcome State Fault Refusal :=
  issue (checksOf (.lea o) o.ctl (regsDAB o.d o.a o.b)) (regBody o.ctl.t o.d o.a o.b o.c (leaVal o.ty (o.opx.toNat % 8))) s
def execIaddi (o : ImmOp) (s : State) : Host.Outcome State Fault Refusal :=
  issue (checksOf (.iaddi o) o.ctl (regsDA o.d o.a)) (regBody o.ctl.t o.d o.a 0 0 (fun a _ _ => a + imm31 o.imm)) s
def execMovi (o : ImmOp) (s : State) : Host.Outcome State Fault Refusal :=
  issue (checksOf (.movi o) o.ctl [o.d.toNat]) (regBody o.ctl.t o.d 0 0 0 (fun _ _ _ => imm31 o.imm)) s
def execMovhi (o : ImmOp) (s : State) : Host.Outcome State Fault Refusal :=
  issue (checksOf (.movhi o) o.ctl (regsDA o.d o.a)) (regBody o.ctl.t o.d o.a 0 0 (fun a _ _ => movhiVal o.imm a)) s
def execSadd (o : AluOp) (s : State) : Host.Outcome State Fault Refusal :=
  issue (checksOf (.sadd o) o.ctl (regsDAB o.d o.a o.b)) (regBody o.ctl.t o.d o.a o.b o.c (saddVal o.ty)) s
def execIdot4 (o : AluOp) (s : State) : Host.Outcome State Fault Refusal :=
  issue (checksOf (.idot4 o) o.ctl (regsDABC o.d o.a o.b o.c)) (regBody o.ctl.t o.d o.a o.b o.c (idot4Val o.ty)) s
def execPermb (o : AluOp) (s : State) : Host.Outcome State Fault Refusal :=
  issue (checksOf (.permb o) o.ctl (regsDABC o.d o.a o.b o.c)) (regBody o.ctl.t o.d o.a o.b o.c permbVal) s
def execIdiv (o : AluOp) (s : State) : Host.Outcome State Fault Refusal :=
  issue (checksOf (.idiv o) o.ctl (regsDAB o.d o.a o.b)) (laterBody o.ctl.fl o.d o.a o.b o.c (idivVal o.ty)) s
def execIrem (o : AluOp) (s : State) : Host.Outcome State Fault Refusal :=
  issue (checksOf (.irem o) o.ctl (regsDAB o.d o.a o.b)) (laterBody o.ctl.fl o.d o.a o.b o.c (iremVal o.ty)) s

end Sys2Proof.Machine
end

