-- ==== Sys2Proof/Machine/QueueOps.lean ====
section
/-! DEFINITION. Record queues in memory: the header, the slots, and the push and pop that fibres and the device make
(R320 to R322). -/

namespace Sys2Proof.Machine

/-- A queue header (R320). -/
structure QueueHead where
  base  : Nat
  regs  : Nat
  lgcap : Nat
  head  : Word
  tail  : Word
  bound : Bool
  grid  : Nat
  deriving DecidableEq, Repr

/-- QUEUE_FAULT of a header. -/
def queueFault (hva : Word) : AccessStop := trap0 .queueFault hva

/-- The reserved bits and ranges of a header. -/
def headerOk (ws : List Word) : Bool :=
  let w (i : Nat) : Word := ws.getD i 0
  zeroBits (w 0) 57 7 && zeroBits (w 0) 0 6 && zeroBits (w 1) 13 51 && zeroBits (w 1) 5 3
    && decide (2 ≤ fld (w 1) 0 5) && decide (fld (w 1) 0 5 ≤ 20) && zeroBits (w 4) 33 31
    && w 5 == 0 && w 6 == 0 && w 7 == 0

/-- The eight words of a header as fields. -/
def headOf (ws : List Word) : QueueHead :=
  let w (i : Nat) : Word := ws.getD i 0
  { base := fld (w 0) 6 51 * 64, regs := fld (w 1) 8 5 + 1, lgcap := fld (w 1) 0 5, head := w 2, tail := w 3,
    bound := flag (w 4) 32, grid := fld (w 4) 0 32 }

/-- A word of a queue: its page must not be formatted and its domain is PACKAGE or HOST (R320). A push and a pop need the
permission to write it; the checks of BIND only read (R334). -/
def State.queuePlace (s : State) (v : Via) (ctx : BitVec 12) (k : AccessKind) (hva va : Word) : State × Except AccessStop Place :=
  match s.resolveVia v ctx va 8 k none false with
  | (s, .error (.trap t)) => (s, .error (if t.code = .formatSize then queueFault hva else .trap t))
  | (s, .error x) => (s, .error x)
  | (s, .ok p) =>
    match s.lossAt v .read p.pa 8 with
    | some x => (s, .error (.trap (lostTrap p.pa x)))
    | none => if p.dom = .package ∨ p.dom = .host then (s, .ok p) else (s, .error (queueFault hva))

/-- The places of `n` consecutive words of a queue; the first that fails is the stop. -/
def State.queuePlaces (s : State) (v : Via) (ctx : BitVec 12) (k : AccessKind) (hva va : Word) :
    Nat → State × Except AccessStop (List Place)
  | 0 => (s, .ok [])
  | n + 1 =>
    match s.queuePlace v ctx k hva va with
    | (s, .error x) => (s, .error x)
    | (s, .ok p) =>
      match State.queuePlaces s v ctx k hva (va + 8) n with
      | (s, .error x) => (s, .error x)
      | (s, .ok ps) => (s, .ok (p :: ps))

/-- Words read as acquires at their points of coherence (R92). -/
def State.readPlaces (s : State) (v : Via) (ctx : BitVec 12) : List Place → State × List Word
  | [] => (s, [])
  | p :: ps =>
    let r := s.viaAcquire v ctx p 8
    let q := State.readPlaces r.1 v ctx ps
    (q.1, wd r.2.1 :: q.2)

/-- Words written at their points of coherence: the latest completion time. -/
def State.writePlaces (s : State) (v : Via) (ctx : BitVec 12) : List (Place × Word) → State × Word
  | [] => (s, s.gtb)
  | (p, x) :: ps =>
    let r := s.viaWrite v ctx p 8 x.toNat
    let q := State.writePlaces r.1 v ctx ps
    (q.1, later r.2 q.2)

/-- The header of a queue, and the places of its eight words. -/
def State.queueHead (s : State) (v : Via) (ctx : BitVec 12) (k : AccessKind) (hva : Word) :
    State × Except AccessStop (QueueHead × List Place) :=
  if hva.toNat % 64 ≠ 0 then (s, .error (queueFault hva))
  else
    match s.queuePlaces v ctx k hva hva 8 with
    | (s, .error x) => (s, .error x)
    | (s, .ok ps) =>
      let r := s.readPlaces v ctx ps
      if headerOk r.2 then (r.1, .ok (headOf r.2, ps)) else (r.1, .error (queueFault hva))

/-- The VA of the slot of a position. -/
def QueueHead.slot (h : QueueHead) (pos : Word) : Word :=
  wd (h.base + pos.toNat % 2 ^ h.lgcap * 8 * (h.regs + 1))

/-- The fibres, streams and engines that wait for a queue wake (R322): every queue entry of the context and header. -/
def State.queueWaiters (s : State) (ctx : BitVec 12) (hva : Word) : List (Nat × Nat × WaitEntry) :=
  (List.range 4).flatMap (fun d =>
    ((s.die d).wait.filter (fun (e : Nat × WaitEntry) => e.2.kind == .queue && e.2.ctx == ctx && e.2.key == hva)).map
      (fun e => (d, e.1, e.2)))

/-- A pop or a push wakes every lane parked on the queue (QUEUE_WAKE, R322). -/
def State.queueWake (s : State) (ctx : BitVec 12) (hva : Word) : State :=
  (s.queueWaiters ctx hva).foldl (fun s x =>
    (x.2.2.waiters.foldl (fun (s : State) (w : Waiter) => match w with
      | .fibre c p => s.resume c p
      | _ => s) (s.freeToken x.1 x.2.1))) s

/-- The sequence word of the slot of a position, as the device finds it. -/
def State.queueSeq (s : State) (d : Nat) (ctx : BitVec 12) (hva : Word) (h : QueueHead) (pos : Word) : Option Word :=
  match s.queuePlaces (Via.dev d) ctx .read hva (h.slot pos) 1 with
  | (s, .ok ps) => (s.readPlaces (Via.dev d) ctx ps).2.head?
  | (_, .error _) => none

/-- The lanes of a queue entry could go on: a record is complete where lanes wait to pop, a slot is released where lanes wait to
push. Software producers and consumers complete and release them too (R321, R322). -/
def State.queueMoved (s : State) (d : Nat) (e : WaitEntry) : Bool :=
  match s.queueHead (Via.dev d) e.ctx .read e.key with
  | (t, .ok (h, _)) =>
    (e.pops && t.queueSeq d e.ctx e.key h h.head == some (h.head + 1)) || (e.pushes && t.queueSeq d e.ctx e.key h h.tail == some h.tail)
  | (_, .error _) => false

/-- Lanes parked on a queue that has moved on wake (R322). -/
def State.wakeQueues (s : State) : State :=
  let ks := (List.range 4).flatMap (fun d =>
    ((s.die d).wait.filter (fun (e : Nat × WaitEntry) => e.2.kind == .queue && s.queueMoved d e.2)).map (fun e => (e.2.ctx, e.2.key)))
  ks.foldl (fun s k => s.queueWake k.1 k.2) s

/-- A push to a queue that feeds a grid: the idle interval of its binding counts from now (R167). -/
def State.notePush (s : State) (ctx : BitVec 12) (hva tail : Word) : State :=
  { s with grids := s.grids.map (fun (g : Nat × Grid) => match g.2.binding with
      | some b => if g.2.ctx = ctx ∧ b.queue = hva then (g.1, { g.2 with binding := some { b with tail := tail, lastPush := s.gtb, idleGone := false } }) else g
      | none => g) }

/-- How a push or a pop ends. -/
inductive QueueEnd where
  /-- Done: the record popped, empty for a push, and the completion time of the writes. -/
  | done (s : State) (record : List Word) (tc : Word) (wasEmpty : Bool)
  /-- The queue is full, or empty. -/
  | blocked (s : State) (h : QueueHead)
  | stop (s : State) (x : AccessStop)

/-- A push of a record whose registers `take` gives for the header's record size (R321). -/
def State.queuePush (s : State) (v : Via) (ctx : BitVec 12) (hva : Word) (take : Nat → Except Trap (List Word)) :
    QueueEnd :=
  match s.queueHead v ctx .claim hva with
  | (s, .error x) => .stop s x
  | (s, .ok (h, hp)) =>
    match take h.regs with
    | .error t => .stop s (.trap t)
    | .ok ws =>
      match s.queuePlaces v ctx .claim hva (h.slot h.tail) (h.regs + 1) with
      | (s, .error x) => .stop s x
      | (s, .ok ps) =>
        let q := s.readPlaces v ctx (ps.take 1)
        if q.2.getD 0 0 = h.tail then
          let t := q.1.writePlaces v ctx ((hp.drop 3).take 1 |>.map (fun p => (p, h.tail + 1)))
          let r := t.1.writePlaces v ctx ((ps.drop 1).zip ws)
          let z := r.1.writePlaces v ctx ((ps.take 1).map (fun p => (p, h.tail + 1)))
          .done ((z.1.queueWake ctx hva).notePush ctx hva (h.tail + 1)) [] (later t.2 (later r.2 z.2)) (h.head == h.tail)
        else .blocked q.1 h

/-- A pop (R321). `check` sees the header before anything is claimed. -/
def State.queuePop (s : State) (v : Via) (ctx : BitVec 12) (hva : Word) (check : QueueHead → Option Trap) : QueueEnd :=
  match s.queueHead v ctx .claim hva with
  | (s, .error x) => .stop s x
  | (s, .ok (h, hp)) =>
    match check h with
    | some t => .stop s (.trap t)
    | none =>
      match s.queuePlaces v ctx .claim hva (h.slot h.head) (h.regs + 1) with
      | (s, .error x) => .stop s x
      | (s, .ok ps) =>
        let q := s.readPlaces v ctx ps
        if q.2.getD 0 0 = h.head + 1 then
          let t := q.1.writePlaces v ctx ((hp.drop 2).take 1 |>.map (fun p => (p, h.head + 1)))
          let z := t.1.writePlaces v ctx ((ps.take 1).map (fun p => (p, h.head + wd (2 ^ h.lgcap))))
          .done (z.1.queueWake ctx hva) (q.2.drop 1) (later t.2 z.2) false
        else .blocked q.1 h

end Sys2Proof.Machine
end

