-- ==== Sys2Proof/Machine/Resources.lean ====
section
/-! DEFINITION. What a core has free, where a cluster would go, and how much of a grid a die can take (R40, R128, R157,
R163, R164). -/

namespace Sys2Proof.Machine

/-! ## A launch record's fields (R157) -/

namespace Rcd
def word (r : List Word) (i : Nat) : Word := r.getD i 0
def code (r : List Word) : BitVec 48 := (word r 0).setWidth 48
def mentry (r : List Word) : BitVec 48 := (word r 1).setWidth 48
def gblk (r : List Word) : Word := wd (fld (word r 2) 8 49 * 256)
def endst (r : List Word) : Word := wd (fld (word r 3) 5 52 * 32)
def int (r : List Word) : Bool := flag (word r 3) 0
def nx (r : List Word) : Nat := fld (word r 4) 0 20
def ny (r : List Word) : Nat := fld (word r 4) 20 20
def nz (r : List Word) : Nat := fld (word r 4) 40 20
def gw (r : List Word) : Nat := 8 * 2 ^ fld (word r 5) 0 2
/-- CLM1 + 1: groups of a cluster. DESIGN CHOICE, log entry 68: the field's values 16 to 31, for which R158 lists no refusal, are
accepted and form clusters of 17 to 32 groups. -/
def clm (r : List Word) : Nat := fld (word r 5) 2 5 + 1
def gscr (r : List Word) : Nat := fld (word r 5) 8 11
def cscr (r : List Word) : Nat := fld (word r 5) 19 11
def quads (r : List Word) : Bool := flag (word r 5) 30
def colocate (r : List Word) : Bool := flag (word r 5) 31
def span (r : List Word) : Bool := flag (word r 5) 32
def lq (r : List Word) : Nat := fld (word r 5) 33 8
def ctx (r : List Word) : BitVec 12 := BitVec.ofNat 12 (fld (word r 5) 41 12)
def spanmap (r : List Word) : Word := wd (fld (word r 7) 6 51 * 64)
def rank (r : List Word) : Nat := fld (word r 8) 0 10
/-- SIZEM1 + 1. -/
def size (r : List Word) : Nat := fld (word r 8) 16 10 + 1
def spanId (r : List Word) : BitVec 16 := BitVec.ofNat 16 (fld (word r 8) 48 16)
/-- The groups of the grid. -/
def groups (r : List Word) : Nat := nx r * ny r * nz r
/-- Role field k: ROLE, LANES and window size. -/
def role (r : List Word) (k : Nat) : Nat × Nat × Nat :=
  let f := fld (word r 6) (20 * k) 20
  (bitsAt f 18 2, bitsAt f 11 7, bitsAt f 0 8 + 1)
/-- Roles and window sizes by lane. -/
def lanes (r : List Word) : List (Role × Nat) :=
  (List.range 3).flatMap (fun k =>
    let x := role r k
    List.replicate x.2.1 (match x.1 with
      | 1 => .copy
      | 2 => .epilogue
      | _ => .compute, x.2.2))
end Rcd

/-- Bytes of a window of `n` registers (R40). -/
def windowBytes (n : Nat) : Nat := (n + 7) / 8 * 64

/-! ## What a core holds -/

/-- Intervals in use: register-pool bytes, scratchpad KiB, places; numbers in use: group slots, sequencer contexts,
clusters. An interval is its start and its length; those of one list rise, and intervals that touch are one. -/
structure Usage where
  pool     : List (Nat × Nat)
  spad     : List (Nat × Nat)
  places   : List (Nat × Nat)
  slots    : List Nat
  seqs     : List Nat
  clusters : List Nat
  deriving DecidableEq, Repr

/-- An interval joins a list of intervals in use. -/
def addSpan : List (Nat × Nat) → Nat × Nat → List (Nat × Nat)
  | [], x => if x.2 = 0 then [] else [x]
  | u :: us, x =>
    if x.2 = 0 then u :: us
    else if x.1 + x.2 < u.1 then x :: u :: us
    else if u.1 + u.2 < x.1 then u :: addSpan us x
    else addSpan us (min x.1 u.1, max (x.1 + x.2) (u.1 + u.2) - min x.1 u.1)

/-- Several intervals join. -/
def addSpans (us xs : List (Nat × Nat)) : List (Nat × Nat) := xs.foldl addSpan us

/-- The windows of a group's lanes as intervals. -/
def windowSpans (bases : List Nat) (lanes : List (Role × Nat)) : List (Nat × Nat) :=
  (bases.zip lanes).map (fun x => (x.1 * 8, windowBytes x.2.2))

/-- Nothing in use. -/
def Usage.none : Usage := { pool := [], spad := [], places := [], slots := [], seqs := [], clusters := [] }

/-- What a planned cluster of a record holds, added. -/
def Usage.addPlan (u : Usage) (r : List Word) (x : ClusterPlan) : Usage :=
  { pool := addSpans u.pool (x.groups.flatMap (fun (g : GroupPlan) => windowSpans g.bases (Rcd.lanes r))),
    spad := addSpans u.spad ((x.cbase, Rcd.cscr r) :: x.groups.map (fun (g : GroupPlan) => (g.sbase, Rcd.gscr r))),
    places := addSpans u.places (x.groups.map (fun (g : GroupPlan) => (g.first, Rcd.gw r))),
    slots := u.slots ++ x.groups.map (fun (g : GroupPlan) => g.slot),
    seqs := u.seqs ++ x.groups.filterMap (fun (g : GroupPlan) => g.seq),
    clusters := x.id :: u.clusters }

/-- What a core holds: its groups and clusters, and the plans set aside on it. -/
def State.usage (s : State) (c : Nat) : Usage :=
  let k := s.core c
  let u : Usage :=
    { pool := addSpans [] (k.groups.flatMap (fun (g : Nat × Group) => windowSpans g.2.bases g.2.roles)),
      spad := addSpans [] (k.groups.map (fun (g : Nat × Group) => (g.2.scratchBase, g.2.scratchSize / 1024))
        ++ k.clusters.map (fun (l : Nat × Cluster) => (l.2.scratchBase, l.2.scratchSize / 1024))),
      places := addSpans [] (k.groups.map (fun (g : Nat × Group) => (g.2.first, g.2.width))),
      slots := k.groups.map (fun (g : Nat × Group) => g.1),
      seqs := k.groups.filterMap (fun (g : Nat × Group) => g.2.stream.map (fun x => x.ctxNo)),
      clusters := k.clusters.map (fun (l : Nat × Cluster) => l.1) }
  s.plans.foldl (fun (u : Usage) (p : Nat × List ClusterPlan) =>
    match s.grid p.1 with
    | some g => (p.2.filter (fun x => x.core == c)).foldl (fun u x => u.addPlan g.rcd x) u
    | none => u) u

/-! ## First fit -/

/-- The lowest multiple of `al`, from `a` on, at which `n` fit below a limit beside what is in use. -/
def fitFrom (limit al n : Nat) : List (Nat × Nat) → Nat → Option Nat
  | [], a => if a + n ≤ limit then some a else none
  | u :: us, a => if a + n ≤ u.1 then some a else fitFrom limit al n us (max a ((u.1 + u.2 + al - 1) / al * al))

/-- The lowest multiple of `al` at which `n` fit below a limit. -/
def firstFit (used : List (Nat × Nat)) (limit al n : Nat) : Option Nat := fitFrom limit al n used 0

/-- The lowest number not in use below a limit. -/
def lowestFree (used : List Nat) (limit : Nat) : Option Nat := (List.range limit).find? (fun i => decide (i ∉ used))

/-- Register-pool bytes for windows: the pool without the holding list (R38, R40). -/
def poolSize (spad : Nat) : Nat := (32 - spad) * 65536 - 32768

/-- First-fit bases for the windows of all lanes. -/
def placeWindows (limit : Nat) : List (Role × Nat) → List (Nat × Nat) → Option (List Nat × List (Nat × Nat))
  | [], used => some ([], used)
  | l :: ls, used =>
    match firstFit used limit 64 (windowBytes l.2) with
    | none => none
    | some a => (placeWindows limit ls (addSpan used (a, windowBytes l.2))).map (fun r => (a / 8 :: r.1, r.2))

/-- First fit of a segment, 0 for size 0. -/
def placeSeg (used : List (Nat × Nat)) (limit n : Nat) : Option Nat := if n = 0 then some 0 else firstFit used limit 1 n

/-- One group placed. -/
def placeGroup (spad : Nat) (r : List Word) (u : Usage) : Option (GroupPlan × Usage) :=
  match placeWindows (poolSize spad) (Rcd.lanes r) u.pool, placeSeg u.spad (spad * 64) (Rcd.gscr r),
      firstFit u.places Config.places 4 (Rcd.gw r), lowestFree u.slots 256 with
  | some w, some sb, some f, some sl =>
    let g (q : Option Nat) : GroupPlan := { slot := sl, first := f, bases := w.1, sbase := sb, seq := q }
    let u' (q : List Nat) : Usage := { u with
      pool := w.2, spad := addSpan u.spad (sb, Rcd.gscr r), places := addSpan u.places (f, Rcd.gw r), slots := sl :: u.slots,
      seqs := q ++ u.seqs }
    if Rcd.mentry r = 0 then some (g none, u' [])
    else match lowestFree u.seqs 4 with
      | some q => some (g (some q), u' [q])
      | none => none
  | _, _, _, _ => none

/-- `n` groups placed one after another. -/
def placeGroups (spad : Nat) (r : List Word) : Nat → Usage → Option (List GroupPlan × Usage)
  | 0, u => some ([], u)
  | n + 1, u =>
    match placeGroup spad r u with
    | none => none
    | some (g, u) => (placeGroups spad r n u).map (fun x => (g :: x.1, x.2))

/-- Where a cluster of which `n` groups are left fits on a core that holds `u` (R163). DESIGN CHOICE, log entry 69: the cluster's segment is placed
first, then each group's windows, segment, places, slot and context in the order of the groups. -/
def planSomeOn (n spad : Nat) (r : List Word) (core first : Nat) (u : Usage) : Option ClusterPlan :=
  match placeSeg u.spad (spad * 64) (Rcd.cscr r) with
  | none => none
  | some cb =>
    match placeGroups spad r n { u with spad := addSpan u.spad (cb, Rcd.cscr r) }, lowestFree u.clusters 256 with
    | some x, some id => some { core := core, first := first, id := id, groups := x.1, cbase := cb }
    | _, _ => none

/-- Where a whole cluster of a record fits on a core that holds `u`. -/
def planOn (spad : Nat) (r : List Word) (core first : Nat) (u : Usage) : Option ClusterPlan := planSomeOn (Rcd.clm r) spad r core first u

/-- A core to which groups may be admitted: no SPAD waits, its island is on, admitted by the sequencer (R392), and stays on, its die
lives (R39, R393). -/
def State.admits (s : State) (c : Nat) : Bool :=
  let i := dieOf c * 40 + c % 160 / 4
  let w := AMap.getD s.plat.islands i 0x101
  (s.core c).spadPend.isNone && flag w 0 && fld w 8 2 == 1 && (AMap.find s.plat.admitted i).isSome && !(s.die (dieOf c)).dead

/-- Where a cluster of a record of which `n` groups are left fits on a core. -/
def State.planSome (s : State) (n : Nat) (r : List Word) (first c : Nat) : Option ClusterPlan :=
  if s.admits c then planSomeOn n (s.core c).spad r c first (s.usage c) else none

/-- Where a cluster of a record fits on a core. -/
def State.plan (s : State) (r : List Word) (first c : Nat) : Option ClusterPlan := s.planSome (Rcd.clm r) r first c

/-- Free register-pool bytes of a core. -/
def State.freePool (s : State) (c : Nat) : Nat :=
  poolSize (s.core c).spad - ((s.usage c).pool.map (fun x => x.2)).foldl (· + ·) 0

/-- How many clusters fit one after another. -/
def countOn (spad : Nat) (r : List Word) (core : Nat) : Nat → Usage → Nat
  | 0, _ => 0
  | n + 1, u =>
    match planOn spad r core 0 u with
    | some x => 1 + countOn spad r core n (u.addPlan r x)
    | none => 0

/-- The free-slot count of a die for a record (R163). Cores that hold nothing and have the SPAD of reset all count alike. -/
def State.freeSlots (s : State) (r : List Word) (d : Nat) : Nat :=
  let blank := countOn 16 r 0 256 Usage.none
  ((coresOf d).map (fun c =>
    if !s.admits c then 0
    else if (s.core c).spad = 16 ∧ s.usage c = Usage.none then blank
    else countOn (s.core c).spad r c 256 (s.usage c))).foldl (· + ·) 0 * Rcd.clm r

/-- The die with the largest free-slot count, lower index first, and that count. -/
def State.bestDie (s : State) (r : List Word) : Nat × Nat :=
  (List.range 4).foldl (fun (b : Nat × Nat) d =>
    let n := s.freeSlots r d
    if b.2 < n then (d, n) else b) (0, 0)

/-- The core of a die on which the die dispatcher places a cluster: the one with the most free register-pool bytes
(R164). -/
def State.planDie (s : State) (r : List Word) (first d : Nat) : Option ClusterPlan :=
  ((coresOf d).foldl (fun (b : Option (Nat × ClusterPlan)) c =>
    match s.plan r first c with
    | none => b
    | some x =>
      let n := s.freePool c
      match b with
      | some y => if y.1 < n then some (n, x) else b
      | none => some (n, x)) none).map (fun x => x.2)

/-- A trial placement of all clusters of a grid from group `first` on, batch by batch (R165); each cluster taken is set
aside in the plans of the grid. `left` is what the batch may still take on die `d`. -/
def State.trial (s : State) (gid : Nat) (r : List Word) (first d left : Nat) : Nat → Option State
  | 0 => if Rcd.groups r ≤ first then some s else none
  | n + 1 =>
    if Rcd.groups r ≤ first then some s
    else
      let b := if left < Rcd.clm r then
          let x := s.bestDie r
          (x.1, min 64 x.2)
        else (d, left)
      match s.planDie r first b.1 with
      | none => none
      | some x =>
        let s := { s with plans := AMap.put s.plans gid (AMap.getD s.plans gid [] ++ [x]) }
        State.trial s gid r (first + Rcd.clm r) b.1 (b.2 - Rcd.clm r) n

/-- An empty core of this core's SPAD takes one cluster (R158). -/
def State.fitsEmpty (s : State) (r : List Word) : Bool :=
  (List.range Config.mainCores).any (fun c =>
    (planOn (s.core c).spad r c 0 Usage.none).isSome)

/-- The package with every core empty: what NOFIT of a COLOCATE grid is tested on (R158). -/
def State.emptied (s : State) : State :=
  { s with
    plat := { s.plat with islands := [], admitted := (List.range 160).map (fun i => (i, 0)) },
    dies := s.dies.map (fun (d : Nat × Die) => (d.1, { d.2 with dead := false })),
    plans := [], cores := s.cores.map (fun (k : Nat × Core) =>
      (k.1, { k.2 with groups := [], clusters := [], fibres := [], spadPend := none })) }

end Sys2Proof.Machine
end

