-- ==== Sys2Proof/Machine/Sched.lean ====
section
/-! DEFINITION. The selector of a core, landing results, barrier time-outs, pauses and the end of a group
(R130, R133 to R139, R147, R150, R278, R39). -/

namespace Sys2Proof.Machine

/-! ## Ready fibres (R136) -/

/-- The bias of the selector hint (R138). -/
def biasOf (yh : BitVec 2) : Int :=
  match yh.toNat with
  | 0 => 0
  | 1 => 16
  | 2 => 64
  | _ => -16

/-- The better of two candidates by a score; ties go to the lower ADDR, then the lower CTX (R138). -/
def betterEntry (a b : Int × Nat × BlockEntry) : Bool :=
  if a.1 = b.1 then
    if a.2.2.addr = b.2.2.addr then decide (a.2.2.ctx.toNat < b.2.2.ctx.toNat) else decide (a.2.2.addr.toNat < b.2.2.addr.toNat)
  else decide (b.1 < a.1)

/-- The best candidate of a list. DESIGN CHOICE, log entry 88: of an ordinary and a resumption entry of equal score, ADDR and CTX, a tie that
R138 does not break, the lower-numbered entry. -/
def bestEntry : List (Int × Nat × BlockEntry) → Option (Int × Nat × BlockEntry)
  | [] => none
  | x :: xs => match bestEntry xs with
    | none => some x
    | some y => if betterEntry y x then some y else some x

/-- The eligible entries of a core. -/
def State.eligible (s : State) (c : Nat) : List (Nat × BlockEntry) :=
  (s.core c).table.filter (fun (e : Nat × BlockEntry) => !(s.readyOf c e.2).isEmpty)

/-- The entry that a selection chooses (R138). -/
def State.chooseEntry (s : State) (c : Nat) : Option (Nat × BlockEntry) :=
  let es := s.eligible c
  let old := es.filter (fun (e : Nat × BlockEntry) => decide (s.regs.ageCap < e.2.age))
  let scored := if old.isEmpty then es.map (fun (e : Nat × BlockEntry) => (((s.readyOf c e.2).length : Int) + biasOf e.2.yh, e.1, e.2))
    else old.map (fun (e : Nat × BlockEntry) => ((e.2.age : Int), e.1, e.2))
  (bestEntry scored).map (fun x => (x.2.1, x.2.2))

/-- Ages after a selection (R138). -/
def State.ageEntries (s : State) (c i : Nat) : State :=
  let el := (s.eligible c).map (fun (e : Nat × BlockEntry) => e.1)
  s.updCore c (fun k => { k with table := k.table.map (fun (e : Nat × BlockEntry) =>
    (e.1, { e.2 with age := if e.1 = i then 0 else if e.1 ∈ el then min (e.2.age + 1) 511 else 0 })) })

/-! ## Forming a ferry (R136) -/

/-- What a scan has taken: lanes, groups, grid, and the next CUR. -/
structure Scan where
  lanes  : List Nat
  groups : List Nat
  grid   : Option Nat
  cur    : Nat
  deriving DecidableEq, Repr

/-- The unit of a place in an entry: its quad, the fibre alone, or nothing. -/
def State.unitOf (s : State) (c : Nat) (e : BlockEntry) (p : Nat) : List Nat :=
  let q := e.q && !e.rs && s.hasFibre c p && (s.groupOf c p).quads
  if q && p % 4 != 0 then [] else if q then quadOf p else [p]

/-- One place of the scan. -/
def State.scanStep (s : State) (c : Nat) (e : BlockEntry) (r : Scan) (p : Nat) : Scan :=
  let u := s.unitOf c e p
  if !u.isEmpty && u.all (fun q => decide (q ∈ e.wvec) && s.isReady c q) then
    let g := (s.fibre c p).gslot
    let grid := (s.group c g).grid
    let mine := r.grid.getD grid
    if grid = mine && (decide (g ∈ r.groups) || decide (r.groups.length < 8)) && decide (r.lanes.length + u.length ≤ 64) then
      { lanes := u.foldl insertPlace r.lanes, groups := if g ∈ r.groups then r.groups else g :: r.groups,
        grid := some mine, cur := (p + u.length) % 2048 }
    else { r with grid := some mine }
  else r

/-- The scan of an entry: only places whose bits are set can be taken, so those are looked at, from CUR on. -/
def State.formScan (s : State) (c : Nat) (e : BlockEntry) : Scan :=
  let order := e.wvec.filter (fun p => decide (e.cur ≤ p)) ++ e.wvec.filter (fun p => decide (p < e.cur))
  order.foldl (fun r p => s.scanStep c e r p) { lanes := [], groups := [], grid := none, cur := e.cur }

/-- The words that a ferry may run from its fibres' views: every fibre holds the block with the same words, and the core
chooses to (R55). -/
def State.viewWords (s : State) (c : Nat) (addr : BitVec 48) (lanes : List Nat) : AMap Word :=
  match lanes with
  | [] => []
  | p :: ps =>
    let v := AMap.getD (s.fibre c p).view addr.toNat []
    if s.coin c 0 && ps.all (fun q => AMap.getD (s.fibre c q).view addr.toNat [] == v) then v else []

/-- The ferry of a scan leaves the entry; an entry without fibres is free and the holding list drains (R134, R135). -/
def State.launchFerry (s : State) (c i : Nat) (e : BlockEntry) (r : Scan) : State :=
  let left := e.wvec.filter (fun p => decide (p ∉ r.lanes))
  let clause : Option ClauseState := match e.rs, r.lanes with
    | true, p :: _ => some { known := false, left := 0, setA := (s.fibre c p).sets.1, setB := (s.fibre c p).sets.2, e := false }
    | _, _ => none
  let fy : Ferry := { ctx := e.ctx, entry := e.addr, rs := e.rs, q := e.q, lanes := r.lanes, pc := e.addr, clause := clause,
                      clauses := 0, pos := 0, held := s.viewWords c e.addr r.lanes, hold := .none }
  -- each fibre's view of the block is what the ferry runs (R55)
  let s := r.lanes.foldl (fun (s : State) p => s.updFibre c p (fun f => { f with view := AMap.put f.view e.addr.toNat fy.held })) s
  let s := s.updCore c (fun k => { k with
    table := if left.isEmpty then AMap.drop k.table i
      else k.table.map (fun (x : Nat × BlockEntry) => if x.1 = i then (i, { x.2 with wvec := left, cur := r.cur }) else x),
    ferries := AMap.put k.ferries k.nextFerry fy, nextFerry := k.nextFerry + 1, selCount := k.selCount + 1,
    idleSince := s.gtb })
  let s := s.count c e.ctx (fun k => { k with selections := k.selections + 1 })
  if left.isEmpty then s.drainHolding c ((s.core c).holding.length + 1) else s

/-- Something wakes a core that sleeps (R60). -/
def State.wakeCore (s : State) (c : Nat) : State :=
  if (s.core c).asleep && (s.core c).wakeAt.isNone then s.updCore c (fun k => { k with wakeAt := some s.gtb }) else s

/-- A selection is open: the core is awake, holds fewer than 32 ferries and has an eligible entry (R137). -/
def State.canSelect (s : State) (c : Nat) : Bool :=
  !(s.core c).asleep && decide ((s.core c).ferries.length < Config.ferriesPerCore) && !(s.eligible c).isEmpty
    && !(s.die (dieOf c)).dead

/-! ## Spilling (R135) -/

/-- The fibres of an entry go to the holding list with their waits, and the entry is free. -/
def State.spillEntry (s : State) (c i : Nat) (e : BlockEntry) : State :=
  let held : List Held := e.wvec.map (fun p => { place := p, ctx := e.ctx, addr := e.addr, rs := e.rs, since := (s.core c).selCount })
  let s := s.updCore c (fun k => { k with table := AMap.drop k.table i, holding := k.holding ++ held })
  s.drainHolding c ((s.core c).holding.length + 1)

/-- The entry that a spill takes: the lowest-numbered one without a ready fibre while a held fibre is ready, or the
smallest eligible one once the oldest held fibre has waited for AGE_CAP × 256 selections in which no entry has become free (DEDUCED, log
entry 82). -/
def State.spillVictim (s : State) (c : Nat) : Option (Nat × BlockEntry) :=
  let k := s.core c
  let full := k.freeEntry.isNone
  let ready := k.holding.any (fun h => s.isReady c h.place)
  let idle := k.table.find? (fun (e : Nat × BlockEntry) => (s.readyOf c e.2).isEmpty)
  let due := k.holding.head?.any (fun (h : Held) => decide (max h.since k.freeSel + s.regs.ageCap * 256 ≤ k.selCount))
  let small := bestEntry ((s.eligible c).map (fun (e : Nat × BlockEntry) => (-((e.2.wvec.length : Nat) : Int), e.1, e.2)))
  match full && ready, idle with
  | true, some e => some e
  | _, _ => if full && due then small.map (fun x => (x.2.1, x.2.2)) else none

/-- FERRY_SELECTION (R138). A spill that is due goes first (R135, R139). -/
def execFerrySelection (core : Nat) (s : State) : Host.Outcome State Fault Refusal :=
  let s := s.refill core
  if s.canSelect core && (s.spillVictim core).isNone then
    match s.chooseEntry core with
    | some (i, e) => .next ((s.ageEntries core i).launchFerry core i e (s.formScan core e))
    | none => .next s
  else .next s

/-- ENTRY_SPILL (R135). -/
def execEntrySpill (core : Nat) (s : State) : Host.Outcome State Fault Refusal :=
  match s.spillVictim core with
  | some (i, e) => .next (s.spillEntry core i e)
  | none => .next s

/-! ## Results (R150, R151) -/

/-- A drained window is free (R129). -/
def State.checkDrained (s : State) (c p : Nat) : State :=
  let f := s.fibre c p
  if f.life == .draining && f.pending.isEmpty && f.quiet then
    s.updCore c (fun k => { k with fibres := AMap.drop k.fibres p })
  else s

/-- RESULT_LANDS (R150): a result that waits for no response lands. Of the accesses that it has still to perform one is performed
first, in an order of its own (R85, R90). -/
def execResultLands (core place idx : Nat) (s : State) : Host.Outcome State Fault Refusal :=
  match (s.fibre core place).pending[idx]? with
  | some r =>
    if s.hasFibre core place && r.await.isNone then
      match r.late[Config.freeNat s.freeCtr (2 ^ 21 + place) % r.late.length]? with
      | some a => if s.lateOpen core a then .next (s.performLate core place a) else .next s
      | none =>
      .next ((s.updFibre core place (fun f => f.land idx r)).checkDrained core place)
    else .next s
  | none => .next s

/-! ## Barrier time-outs (R147) -/

/-- Every fibre waiting in a phase traps BAR_TIMEOUT at its terminator, the word before the block it goes to. -/
def State.timeOut (s : State) (c : Nat) (ps : List Nat) (kind : WaitKind) (n info : Nat) (first : Word) : State :=
  ps.foldl (fun s p =>
    let f := s.fibre c p
    let t : Trap := { code := .barTimeout, info0 := wd info, info1 := first }
    if f.waitk = kind && f.barn == n then s.takeTrap c p (f.pc - 8) t
    else if f.after = some (kind, n) then
      -- parked at the fetch of the next block
      ((s.leaveWait c p).takeTrap c p (f.pc - 8) t).updFibre c p (fun f => { f with after := none, target := false })
    else s) s

/-- A phase of a group's barrier, 0 to 15, or of its cluster's, 16, times out where its limit has passed. -/
def State.timeOutPhase (s : State) (core slot phase : Nat) : State :=
  if phase < 16 then
    let b := AMap.getD (s.group core slot).barriers phase Barrier.blank
    if b.expired s.gtb then
      let live := s.liveOf core slot
      let s := s.updGroup core slot (fun g => { g with
        barriers := AMap.put g.barriers phase { b with arrived := [], first := none } })
      s.timeOut core live .groupBarrier phase phase ((b.first.map (·.1)).getD 0)
    else s
  else
    let l := (s.group core slot).cluster
    let b := (s.cluster core l).barrier
    if b.expired s.gtb then
      let live := s.liveOfCluster core l
      let s := s.updCluster core l (fun x => { x with barrier := { b with arrived := [], first := none } })
      s.timeOut core live .clusterBarrier 0 16 ((b.first.map (·.1)).getD 0)
    else s

/-- BAR_TIMEOUT (R147). -/
def execBarTimeout (core slot phase : Nat) (s : State) : Host.Outcome State Fault Refusal :=
  if (AMap.find (s.core core).groups slot).isNone then .next s else .next (s.timeOutPhase core slot phase)

/-- Every phase whose limit the GTB has reached times out in the tick that reaches it. -/
def State.timeOutAll (s : State) : State :=
  s.cores.foldl (fun (s : State) (k : Nat × Core) => k.2.groups.foldl (fun (s : State) (g : Nat × Group) =>
    (g.2.barriers.foldl (fun (s : State) (b : Nat × Barrier) => s.timeOutPhase k.1 g.1 b.1) s).timeOutPhase k.1 g.1 16) s) s

/-! ## Pauses (R278) -/

/-- NANO_EXPIRY: the pause of a ferry is over. -/
def execNanoExpiry (core ferry : Nat) (s : State) : Host.Outcome State Fault Refusal :=
  match AMap.find (s.core core).ferries ferry with
  | some fy =>
    match fy.hold with
    | .nano till => if till.toNat ≤ s.gtb.toNat then .next (s.setFerry core ferry { fy with hold := .none }) else .next s
    | _ => .next s
  | none => .next s

/-- No pause lasts longer than 32 ticks beyond its end. -/
def State.endPauses (s : State) : State :=
  { s with cores := s.cores.map (fun (k : Nat × Core) => (k.1, { k.2 with
      ferries := k.2.ferries.map (fun (f : Nat × Ferry) => match f.2.hold with
        | .nano till => if till.toNat + 32 ≤ s.gtb.toNat then (f.1, { f.2 with hold := .none }) else f
        | _ => f) })) }

/-! ## The end of a group (R130, R39) -/

/-- A stream that no longer holds its group back (R130, R285). -/
def Stream.over (x : Stream) : Bool := x.st == .ended || x.st == .stopped

/-- The group can end: no fibre lives, every window is free, the stream is over and no command is left. -/
def State.groupOver (s : State) (c g : Nat) : Bool :=
  (AMap.find (s.core c).groups g).isSome
    && !(s.core c).fibres.any (fun (f : Nat × Fibre) => f.2.gslot == g)
    && (s.group c g).stream.all (fun x => x.over)
    && (s.group c g).queues.all (fun q => q.isEmpty)

/-- SPAD takes a value: what was set aside on the core no longer fits its pools, and every queue is unblocked (R39, R164). -/
def State.takeSpad (s : State) (c v : Nat) : State :=
  { s.updCore c (fun k => { k with spad := v, spadPend := none }) with
    blocked := [],
    plans := (s.plans.map (fun (p : Nat × List ClusterPlan) => (p.1, p.2.filter (fun x => x.core != c)))).filter
      (fun (p : Nat × List ClusterPlan) => !p.2.isEmpty) }

/-- A core without groups takes a waiting SPAD value (R39). -/
def State.applySpad (s : State) (c : Nat) : State :=
  match (s.core c).spadPend with
  | some v =>
    if (s.core c).resident.isEmpty then
      s.takeSpad c v
    else s
  | none => s

/-! ## What goes on after its group is gone (R124, R129, R170) -/

/-- Something that a group has issued, other than a command in its queues, is still under way. -/
def State.namesGroup (s : State) (c g : Nat) : Bool :=
  let names (w : Waiter) : Bool := match w with
    | .ended a k _ | .saved a k _ | .command a k _ => a == c && k == g
    | _ => false
  s.fabric.send.any (fun (w : Nat × SendWindow) => w.2.sent.any (fun r => names r.waiter)) || s.fabric.redo.any (fun x => names x.req.waiter)
    || s.dies.any (fun (d : Nat × Die) => d.2.snaps.any (fun x => x.issuer.1 == c && x.issuer.2.1 == g))
    || s.subs.any (fun x => x.issuer.1 == c && x.issuer.2.1 == g)
    || s.saved.any (fun x => x.core == c && x.groups.any (fun (y : Nat × Group) => x.base + y.1 == g))

/-- The fibre of a lane store gets another name; one that has ended no longer lives. -/
def StoreRec.rename (r : StoreRec) (w : Waiter → Waiter) : StoreRec :=
  { r with who := w r.who, live := r.live && (match w r.who with
      | .ended _ _ _ => false
      | _ => true) }

/-- What a group has issued gets other names: who waits, and the number and the places of the group. -/
def State.renameWork (s : State) (c g c' g' : Nat) (w : Waiter → Waiter) (place : Nat → Nat) : State :=
  let issuer (x : Nat × Nat × Nat) : Nat × Nat × Nat := if x.1 = c ∧ x.2.1 = g then (c', g', x.2.2) else x
  let stores (rs : AMap (List StoreRec)) : AMap (List StoreRec) := rs.map (fun (x : Nat × List StoreRec) => (x.1, x.2.map (fun r => r.rename w)))
  { s with
    cores := s.cores.map (fun (k : Nat × Core) => (k.1, { k.2 with owing := stores k.2.owing })),
    dies := s.dies.map (fun (d : Nat × Die) => (d.1, { d.2 with
      owing := stores d.2.owing,
      wait := d.2.wait.map (fun (e : Nat × WaitEntry) => (e.1, { e.2 with waiters := e.2.waiters.map w })),
      snaps := d.2.snaps.map (fun x => { x with issuer := issuer x.issuer }) })),
    owed := s.owed.map (fun o => { o with who := w o.who }),
    submitters := s.submitters.map (fun x => if x.2.1 = c ∧ x.2.2.1 = g then (x.1, (c', g', place x.2.2.2)) else x),
    subs := s.subs.map (fun (x : Submission) =>
      if x.issuer.1 = c ∧ x.issuer.2.1 = g then { x with issuer := issuer x.issuer, place := place x.place } else x),
    fabric := { s.fabric with
      send := s.fabric.send.map (fun (x : Nat × SendWindow) => (x.1, { x.2 with
        sent := x.2.sent.map (fun (r : SentRequest) => { r with waiter := w r.waiter }) })),
      redo := s.fabric.redo.map (fun (x : PeerRedo) => { x with req := { x.req with waiter := w x.req.waiter } }) } }

/-- The command queues of a group, with other places. -/
def Group.movePlaces (x : Group) (place : Nat → Nat) : List (List Command) :=
  x.queues.map (fun q => q.map (fun (y : Command) => { y with place := place y.place }))

/-- The number under which the work of groups of a core that go is kept: slot `g` of them is `g` more. -/
def State.workBase (s : State) (c : Nat) : Nat :=
  256 * (1 + (((s.core c).groups.map (fun (g : Nat × Group) => g.1 / 256)) ++ (s.saved.filter (fun (x : SavedCluster) => x.core == c)).map (fun (x : SavedCluster) => x.base / 256)).foldl max 0)

/-- What is kept of a group that goes: who it is, and its commands. -/
def Group.remains (x : Group) (queues : List (List Command)) : Group :=
  { Group.blank with grid := x.grid, index := x.index, ctx := x.ctx, rank := x.rank, cluster := 256, queues := queues, nextCmd := x.nextCmd }

/-- The group's resources are freed; with the last of its cluster, the cluster's (R130). Every queue is unblocked (R164); DESIGN CHOICE, log
entry 89: also that of a later span grid which R166 keeps blocked until the current one starts; it is blocked again when it is drawn. Stores
of its fibres that are not acknowledged yet go on under another number (R129). -/
def State.freeGroup (s : State) (c g : Nat) : State :=
  let l := (s.group c g).cluster
  let s :=
    if s.namesGroup c g then
      let v := s.workBase c + g
      (s.setGroup c v ((s.group c g).remains (List.replicate 7 []))).renameWork c g c v (fun w => match w with
        | .ended a k i => if a = c ∧ k = g then .ended c v i else w
        | w => w) (fun p => p)
    else s
  let s := s.updCore c (fun k => { k with
    groups := AMap.drop k.groups g, slots := k.slots.filter (fun (x : Nat × OperandSlot) => x.2.group != g),
    claims := k.claims.filter (· != g) })
  let s := s.updCluster c l (fun x => { x with slots := x.slots.filter (· != g) })
  let s := if (s.cluster c l).slots.isEmpty then s.updCore c (fun k => { k with clusters := AMap.drop k.clusters l }) else s
  { s with blocked := [] }.applySpad c

/-- GROUP_END (R130). -/
def execGroupEnd (core slot : Nat) (s : State) : Host.Outcome State Fault Refusal :=
  if s.groupOver core slot then
    if slot < 256 then .next (s.freeGroup core slot)
    else if s.namesGroup core slot then .next s
    else .next (s.updCore core (fun k => { k with groups := AMap.drop k.groups slot }))
  else .next s

/-! ## Fibres as they are created (R128) -/

/-- A fibre as it is created in a lane. -/
def laneFibre (g : Group) (slot lane : Nat) (pc : BitVec 48) : Fibre :=
  let r := g.roles.getD lane (.compute, 0)
  { Fibre.blank with
    pc := pc, window := List.replicate r.2 0, wbase := g.bases.getD lane 0, gslot := slot, lane := lane, role := r.1 }

/-! ## Losses (R105) -/

/-- The fibre of a saved group, by the number of its work and its lane. -/
def State.updSaved (s : State) (c v lane : Nat) (f : Fibre → Fibre) : State :=
  { s with saved := s.saved.map (fun (x : SavedCluster) => { x with
      fibres := x.fibres.map (fun (y : Nat × Fibre) =>
        if x.core = c ∧ x.base + y.2.gslot = v ∧ y.2.lane = lane then (y.1, f y.2) else y) }) }

/-- A lost store or command is counted in its fibre, or in the grid of a fibre that has ended. -/
def State.lose (s : State) (w : Waiter) (peer : Nat) : State :=
  match w with
  | .fibre c p => s.updFibre c p (fun f => { f with
      lossCount := min 65535 (f.lossCount + 1),
      lossId := some (match f.lossId with
        | some x => min x peer
        | none => peer) })
  | .ended c g _ => s.updGrid (s.group c g).grid (fun x => { x with
      losts := x.losts + 1,
      lostId := some (match x.lostId with
        | some y => min y peer
        | none => peer) })
  | .saved c v lane => s.updSaved c v lane (fun f => { f with
      lossCount := min 65535 (f.lossCount + 1),
      lossId := some (match f.lossId with
        | some x => min x peer
        | none => peer) })
  | _ => s

end Sys2Proof.Machine
end

