-- ==== Sys2Proof/Machine/Launch.lean ====
section
/-! DEFINITION. Launch records, LNCH, the lottery, dispatch, admission and the end of a grid (R8, R9, R156 to R168, R334). -/

namespace Sys2Proof.Machine

/-! ## Messages to the host (R389) -/

/-- A message on an MSI-X vector; a masked vector sets its Pending bit. DESIGN CHOICE, log entry 85: of the messages for which one bit is
pending, what the latest carries is kept. -/
def State.sendHost (s : State) (vector : Nat) (words : List Word) : State :=
  if s.plat.masked.getLsbD vector then
    { s with plat := { s.plat with msixPending := s.plat.msixPending ||| BitVec.ofNat 8 (2 ^ vector),
                                   msixHeld := AMap.put s.plat.msixHeld vector words } }
  else { s with messages := s.messages ++ [{ vector := vector, words := words }] }

/-! ## Translation records and version tables (R8, R110) -/

/-- The reserved bits of a translation record. -/
def recordOk (ws : List Word) : Bool :=
  let w (i : Nat) : Word := ws.getD i 0
  flag (w 0) 0 && zeroBits (w 0) 52 12 && zeroBits (w 0) 2 14 && zeroBits (w 1) 52 12 && zeroBits (w 1) 0 10
    && zeroBits (w 2) 52 12 && zeroBits (w 2) 0 6 && zeroBits (w 3) 57 7 && zeroBits (w 3) 0 21 && zeroBits (w 4) 36 28
    && w 5 == 0 && w 6 == 0 && w 7 == 0

/-- The residency handles of a context end, but one that is being moved: it ends with its move (R48, R50). -/
def State.endHandles (s : State) (ctx : BitVec 12) : State :=
  let stays (h : Handle) : Bool := h.ctx != ctx || s.move.any (fun m => m.seq == h.seq)
  let gone := (s.handles.filter (fun h => !stays h)).map (·.seq)
  if s.handles.all (fun h => h.ctx != ctx) then s
  else ({ s with handles := s.handles.filter stays, moves := s.moves.filter (fun m => decide (m.1 ∉ gone)) }).repin

/-- The device reads a context's translation record. DEDUCED, log entry 43: a record with V = 0 is that of a context torn down. -/
def State.readRecord (s : State) (ctx : BitVec 12) : State :=
  let r := s.devWords (fld s.plat.ctxtab 6 46 * 64 + 64 * ctx.toNat) 8
  let t := { r.1 with records := AMap.put r.1.records ctx.toNat r.2 }
  if flag (r.2.getD 0 0) 0 then t else t.endHandles ctx

/-- The cached record is valid and well formed. -/
def State.recordValid (s : State) (ctx : BitVec 12) : Bool := recordOk (AMap.getD s.records ctx.toNat [])

/-- Every die reads the context's version table. -/
def State.readVersions (s : State) (ctx : BitVec 12) : State :=
  let vtb := fld (s.record ctx 2) 6 46 * 64
  (List.range 16).foldl (fun s i =>
    let r := s.devWords (vtb + 32 * i) 4
    (List.range 4).foldl (fun s d => s.updDie d (fun x => { x with
      versions := AMap.put x.versions (ctx.toNat * 16 + i) { words := r.2 } })) r.1) s

/-- A group of the context is resident on a main core. -/
def State.residentCtx (s : State) (ctx : BitVec 12) : Bool :=
  s.cores.any (fun (k : Nat × Core) => !isControl k.1 && k.2.resident.any (fun (g : Nat × Group) => g.2.ctx == ctx))

/-- The reads that an admission makes (R8, R110). -/
def State.readAtAdmission (s : State) (ctx : BitVec 12) : State :=
  if s.residentCtx ctx then s
  else
    let s := s.readRecord ctx
    if s.recordValid ctx then s.readVersions ctx else s

/-! ## End-status records (R159) -/

/-- A live die, for an access of the package's own. -/
def State.liveDie (s : State) : Nat := ((List.range 4).find? (fun d => !(s.die d).dead)).getD 0

/-- The four words of an end-status record are written, word 0 last, if all of them can be; INT sends the message. DESIGN CHOICE,
log entry 66: at the end of an accepted grid too a record that cannot be written is not made, and its message is not sent. -/
def State.writeEnd (s : State) (ctx : BitVec 12) (r : List Word) (gid status losts peer drops : Nat) : State :=
  let v := Via.dev s.liveDie
  let va := Rcd.endst r
  let words : List Word := [wd (gid % 2 ^ 32 * 2 ^ 32 + 2 ^ 8 + status), wd (peer % 2 ^ 10 * 2 ^ 16 + min 65535 losts), s.gtb,
                            wd (min (2 ^ 32 - 1) drops)]
  let ps := (List.range 4).foldl (fun (q : State × Option (List Place)) i =>
    match q.2 with
    | none => q
    | some l => match q.1.resolveVia v ctx (va + wd (8 * i)) 8 .claim none false with
      | (s, .ok p) => (s, some (l ++ [p]))
      | (s, .error _) => (s, none)) (s, some [])
  match ps with
  | (s, some l) =>
    let s := (s.writePlaces v ctx ((l.zip words).drop 1 ++ (l.zip words).take 1)).1
    if Rcd.int r then s.sendHost 0 [wd gid] else s
  | (s, none) => s

/-! ## LNCH (R156 to R158, R334) -/

/-- LQ_TICKETSn (R161). -/
def State.tickets (s : State) (q : Nat) : Word := AMap.getD s.regs.tickets q 0x1000_0001

/-- A queue is open to a context. -/
def State.queueOpen (s : State) (q : Nat) (ctx : BitVec 12) : Bool :=
  flag (s.tickets q) 28 || fld (s.tickets q) 16 12 == ctx.toNat

/-- The reserved bits and ranges of a launch record (R157, R158 order 4); its code addresses are not checked. A bound grid has no
shape (R167). -/
def rcdOk (r : List Word) (bound : Bool) : Bool :=
  let w (i : Nat) : Word := Rcd.word r i
  zeroBits (w 0) 48 16 && zeroBits (w 1) 48 16 && zeroBits (w 2) 57 7
    && zeroBits (w 2) 0 8 && zeroBits (w 3) 57 7 && zeroBits (w 3) 1 4 && zeroBits (w 4) 60 4 && zeroBits (w 5) 53 11
    && zeroBits (w 5) 7 1 && zeroBits (w 6) 60 4 && zeroBits (w 7) 57 7 && zeroBits (w 7) 0 6 && zeroBits (w 8) 26 22
    && zeroBits (w 8) 10 6 && (List.range 7).all (fun i => w (9 + i) == 0)
    && (List.range 3).all (fun k => zeroBits (w 6) (20 * k + 8) 3 && ((Rcd.role r k).2.1 == 0 || (Rcd.role r k).1 != 3))
    && (Rcd.lanes r).length == Rcd.gw r && decide (Rcd.gscr r ≤ 1024) && decide (Rcd.cscr r ≤ 1024)
    && (bound || (Rcd.groups r != 0 && decide (Rcd.groups r ≤ 2 ^ 32) && Rcd.groups r % Rcd.clm r == 0))
    && (!Rcd.span r || decide (Rcd.rank r < Rcd.size r))

/-- The accelerator IDs of a span's ranks, read under the record's context; none where an entry cannot be read. -/
def State.readMembers (s : State) (d : Nat) (r : List Word) : State × Option (List Nat) :=
  if !Rcd.span r then (s, some [s.accid])
  else (List.range (Rcd.size r)).foldl (fun (q : State × Option (List Nat)) i =>
    match q.2 with
    | none => q
    | some l =>
      match q.1.resolveVia (Via.dev d) (Rcd.ctx r) (Rcd.spanmap r + wd (2 * i)) 2 .read none false with
      | (s, .ok p) =>
        let x := s.viaRead (Via.dev d) (Rcd.ctx r) p 2
        (x.1, some (l ++ [x.2 % 1024]))
      | (s, .error _) => (s, none)) (s, some [])

/-- Every ID of a span is a member of the pod (R79); the package's own entry is ignored. -/
def State.membersOk (s : State) (ids : List Nat) : Bool :=
  ids.all (fun i => i == s.accid || flag (AMap.getD s.fabric.peers i 0) 16)

/-- What LNCH.BIND names besides the record: header VA and idle interval. -/
abbrev BindArgs := Word × Nat

/-- The causes for which BIND is refused (R334): the queue header under the record's context. It must be readable; DESIGN CHOICE,
log entry 67: BOUND and GRID are then set whether or not the context may write there. -/
def State.bindHead (s : State) (d : Nat) (r : List Word) (b : BindArgs) : State × Option (QueueHead × List Place) :=
  match s.queueHead (Via.dev d) (Rcd.ctx r) .read b.1 with
  | (s, .ok (h, ps)) =>
    let ok := !h.bound && (Rcd.lanes r).all (fun l => decide (h.regs ≤ l.2)) && Rcd.clm r == 1
    (s, if ok then some (h, ps) else none)
  | (s, .error _) => (s, none)

/-- A grid as it joins its queue. -/
def newGrid (s : State) (r : List Word) (ids : List Nat) (b : Option Binding) : Grid :=
  let budget := fld ((AMap.getD s.regs.amplBudget (Rcd.ctx r).toNat 0).setWidth 64) 0 32
  { rcd := r, ctx := Rcd.ctx r, lq := Rcd.lq r, next := 0, returned := [], discarded := false, killed := false, prot := false,
    peerLost := false, dataLost := false, ampl := false, losts := 0, lostId := none, drops := 0, pushes := 0,
    budget := if budget = 0 then none else some budget, binding := b, coresRan := [], members := ids, ending := none }

/-- The groups of a COLOCATE record all fit at once on the package with every core empty (R158). DESIGN CHOICE, log entry 79: the cores of
islands that are off or drain and of dead dies count, here as in the one-cluster test. -/
def State.colocateFits (s : State) (r : List Word) : Bool :=
  let gid := s.nextGrid
  let e := s.emptied
  (State.trial { e with grids := [(gid, newGrid s r [] none)] } gid r 0 0 0 (Rcd.groups r)).isSome

/-- What LNCH finds: a refusal with its status and the context under which its record is written, FULL, or acceptance. -/
inductive LaunchEnd where
  | refused (s : State) (status : Nat) (ctx : BitVec 12)
  | full (s : State)
  | accept (s : State) (members : List Nat) (bound : Option (QueueHead × List Place))

/-- The checks of R158 in their order, on a record read by a thread of context `ctx` on die `d`. -/
def State.checkLaunch (s : State) (d : Nat) (ctx : BitVec 12) (r : List Word) (b : Option BindArgs) : LaunchEnd :=
  let gc := Rcd.ctx r
  if s.user ctx && ctx != gc then .refused s 0x06 ctx
  else
    let s := s.readRecord gc
    if !s.recordValid gc then .refused s 0x06 ctx
    else if !s.queueOpen (Rcd.lq r) gc then .refused s 0x06 gc
    else if !rcdOk r b.isSome then .refused s 0x06 gc
    else
      match s.readMembers d r with
      | (s, none) => .refused s 0x06 gc
      | (s, some ids) =>
        if !s.membersOk ids then .refused s 0x06 gc
        else
          let h : State × Bool × Option (QueueHead × List Place) := match b with
            | none => (s, true, none)
            | some b =>
              let x := s.bindHead d r b
              (x.1, x.2.isSome, x.2)
          let s := h.1
          if !h.2.1 then .refused s 0x06 gc
          else if !s.fitsEmpty r || (Rcd.colocate r && b.isNone && !s.colocateFits r) then
            .refused s 0x20 gc
          else if 256 ≤ (AMap.getD s.queues (Rcd.lq r) []).length ∨ 8192 ≤ (s.queues.map (fun (q : Nat × List Nat) => q.2.length)).foldl (· + ·) 0 then
            .full s
          else .accept s ids h.2.2

/-- LAUNCH and BIND: the result word. -/
def State.launch (s : State) (d : Nat) (ctx : BitVec 12) (r : List Word) (b : Option BindArgs) : State × Word :=
  match s.checkLaunch d ctx r b with
  | .full s => (s, wd (0x22 * 2 ^ 32 + 0xFFFF_FFFF))
  | .refused s st wctx =>
    let gid := s.nextGrid
    let s := { s with nextGrid := (gid + 1) % 2 ^ 32 }
    (s.writeEnd wctx r gid st 0 0 0, wd (st * 2 ^ 32 + gid))
  | .accept s ids h =>
    let gid := s.nextGrid
    let s := { s with nextGrid := (gid + 1) % 2 ^ 32 }
    let bind : Option Binding := match b, h with
      | some b, some h => some { queue := b.1, idle := wd b.2, lastPush := s.gtb, idleGone := false, tail := h.1.tail,
                                 unbound := false }
      | _, _ => none
    let s := match h with
      | some h => (s.writePlaces (Via.dev d) (Rcd.ctx r) ((h.2.drop 4).take 1 |>.map (fun p => (p, wd (2 ^ 32 + gid))))).1
      | none => s
    ({ s with grids := AMap.put s.grids gid (newGrid s r ids bind),
              queues := AMap.put s.queues (Rcd.lq r) (AMap.getD s.queues (Rcd.lq r) [] ++ [gid]) }, wd gid)

/-- A grid leaves its launch queue; a queue is blocked for its head only (R161). -/
def State.leaveQueue (s : State) (gid : Nat) : State :=
  { s with
    queues := s.queues.map (fun (q : Nat × List Nat) => (q.1, q.2.filter (· != gid))),
    blocked := s.blocked.filter (fun q => (AMap.getD s.queues q []).head? != some gid) }

/-- BOUND of a bound grid's queue is cleared, and GRID stays (R334). -/
def State.clearBound (s : State) (ctx : BitVec 12) (hva : Word) : State :=
  let v := Via.dev s.liveDie
  match s.queueHead v ctx .read hva with
  | (s, .ok (h, ps)) => (s.writePlaces v ctx ((ps.drop 4).take 1 |>.map (fun p => (p, wd h.grid)))).1
  | (s, .error _) => s

/-- UNBIND: the result word. -/
def State.unbind (s : State) (ctx : BitVec 12) (gid : Nat) : State × Word :=
  match s.grid gid with
  | some g =>
    match g.binding with
    | some b =>
      if b.unbound || (s.user ctx && g.ctx != ctx) then (s, wd (0x06 * 2 ^ 32 + gid))
      else
        let s := (s.clearBound g.ctx b.queue).leaveQueue gid
        (s.updGrid gid (fun g => { g with binding := some { b with unbound := true } }), wd gid)
    | none => (s, wd (0x06 * 2 ^ 32 + gid))
  | none => (s, wd (0x06 * 2 ^ 32 + gid))

/-- Checks of LNCH: control cores only (R212). -/
def lnchChecks (i : Instr) (o : OwnOp) : Checks :=
  { checksOf i o.ctl (regsDABC o.d o.a o.b o.c) with main := false }

/-- The launch record as an acquire load reads it (R92, R156): none while back-invalidations of its POD line are in progress. -/
def State.recordRead (s : State) (c p : Nat) (ctx : BitVec 12) (va : Word) : State × Option (Except AccessStop (List Word)) :=
  let s := s.settleFibre c p
  match s.resolveVia (Via.of c) ctx va 8 .read none false with
  | (s, .error x) => (s, some (.error x))
  | (s, .ok q) =>
    if s.podBusy q.dom q.pa then (s, none)
    else
      let r := s.wordsVia (Via.of c) ctx va 16
      (r.1.noteLoad c p q.dom q.pa (r.1.settleParts c q.dom [(q.pa, 128)]), some r.2)

/-- LNCH.LAUNCH and LNCH.BIND in a thread: the record is read under the thread's own context (R156). -/
def launchBody (o : OwnOp) (bind : Bool) (l : Lane) (s : State) : LaneEnd :=
  let va := l.reg s o.a
  if va.toNat % 128 ≠ 0 then .trap s { code := .misaligned, info0 := va, info1 := 0 }
  else
    match s.recordRead l.c l.p (l.ctx s) va with
    | (_, none) => .stall
    | (s, some (.error x)) => .stop s x .read
    | (s, some (.ok r)) =>
      let x := s.launch (dieOf l.c) (l.ctx s) r (if bind then some (l.reg s o.b, lo32 (l.reg s o.c)) else none)
      .go (l.put x.1 o.ctl.t o.d x.2)

def execLnchLaunch (o : OwnOp) (s : State) : Host.Outcome State Fault Refusal :=
  issue (lnchChecks (.lnchLaunch o) o) (launchBody o false) s

def execLnchBind (o : OwnOp) (s : State) : Host.Outcome State Fault Refusal :=
  issue (lnchChecks (.lnchBind o) o) (launchBody o true) s

def unbindBody (o : OwnOp) (l : Lane) (s : State) : LaneEnd :=
  let x := s.unbind (l.ctx s) (lo32 (l.reg s o.a))
  .go (l.put x.1 o.ctl.t o.d x.2)

def execLnchUnbind (o : OwnOp) (s : State) : Host.Outcome State Fault Refusal :=
  issue (lnchChecks (.lnchUnbind o) o) (unbindBody o) s

/-! ## The lottery (R161, R162, R167) -/

/-- One step of the generator. -/
def lotteryStep (x : BitVec 32) : BitVec 32 :=
  let x := x ^^^ (x <<< 13)
  let x := x ^^^ (x >>> 17)
  x ^^^ (x <<< 5)

/-- The queue drawn for d: the first whose tickets reach past it. -/
def drawFrom (s : State) : List Nat → Nat → Option Nat
  | [], _ => none
  | q :: qs, d =>
    let t := fld (s.tickets q) 0 16
    if d < t then some q else drawFrom s qs (d - t)

/-- The records that a bound queue holds from its head, up to `n`. -/
def State.recordsHeld (s : State) (ctx : BitVec 12) (hva : Word) (n : Nat) : State × Nat :=
  let v := Via.dev s.liveDie
  match s.queueHead v ctx .read hva with
  | (s, .error _) => (s, 0)
  | (s, .ok (h, _)) =>
    let r := (List.range n).foldl (fun (q : State × Nat × Bool) i =>
      if q.2.2 then q
      else
        let pos := h.head + wd i
        match q.1.queuePlace v ctx .read hva (h.slot pos) with
        | (s, .ok p) =>
          let x := s.viaRead v ctx p 8
          if wd x.2 = pos + 1 then (x.1, q.2.1 + 1, false) else (x.1, q.2.1, true)
        | (s, .error _) => (s, q.2.1, true)) (s, 0, false)
    (r.1, r.2.1)

/-- A queue takes part in the draw: it is neither empty nor blocked (R161, R167, R170). -/
def State.drawable (s : State) (q : Nat) : Bool :=
  match AMap.getD s.queues q [] with
  | [] => false
  | gid :: _ =>
    match s.grid gid with
    | none => false
    | some g =>
      decide (q ∉ s.blocked) && decide (g.ctx ∉ s.suspended) &&
        (match g.binding with
         | none => true
         | some b =>
           let n := (s.recordsHeld g.ctx b.queue (Rcd.gw g.rcd)).2
           decide (Rcd.gw g.rcd ≤ n) || (b.idle != 0 && (b.idleGone || decide (b.lastPush.toNat + b.idle.toNat ≤ s.gtb.toNat)) && decide (1 ≤ n)))

/-- Draw of a queue: the new generator value and the queue (R162). -/
def State.draw (s : State) : BitVec 32 × Option Nat :=
  let x := lotteryStep s.regs.lottery
  let l := (List.range Config.launchQueues).filter (fun q => s.drawable q)
  let t := (l.map (fun q => fld (s.tickets q) 0 16)).foldl (· + ·) 0
  (x, if t = 0 then l.head? else drawFrom s l (x.toNat % t))

/-- The clusters of a grid that are still to be dispatched, by first group: those returned first (R164). -/
def Grid.takeClusters (g : Grid) (n : Nat) : List Nat × Grid :=
  let clm := Rcd.clm g.rcd
  let back := g.returned.take n
  let total := if g.binding.isSome then g.next + 1 else Rcd.groups g.rcd
  let fresh := (List.range (n - back.length)).filterMap (fun i =>
    if g.next + i * clm + clm ≤ total then some (g.next + i * clm) else none)
  (back ++ fresh, { g with returned := g.returned.drop n, next := g.next + fresh.length * clm })

/-- Everything of a grid is dispatched. -/
def Grid.allOut (g : Grid) : Bool :=
  g.discarded || (g.returned.isEmpty && (match g.binding with
    | some b => b.unbound
    | none => decide (Rcd.groups g.rcd ≤ g.next)))

/-- A batch of a grid goes to the die with the most free slots, or to the die its plan names (R163 to R165). The reserved
grid of a context that is being saved sends nothing until RESTORE (R170). DESIGN CHOICE, log entry 89: no rule gives a bound grid's count of
undispatched groups; it sends one group per draw. -/
def State.sendBatch (s : State) (gid : Nat) (g : Grid) : State :=
  let planned := AMap.getD s.plans gid []
  let b : Nat × Nat := match planned with
    | p :: _ => (dieOf p.core, ((planned.takeWhile (fun x => dieOf x.core == dieOf p.core)).length) * Rcd.clm g.rcd)
    | [] => if g.binding.isSome then ((s.bestDie g.rcd).1, min 1 (s.bestDie g.rcd).2) else s.bestDie g.rcd
  if g.ctx ∈ s.suspended then { s with colocate := none }
  else if b.2 < Rcd.clm g.rcd then { s with blocked := g.lq :: s.blocked }
  else
    let t := g.takeClusters (min 64 b.2 / Rcd.clm g.rcd)
    { s.updGrid gid (fun _ => t.2) with
      batch := some { die := b.1, grid := gid, clusters := t.1 },
      colocate := if t.2.allOut then none else s.colocate }

/-- Every rank of a span has reported READY (R166). -/
def State.spanReady (s : State) (h : SpanHold) : Bool :=
  match s.grid h.grid with
  | some g => (List.range (Rcd.size g.rcd)).all (fun r => r == Rcd.rank g.rcd || decide ((h.spanId, r) ∈ s.readies))
  | none => false

/-- The head grid of a queue is a span grid. -/
def State.spanHead (s : State) (q : Nat) : Bool :=
  ((AMap.getD s.queues q []).head?.bind s.grid).any (fun g => g.binding.isNone && Rcd.span g.rcd)

/-- A span all of whose members are ready starts once no other grid's batches go out without a draw: its own then do, and the
queues of later span grids are no longer blocked by it (R165, R166). -/
def State.startSpan (s : State) : State :=
  match s.span with
  | some h =>
    if s.spanReady h && s.colocate.isNone then
      match s.grid h.grid with
      | some g => { s with span := none, colocate := some h.grid, spans := (h.spanId, g.members) :: s.spans,
                           readies := s.readies.filter (fun x => x.1 != h.spanId),
                           blocked := s.blocked.filter (fun q => !s.spanHead q) }
      | none => { s with span := none }
    else s
  | none => s

/-- A member of the grid's span, other than this package, is declared dead (R80, R166). -/
def State.spanLost (s : State) (g : Grid) : Bool :=
  g.members.any (fun i => i != s.accid && flag (AMap.getD s.fabric.peers i 0) 17)

/-- A grid that cannot start: nothing of it is dispatched, and what was set aside for it is free. -/
def State.dropGrid (s : State) (gid : Nat) (f : Grid → Grid) : State :=
  let s := s.updGrid gid (fun g => { f g with discarded := true, returned := [] })
  let s := { s with
    plans := AMap.drop s.plans gid, colocate := if s.colocate = some gid then none else s.colocate,
    span := s.span.filter (fun (h : SpanHold) => h.grid != gid),
    blocked := if s.span.any (fun (h : SpanHold) => h.grid == gid) then s.blocked.filter (fun q => !s.spanHead q) else s.blocked,
    batch := match s.batch with
      | some b => if b.grid = gid then none else some b
      | none => none }
  s.leaveQueue gid

/-- A span grid that holds the reservation and whose ranks have all reported READY: it only waits to be sent (R166). -/
def State.gangReady (s : State) (gid : Nat) : Bool := s.span.any (fun (h : SpanHold) => h.grid == gid && s.spanReady h)

/-- A grid that is placed as a whole has begun: it holds what was set aside for it and no reservation, or some of it went out. -/
def State.gangStarted (s : State) (gid : Nat) (g : Grid) : Bool :=
  s.span.all (fun (h : SpanHold) => h.grid != gid) && (!(AMap.getD s.plans gid []).isEmpty || decide (0 < g.next) || !g.returned.isEmpty)

/-- What the dispatcher does with the head grid of a drawn queue. A reserved grid that a SAVE stopped goes on. -/
def State.dispatchHead (s : State) (q : Nat) : State :=
  match AMap.getD s.queues q [] with
  | [] => s
  | gid :: _ =>
    match s.grid gid with
    | none => s
    | some g =>
      if g.binding.isNone && (Rcd.span g.rcd || Rcd.colocate g.rcd) then
        if s.gangStarted gid g then ({ s with colocate := some gid } : State).sendBatch gid g
        else if Rcd.span g.rcd && s.spanLost g && !s.gangReady gid then s.dropGrid gid (fun g => { g with peerLost := true })
        else if Rcd.span g.rcd && s.span.isSome then { s with blocked := q :: s.blocked }
        else
          match s.trial gid g.rcd 0 0 0 (Rcd.groups g.rcd) with
          | none => { s with blocked := q :: s.blocked }
          | some t =>
            if Rcd.span g.rcd then
              -- READY goes to every rank; the queue waits until all of them have reported
              ({ t with span := some { grid := gid, spanId := Rcd.spanId g.rcd, ready := [Rcd.rank g.rcd] },
                        blocked := q :: t.blocked }).startSpan
            else ({ t with colocate := some gid }).sendBatch gid g
      else s.sendBatch gid g

/-- The dispatcher may act: nothing is being placed, LOCK is set, and no checkpoint holds dispatch (R162, R387, R398). -/
def State.dispatchReady (s : State) : Bool := s.batch.isNone && flag s.plat.pkgCfg 63 && s.plat.ckptCut.isNone

/-- LOTTERY_DRAW (R162): one draw and its batch, or the next batch of a grid that is sent without a draw. -/
def execLotteryDraw (s : State) : Host.Outcome State Fault Refusal :=
  if !s.dispatchReady then .next s
  else
    match s.colocate with
    | some gid =>
      match s.grid gid with
      | some g => .next (s.sendBatch gid g)
      | none => .next { s with colocate := none }
    | none =>
      let s := s.startSpan
      if s.colocate.isSome then .next s
      else
      let x := s.draw
      match x.2 with
      | none => .next s
      | some q => .next (({ s with regs := { s.regs with lottery := x.1 } } : State).dispatchHead q)

/-- SPAN_READY (R166): a READY report of a rank arrives from a sender that R79 accepts; any other is dropped and
counted. No station is enabled before LOCK is set (R387). -/
def execSpanReady (rank : SpanRank) (spanId : BitVec 16) (s : State) : Host.Outcome State Fault Refusal :=
  if !flag s.plat.pkgCfg 63 then .next s
  else if !s.senderOk rank.sender.id rank.sender.inc then .next s.addStale
  else .next (({ s with readies := if (spanId, rank.rank) ∈ s.readies then s.readies else (spanId, rank.rank) :: s.readies } : State).startSpan)

/-- BOUND_IDLE_EXPIRY (R167): the idle interval of the bound grid at the head of a queue is over. A push that the
device did not make shows in TAIL. -/
def execBoundIdleExpiry (lq : Nat) (s : State) : Host.Outcome State Fault Refusal :=
  match (AMap.getD s.queues lq []).head? with
  | none => .next s
  | some gid =>
    match s.grid gid with
    | none => .next s
    | some g =>
      match g.binding with
      | none => .next s
      | some b =>
        match s.queueHead (Via.dev s.liveDie) g.ctx .read b.queue with
        | (s, .ok (h, _)) =>
          if h.tail ≠ b.tail then
            .next (s.updGrid gid (fun g => { g with binding := some { b with tail := h.tail, lastPush := s.gtb, idleGone := false } }))
          else if b.idle != 0 && decide (b.lastPush.toNat + b.idle.toNat ≤ s.gtb.toNat) then
            .next (s.updGrid gid (fun g => { g with binding := some { b with idleGone := true } }))
          else .next s
        | (s, .error _) => .next s

/-! ## Admission (R160, R164, R283) -/

/-- A group as it is admitted. -/
def newGroup (gid : Nat) (g : Grid) (index rank cluster : Nat) (x : GroupPlan) (block : List Word) : Group :=
  let r := g.rcd
  { grid := gid, index := index, ctx := g.ctx, rank := rank, cluster := cluster, width := Rcd.gw r, first := x.first,
    quads := Rcd.quads r, gregs := block, scratch := [], scratchSize := Rcd.gscr r * 1024, scratchBase := x.sbase,
    poolBytes := ((Rcd.lanes r).map (fun l => windowBytes l.2)).foldl (· + ·) 0, bases := x.bases, roles := Rcd.lanes r,
    barriers := [], queues := List.replicate 7 [], nextCmd := 0,
    stream := x.seq.map (fun q => { pc := Rcd.mentry r, m := block.take 15 ++ [wd index], st := .running, tags := [],
                                    units := [], chain := none, ctxNo := q, held := none, holdTill := 0 }) }

/-- The lanes that start: all of them, or those of the records taken and the helpers that fill their last quad (R167). -/
def startLanes (width : Nat) (quads : Bool) (records : Option (List (List Word))) : List (Nat × Bool × List Word) :=
  match records with
  | none => (List.range width).map (fun i => (i, false, []))
  | some rs =>
    (List.range width).filterMap (fun i =>
      if i < rs.length then some (i, false, rs.getD i [])
      else if quads && decide (i < (rs.length + 3) / 4 * 4) then some (i, true, [])
      else none)

/-- The words of a record loaded from w0 on. -/
def loadRecord (w : List Word) (ws : List Word) : List Word := (ws.take w.length) ++ w.drop ws.length

/-- Every group of a cluster is admitted; no fibre is placed before all are (R164). -/
def State.admitCluster (s : State) (gid : Nat) (g : Grid) (x : ClusterPlan) (block : List Word)
    (records : Option (List (List Word))) : State :=
  let c := x.core
  let pc := Rcd.code g.rcd
  let cl : Cluster := { slots := x.groups.map (fun (p : GroupPlan) => p.slot), scratch := [],
                        scratchSize := Rcd.cscr g.rcd * 1024, scratchBase := x.cbase, barrier := Barrier.blank }
  let s := (s.wakeCore c).updCore c (fun k => { k with clusters := AMap.put k.clusters x.id cl })
  let s := (x.groups.zip (List.range x.groups.length)).foldl (fun s p =>
    let y := newGroup gid g (x.first + p.2) p.2 x.id p.1 block
    let s := s.setGroup c p.1.slot y
    (startLanes y.width y.quads records).foldl (fun (s : State) l =>
      let f := laneFibre y p.1.slot l.1 pc
      s.setFibre c (p.1.first + l.1) { f with helper := l.2.1, window := loadRecord f.window l.2.2 }) s) s
  let s := s.updGrid gid (fun g => { g with coresRan := insertPlace g.coresRan c })
  x.groups.foldl (fun s p =>
    (startLanes (Rcd.gw g.rcd) (Rcd.quads g.rcd) records).foldl (fun (s : State) l => s.place c (p.first + l.1)) s) s

/-- The grid ends with PROTECTION: nothing more of it is dispatched (R9, R160). -/
def State.failGrid (s : State) (gid : Nat) : State := s.dropGrid gid (fun g => { g with prot := true })

/-- TAIL of the queues that feed grids, as software moves it: the idle interval counts from its latest change (R167). -/
def State.watchQueues (s : State) : State :=
  s.grids.foldl (fun (s : State) (g : Nat × Grid) => match g.2.binding with
    | some b =>
      match s.queueHead (Via.dev s.liveDie) g.2.ctx .read b.queue with
      | (t, .ok (h, _)) => if h.tail ≠ b.tail then t.notePush g.2.ctx b.queue h.tail else s
      | (_, .error _) => s
    | none => s) s

/-- Up to `n` records popped from a bound queue. -/
def State.popRecords (s : State) (d : Nat) (ctx : BitVec 12) (hva : Word) : Nat → State × List (List Word)
  | 0 => (s, [])
  | n + 1 =>
    match s.queuePop (Via.dev d) ctx hva (fun _ => none) with
    | .done s r _ _ =>
      let x := State.popRecords s d ctx hva n
      (x.1, r :: x.2)
    | .blocked s _ => (s, [])
    | .stop s _ => (s, [])

/-- The die has an admission that waits for a replay (R160). -/
def State.admissionWaits (s : State) (d : Nat) : Bool :=
  (s.die d).wait.any (fun (e : Nat × WaitEntry) => decide (Waiter.admission d ∈ e.2.waiters))

/-- The head cluster of a batch is done with. A grid whose last group is dispatched leaves its queue (R164). -/
def State.batchDone (s : State) (b : Batch) : State :=
  match b.clusters.drop 1 with
  | [] =>
    let s : State := { s with batch := none }
    if (s.grid b.grid).any (fun g => g.allOut) then s.leaveQueue b.grid else s
  | cs => { s with batch := some { b with clusters := cs } }

/-- A planned cluster no longer needs what was set aside for it. -/
def State.dropPlan (s : State) (gid first : Nat) : State :=
  let ps := (AMap.getD s.plans gid []).filter (fun (x : ClusterPlan) => x.first != first)
  { s with plans := if ps.isEmpty then AMap.drop s.plans gid else AMap.put s.plans gid ps }

/-- Back-invalidations of the block at GBLK are in progress: an acquire waits for them (R92, R160). -/
def State.blockBusy (s : State) (d : Nat) (g : Grid) : Bool :=
  match (s.resolveVia (Via.dev d) g.ctx (Rcd.gblk g.rcd) 8 .read none false).2 with
  | .ok p => s.podBusy p.dom p.pa || s.podBusy p.dom (p.pa + 128)
  | .error _ => false

/-- A cluster for which a core was found is admitted once GBLK has been read. -/
def State.admitPlan (s : State) (b : Batch) (g : Grid) (x : ClusterPlan) : State :=
  let s := s.readAtAdmission g.ctx
  if !s.recordValid g.ctx then s.failGrid b.grid
  else if s.blockBusy b.die g then s
  else
    match s.wordsVia (Via.dev b.die) g.ctx (Rcd.gblk g.rcd) 32 with
    | (s, .ok block) =>
      let r : State × Option (List (List Word)) := match g.binding with
        | some q =>
          let y := s.popRecords b.die g.ctx q.queue (Rcd.gw g.rcd)
          (y.1, some y.2)
        | none => (s, none)
      ((r.1.dropPlan b.grid x.first).admitCluster b.grid g x block r.2).batchDone b
    | (s, .error (.park kind key va)) =>
      let s := { s with plans := AMap.put s.plans b.grid ((AMap.getD s.plans b.grid []).filter (fun (y : ClusterPlan) => y.first != x.first) ++ [x]) }
      match s.joinWait b.die kind g.ctx key va (.admission b.die) true .read (Rcd.code g.rcd).toNat with
      | some (s, _) => s
      | none => s
    | (s, .error (.trap _)) => s.failGrid b.grid
    | (s, .error .wait) => s

/-- The die dispatcher places the head cluster of its batch (R164). -/
def State.placeHead (s : State) (die : Nat) : State :=
  match s.batch with
  | none => s
  | some b =>
    if b.die ≠ die ∨ s.admissionWaits die ∨ !flag s.plat.pkgCfg 63 ∨ s.plat.ckptCut.isSome then s
    else
      match b.clusters, s.grid b.grid with
      | first :: _, some g =>
        -- what was set aside on a core that admits nothing any more is given up (R39, R393)
        let kept := ((AMap.getD s.plans b.grid []).find? (fun (x : ClusterPlan) => x.first == first)).filter (fun x => s.admits x.core)
        let s := if kept.isNone then s.dropPlan b.grid first else s
        match kept.orElse (fun _ => s.planDie g.rcd first die) with
        | some x => s.admitPlan b g x
        | none => (s.updGrid b.grid (fun g => { g with returned := g.returned ++ [first] })).batchDone b
      | _, _ => { s with batch := none }

/-! ## Grid end (R168) -/

/-- The grid has a resident or saved group, or a cluster on its way. -/
def State.gridLives (s : State) (gid : Nat) : Bool :=
  s.cores.any (fun (k : Nat × Core) => !isControl k.1 && k.2.resident.any (fun (g : Nat × Group) => g.2.grid == gid)) || s.saved.any (fun x => x.grid == gid)
    || (match s.batch with
        | some b => b.grid == gid
        | none => false)

/-- The dirty words of the L1s of some cores, with their cores, in an order freely chosen: of two cores that hold one word dirty either may
come last (R43). -/
def State.dirtyWords (s : State) (cs : List Nat) : List (Nat × Nat) :=
  let ws := cs.flatMap (fun c => (s.core c).l1.flatMap (fun (l : Nat × L1Line) => (l.2.dirty l.1).map (fun wn => (c, wn))))
  shuffle (fun i => Config.freeNat s.freeCtr (2 ^ 40 + i)) ws.length ws

/-- Every dirty word of some cores goes to its point of coherence, CORE words to the die L2: the latest completion time (R168). -/
def State.pushAll (s : State) (cs : List Nat) : State × Word :=
  (s.dirtyWords cs).foldl (fun (r : State × Word) x =>
    let y := if (r.1.l1Line x.1 (x.2 / 32)).any (fun l => l.dom == .core) then r.1.l1PushWord x.1 x.2 else r.1.pushWord x.1 x.2
    (y.1, later r.2 y.2)) (s, cs.foldl (fun t c => later t (s.core c).pushTc) s.gtb)

/-- STATUS of a grid's end (R168). -/
def Grid.status (g : Grid) : Nat :=
  if g.killed then 0x21 else if g.prot then 0x06 else if g.peerLost then 0x0C else if g.dataLost then 0x0B
  else if g.ampl then 0x17 else 0

/-- GRID_END (R168): the write-backs, and then, once the GTB has passed their completion times, the record. -/
def execGridEnd (grid : Nat) (s : State) : Host.Outcome State Fault Refusal :=
  match s.grid grid with
  | none => .next s
  | some g =>
    if !g.allOut || s.gridLives grid then .next s
    else
      match g.ending with
      | none =>
        let r := s.pushAll g.coresRan
        .next (r.1.updGrid grid (fun g => { g with ending := some r.2 }))
      | some tc =>
        if s.gtb.toNat ≤ tc.toNat then .next s
        else
          let s := s.writeEnd g.ctx g.rcd grid g.status g.losts (g.lostId.getD 0) g.drops
          .next { s with grids := AMap.drop s.grids grid, plans := AMap.drop s.plans grid }

end Sys2Proof.Machine
end

