-- ==== Sys2Proof/Machine/Tiles.lean ====
section
/-! DEFINITION. Elements of operand slots and of accumulator tiles, and what an MMA adds (R187, R191 to R193, R286, R287, R296). -/

namespace Sys2Proof.Machine

/-! ## Element sizes and shapes (R191) -/

/-- Bytes of an element of a format; B4 codes are counted by the byte in a packed row. -/
def elemSize : Ty → Nat
  | .f64 | .i64 | .u64 => 8
  | .f32 | .i32 | .u32 => 4
  | .f16 | .bf16 => 2
  | _ => 1

/-- K of an operand tile. -/
def tileK : Ty → Nat
  | .f64 => 16
  | .f32 => 32
  | .f16 | .bf16 => 128
  | .b4 => 512
  | _ => 256

/-! ## Operand slots -/

/-- Code and scale of element `e` of a B4 slot: an element that an MMA has taken from a fill stands by itself, from byte 8,192 on. -/
def b4ElemAt (m : Memory) (e : Nat) : Nat × Nat :=
  let x := Memory.read m (8192 + 2 * e) 2
  if x = 0 then (bitsAt (Memory.read m (e / 2) 1) (4 * (e % 2)) 4, Memory.read m (4096 + e / 32) 1)
  else ((x - 1) % 16, (x - 1) / 16)

/-! ## Accumulator units (R287) -/

/-- The units of a tile of an accumulator type. -/
def tileUnits (ty : Ty) (t : Nat) : List Nat := if ty = .f64 then [t, t + 1] else [t]

/-- The tags of a tile's units. -/
def tileTags (ty : Ty) : List UnitTag :=
  match ty with
  | .f64 => [.f64Low, .f64High]
  | .i32 => [.i32]
  | _ => [.f32]

def Stream.tag (x : Stream) (u : Nat) : UnitTag := AMap.getD x.tags u .none
/-- The 32-bit word `i` of the units from `t` on. -/
def Stream.word (x : Stream) (t i : Nat) : BitVec 32 := AMap.getD (AMap.getD x.units (t + i / 256) []) (i % 256) 0
/-- A unit's word written; a zero is not listed. -/
def Stream.putWord (x : Stream) (t i : Nat) (v : BitVec 32) : Stream :=
  let u := AMap.getD x.units (t + i / 256) []
  { x with units := AMap.put x.units (t + i / 256) (if v = 0 then AMap.drop u (i % 256) else AMap.put u (i % 256) v) }

/-- Element `e` (16 i + n) of a tile of an accumulator type. -/
def Stream.elem (x : Stream) (ty : Ty) (t e : Nat) : Nat :=
  if ty = .f64 then (x.word t (2 * e)).toNat + 2 ^ 32 * (x.word t (2 * e + 1)).toNat else (x.word t e).toNat
def Stream.putElem (x : Stream) (ty : Ty) (t e v : Nat) : Stream :=
  if ty = .f64 then (x.putWord t (2 * e) (BitVec.ofNat 32 v)).putWord t (2 * e + 1) (BitVec.ofNat 32 (v / 2 ^ 32))
  else x.putWord t e (BitVec.ofNat 32 v)

/-- A tile's units take the tags of a type. -/
def Stream.tagTile (x : Stream) (ty : Ty) (t : Nat) : Stream :=
  { x with tags := ((tileUnits ty t).zip (tileTags ty)).foldl (fun (m : AMap UnitTag) p => AMap.put m p.1 p.2) x.tags }

/-! ## MMA and chains (R191 to R193, R296) -/

/-- The accumulator type of an operand format. -/
def accTy : Ty → Ty
  | .f64 => .f64
  | .i8 => .i32
  | _ => .f32

/-- The elements of k in one step. -/
def stepLen : Ty → Nat
  | .f64 => 4
  | .f32 => 8
  | _ => 32

/-- Element k of row r of a slot, as a value; B4 with its block's scale. -/
def slotVal (ty : Ty) (m : Memory) (r k : Nat) : FVal :=
  let e := r * tileK ty + k
  match ty with
  | .b4 => decodeF .f32 (b4Decode (b4ElemAt m e).2 (b4ElemAt m e).1)
  | t => decodeF (fmtOf t) (Memory.read m (e * elemSize t) (elemSize t))

/-- Element k of row r of an INT8 slot. -/
def slotInt (m : Memory) (r k : Nat) : Int := signedField 8 (Memory.read m (r * 256 + k) 1)

/-- Step `st` of an MMA on element (i, n): the element before and after. -/
def mmaOnce (tya tyb : Ty) (a b : Memory) (i n st c : Nat) : Nat :=
  let ks := (List.range (stepLen tya)).map (fun j => st * stepLen tya + j)
  if tya = .i8 then
    ((c : Int) + (ks.map (fun k => slotInt a i k * slotInt b n k)).foldl (· + ·) 0).emod (2 ^ 32) |>.toNat
  else mmaStep (fmtOf (accTy tya)) c (ks.map (fun k => (slotVal tya a i k, slotVal tyb b n k)))

/-- Steps per MMA. -/
def stepsOf (ty : Ty) : Nat := tileK ty / stepLen ty

/-- An MMA of an ORD chain: every element runs its steps in ascending k. -/
def Stream.mmaNow (x : Stream) (t : Nat) (tya tyb : Ty) (a b : Memory) : Stream :=
  (List.range 256).foldl (fun (y : Stream) e =>
    let v := (List.range (stepsOf tya)).foldl (fun c st => mmaOnce tya tyb a b (e / 16) (e % 16) st c) (y.elem (accTy tya) t e)
    y.putElem (accTy tya) t e v) x

/-- The end of an ANY chain: on each element, the steps of all its MMAs in a free order (R193). -/
def Stream.mmaAny (x : Stream) (free : Nat → Nat) (later : List LaterMma) : Stream :=
  let tiles := (later.map (fun q => (q.tile, accTy q.tya))).eraseDups
  tiles.foldl (fun (y : Stream) t =>
    (List.range 256).foldl (fun (y : Stream) e =>
      let steps := (later.filter (fun q => q.tile == t.1)).flatMap (fun q => (List.range (stepsOf q.tya)).map (fun st => (q, st)))
      let order := shuffle (fun j => free (((t.1 * 256) + e) * 2 ^ 20 + j)) steps.length steps
      let v := order.foldl (fun c p => mmaOnce p.1.tya p.1.tyb p.1.a p.1.b (e / 16) (e % 16) p.2 c) (y.elem t.2 t.1 e)
      y.putElem t.2 t.1 e v) y) x

end Sys2Proof.Machine
end

