-- ==== Sys2Proof/Machine/Record.lean ====
section
/-! DEFINITION. Save records (R171): their parts in the rule's order, and how a cluster is written to them and read from them. Where the
rule gives a part its contents and its size, and no more, the places of the contents in it are the model's (DESIGN CHOICE, log entry 49). -/

namespace Sys2Proof.Machine

/-! ## A cluster as its records hold it -/

/-- A cluster as its save records hold it: groups by number, fibres by place, entries with their fibres' places, and slots with their
group's number. -/
structure ClusterImage where
  ctx     : BitVec 12
  die     : Nat
  core    : Nat
  grid    : Nat
  rcd     : List Word
  at_     : Word
  cluster : Cluster
  groups  : AMap Group
  fibres  : AMap Fibre
  entries : List BlockEntry
  slots   : List OperandSlot

/-- What fixes the sizes of a record's parts. -/
structure RecordShape where
  rcd     : List Word
  entries : Nat
  first   : Bool
  slots   : Nat

/-- The bytes of the parts of a record, in their order. -/
def RecordShape.parts (x : RecordShape) : List Nat :=
  let stream := Rcd.mentry x.rcd != 0
  [256, 16 * Rcd.gw x.rcd, 16 * Rcd.gw x.rcd, ((Rcd.lanes x.rcd).map (fun l => windowBytes l.2)).foldl (· + ·) 0, 256, 272, 16 * x.entries,
   Rcd.gscr x.rcd * 1024, if x.first then Rcd.cscr x.rcd * 1024 else 0, if stream then 256 else 0, 8192 * x.slots,
   if stream then 65536 else 0]

/-- Where a part of a record starts. -/
def RecordShape.partAt (x : RecordShape) (i : Nat) : Nat := (x.parts.take i).foldl (· + ·) 0

/-- The size of a group's save record, a multiple of 4 KiB. -/
def RecordShape.size (x : RecordShape) : Nat := (x.partAt 12 + 4095) / 4096 * 4096

/-- Where the window of a lane starts among the windows of its group: they follow one another by lane (DEDUCED, log entry 49). -/
def windowAt (r : List Word) (lane : Nat) : Nat := (((Rcd.lanes r).take lane).map (fun l => windowBytes l.2)).foldl (· + ·) 0

/-! ## Words of the parts -/

/-- WAITK and ROLE as the descriptor holds them (R127). -/
def WaitKind.num : WaitKind → Nat
  | .none => 0
  | .groupBarrier => 1
  | .clusterBarrier => 2
  | .phase => 3
  | .rendezvous => 4
  | .token => 5
  | .trap => 6
def Role.num : Role → Nat
  | .compute => 0
  | .copy => 1
  | .epilogue => 2

/-- A bit as a number. -/
def bit01 (b : Bool) : Nat := if b then 1 else 0

/-- The fibre descriptor (R127). -/
def Fibre.descriptor (f : Fibre) : Word × Word :=
  (wd (f.pred.toNat * 2 ^ 48 + f.pc.toNat),
   wd (f.wbase % 2 ^ 20 * 2 ^ 44 + f.gslot % 256 * 2 ^ 36 + f.lane % 64 * 2 ^ 30 + f.role.num * 2 ^ 28 + bit01 f.helper * 2 ^ 27
     + f.waitk.num * 2 ^ 24 + f.barn % 16 * 2 ^ 20 + f.token % 4096 * 2 ^ 8 + (f.window.length - 1)))

/-- A fibre as its saved descriptor gives it again: PRED, PC, HELPER, WAITK and BARN (R127). -/
def Fibre.ofDescriptor (f : Fibre) (d0 d1 : Word) : Fibre :=
  { f with
    pred := BitVec.ofNat 16 (fld d0 48 16), pc := d0.setWidth 48, helper := flag d1 27, barn := fld d1 20 4,
    waitk := match fld d1 24 3 with
      | 1 => .groupBarrier
      | 2 => .clusterBarrier
      | 3 => .phase
      | 4 => .rendezvous
      | 6 => .trap
      | _ => .none }

/-- What a place holds, as a number: 0 where it holds no fibre. -/
def Life.num : Life → Nat
  | .live => 1
  | .kept => 2
  | .draining => 3
  | .stopped => 4
def Life.ofNum (n : Nat) : Option Life :=
  match n with
  | 1 => some .live
  | 2 => some .kept
  | 3 => some .draining
  | 4 => some .stopped
  | _ => none

/-- A flag that a clause names, as a number: 0 for none. -/
def flagNum : Option (Fin 12) → Nat
  | none => 0
  | some i => i.val + 1
def flagOf (n : Nat) : Option (Fin 12) := if h : n - 1 < 12 ∧ n ≠ 0 then some ⟨n - 1, h.1⟩ else none

/-- Completion flags, 6 bits each, FPSTAT, and what the fibre needs to go on where it stands (R129, R134, R154). -/
def Fibre.flagWords (f : Fibre) : Word × Word :=
  let n := (List.range 12).foldl (fun n i => n + f.flagCount i % 64 * 2 ^ (6 * i)) 0
  (wd n, wd (n / 2 ^ 64 + f.fpstat.toNat * 2 ^ 8 + f.life.num * 2 ^ 13 + bit01 f.resumed * 2 ^ 16 + bit01 f.blockQ * 2 ^ 17
    + bit01 f.target * 2 ^ 18 + flagNum f.sets.1 * 2 ^ 19 + flagNum f.sets.2 * 2 ^ 24))
def Fibre.ofFlagWords (f : Fibre) (w0 w1 : Word) : Fibre :=
  let n := w0.toNat + fld w1 0 8 * 2 ^ 64
  { f with
    flags := (List.range 12).map (fun i => bitsAt n (6 * i) 6), fpstat := BitVec.ofNat 5 (fld w1 8 5),
    life := (Life.ofNum (fld w1 13 3)).getD .live, resumed := flag w1 16, blockQ := flag w1 17, target := flag w1 18,
    sets := (flagOf (fld w1 19 5), flagOf (fld w1 24 5)) }

/-- A barrier: the arrivals of some lanes, the first arrival's GTB and the phase. `lane` says which lane a place is, if it counts. -/
def Barrier.words (b : Barrier) (lane : Nat → Option Nat) : List Word :=
  [wd ((b.arrived.filterMap lane).foldl (fun n i => n ||| 2 ^ i) 0),
   wd ((match b.first with
      | some x => x.1.toNat % 2 ^ 62
      | none => 0) + b.phase % 4 * 2 ^ 62)]
/-- Arrivals of lanes as places from `first` on. -/
def arrivals (w : Word) (first : Nat) : List Nat := ((List.range 64).filter (fun i => flag w i)).map (fun i => first + i)
/-- A barrier again, with the limit in force. -/
def barrierOf (arrived : List Nat) (w : Word) (limit : Word) : Barrier :=
  { phase := fld w 62 2, arrived := arrived, first := if arrived.isEmpty then none else some (wd (fld w 0 62), limit) }

/-- A block-table entry: ADDR, Q, YH, AGE and CUR, and which kind it is. -/
def BlockEntry.words (e : BlockEntry) : List Word :=
  [wd (e.addr.toNat + bit01 e.q * 2 ^ 48 + e.yh.toNat * 2 ^ 49 + bit01 e.rs * 2 ^ 51), wd (e.age % 2 ^ 32 + e.cur % 2 ^ 11 * 2 ^ 32)]
def entryOfWords (ctx : BitVec 12) (w0 w1 : Word) : BlockEntry :=
  { ctx := ctx, addr := w0.setWidth 48, q := flag w0 48, yh := BitVec.ofNat 2 (fld w0 49 2), wvec := [], age := fld w1 0 32, cur := fld w1 32 11,
    rs := flag w0 51 }

/-- What a stream does next, as a number. A park's token is dropped. -/
def StreamState.num : StreamState → Nat
  | .running | .parked _ => 0
  | .waitClaim => 1
  | .ended => 2
  | .stopped => 3
  | .waitPhase n => 16 + n
def StreamState.ofNum (n : Nat) : StreamState :=
  match n with
  | 1 => .waitClaim
  | 2 => .ended
  | 3 => .stopped
  | n => if 16 ≤ n then .waitPhase (n - 16) else .running

/-- Tags of accumulator units and of slots as numbers. -/
def UnitTag.num : UnitTag → Nat
  | .none => 0
  | .f32 => 1
  | .i32 => 2
  | .f64Low => 3
  | .f64High => 4
def UnitTag.ofNum (n : Nat) : UnitTag :=
  match n with
  | 1 => .f32
  | 2 => .i32
  | 3 => .f64Low
  | 4 => .f64High
  | _ => .none
def slotTagNum : Option SlotTag → Nat
  | none => 15
  | some t => bit01 t.isB * 16 + t.ty.code
def slotTagOf (n : Nat) : Option SlotTag := (Ty.ofCode (n % 16)).map (fun t => { isB := decide (16 ≤ n), ty := t })

/-- The claimed slots of a group, ascending. -/
def slotsUp (xs : List OperandSlot) : List OperandSlot := (List.range 64).filterMap (fun i => xs.find? (fun x => x.logical == i))

/-- The sequencer's 32 words: m0 to m15, PC and state, chain and tags of units and slots. -/
def Stream.words (t : Stream) (slots : List OperandSlot) : List Word :=
  let chain := match t.chain with
    | some k => 2 ^ 56 + bit01 k.any * 2 ^ 57
    | none => 0
  let written := ((t.chain.map (fun k => k.written)).getD []).foldl (fun n u => n ||| 2 ^ u) 0
  let tags := (List.range 64).foldl (fun n u => n + (t.tag u).num * 2 ^ (8 * u)) 0
  let held := slots.foldl (fun n x => n + 2 ^ x.logical) 0
  let kinds := (slots.zip (List.range slots.length)).foldl (fun n x => n + slotTagNum x.1.tag * 2 ^ (5 * x.2)) 0
  t.m.take 16 ++ [wd (t.pc.toNat + t.st.num * 2 ^ 48 + chain), wd written]
    ++ (List.range 8).map (fun i => wd (bitsAt tags (64 * i) 64)) ++ [wd held] ++ (List.range 5).map (fun i => wd (bitsAt kinds (64 * i) 64))

/-- The number in words from `i` on. -/
def numOfWords (ws : List Word) (i n : Nat) : Nat := (List.range n).foldl (fun k j => k + (ws.getD (i + j) 0).toNat * 2 ^ (64 * j)) 0

/-- A stream as its words and its accumulators' bytes give it again: 64 units of 256 words (R287). -/
def streamOfWords (ws : List Word) (acc : Memory) : Stream :=
  let w := ws.getD 16 0
  let tags := numOfWords ws 18 8
  { pc := w.setWidth 48, m := ws.take 16, st := .ofNum (fld w 48 8),
    tags := (List.range 64).filterMap (fun u => let t := UnitTag.ofNum (bitsAt tags (8 * u) 8); if t = .none then none else some (u, t)),
    units := (List.range 64).filterMap (fun u =>
      let m : AMap (BitVec 32) := (List.range 256).filterMap (fun i =>
        let v := Memory.read acc (1024 * u + 4 * i) 4
        if v = 0 then none else some (i, BitVec.ofNat 32 v))
      if m.isEmpty then none else some (u, m)),
    chain := if flag w 56 then some { any := flag w 57, written := (List.range 64).filter (fun u => flag (ws.getD 17 0) u), later := [] } else none,
    ctxNo := 0, held := none, holdTill := 0 }

/-- Accumulator units as bytes. -/
def Stream.accBytes (t : Stream) : Memory :=
  t.units.foldl (fun (m : Memory) (u : Nat × AMap (BitVec 32)) =>
    u.2.foldl (fun (m : Memory) (w : Nat × BitVec 32) => Memory.write m (1024 * u.1 + 4 * w.1) 4 w.2.toNat) m) []

/-- What is done of an ANY chain is in the units when the sequencer stops: steps that come later add to it (R193, R172). -/
def Stream.folded (t : Stream) (free : Nat → Nat) : Stream :=
  match t.chain with
  | some k => { t.mmaAny free k.later with chain := some { k with later := [] } }
  | none => t

/-! ## Writing a record -/

/-- The groups' fibres, entries and slots that belong to one of them. -/
def ClusterImage.fibresOf (x : ClusterImage) (g : Nat) : AMap Fibre := x.fibres.filter (fun (f : Nat × Fibre) => f.2.gslot == g)
def ClusterImage.entriesOf (x : ClusterImage) (g : Nat) : List BlockEntry :=
  x.entries.filter (fun e => e.wvec.any (fun p => (AMap.find (x.fibresOf g) p).isSome))
def ClusterImage.slotsOf (x : ClusterImage) (g : Nat) : List OperandSlot := slotsUp (x.slots.filter (fun y => y.group == g))

/-- The sizes of a group's record. The cluster's first group carries what is the cluster's own. -/
def ClusterImage.shape (x : ClusterImage) (g : Nat) : RecordShape :=
  { rcd := x.rcd, entries := (x.entriesOf g).length, first := x.cluster.slots.head? == some g, slots := (x.slotsOf g).length }

/-- The sizes of a cluster's records. -/
def ClusterImage.size (x : ClusterImage) : Nat := (x.groups.map (fun (y : Nat × Group) => (x.shape y.1).size)).foldl (· + ·) 0

/-- The header's words. -/
def ClusterImage.header (x : ClusterImage) (g : Nat) : List Word :=
  let y := AMap.getD x.groups g Group.blank
  [wd x.grid, wd (y.index % 2 ^ 32 + x.ctx.toNat * 2 ^ 32 + x.core % 160 * 2 ^ 44 + x.die * 2 ^ 52)] ++ (List.range 9).map (fun i => Rcd.word x.rcd i)
    ++ [x.at_, wd ((x.entriesOf g).length + bit01 (x.shape g).first * 2 ^ 32)]

/-- The barriers: 16 of the group, then the group's part of the cluster's. -/
def ClusterImage.barrierWords (x : ClusterImage) (g : Nat) : List Word :=
  let y := AMap.getD x.groups g Group.blank
  let lane (p : Nat) : Option Nat := (AMap.find (x.fibresOf g) p).map (fun f => f.lane)
  (List.range 16).flatMap (fun n => (AMap.getD y.barriers n Barrier.blank).words lane) ++ x.cluster.barrier.words lane

/-- Bytes that hold nothing: free values (log entry 7). -/
def State.putFree (s : State) (pa n : Nat) : State :=
  (List.range n).foldl (fun s i => s.devWrite (pa + i) 1 (Config.freeNat s.freeCtr i % 256)) s

/-- Bytes of a segment, of a slot or of accumulators to the area and back. -/
def State.putBytes (s : State) (pa : Nat) (m : Memory) (n : Nat) : State :=
  (List.range (n / 8)).foldl (fun s i => s.devWrite (pa + 8 * i) 8 (Memory.read m (8 * i) 8)) s
def State.takeBytes (s : State) (pa n : Nat) : State × Memory :=
  (List.range (n / 8)).foldl (fun (r : State × Memory) i =>
    let x := r.1.devRead (pa + 8 * i) 8
    (x.1, Memory.write r.2 (8 * i) 8 x.2)) (s, [])

/-- The record of a group is written at an address. -/
def State.putRecord (s : State) (x : ClusterImage) (g pa : Nat) : State :=
  let y := AMap.getD x.groups g Group.blank
  let sh := x.shape g
  let at_ (i : Nat) : Nat := pa + sh.partAt i
  let s := (s.putFree pa sh.size).devPut pa (x.header g)
  let s := (List.range y.width).foldl (fun (s : State) i => s.devPut (at_ 2 + 16 * i) [0, 0]) s
  let s := (x.fibresOf g).foldl (fun (s : State) (f : Nat × Fibre) =>
    ((s.devPut (at_ 1 + 16 * f.2.lane) [f.2.descriptor.1, f.2.descriptor.2]).devPut (at_ 2 + 16 * f.2.lane) [f.2.flagWords.1, f.2.flagWords.2]).devPut
      (at_ 3 + windowAt x.rcd f.2.lane) f.2.window) s
  let s := ((s.devPut (at_ 4) y.gregs).devPut (at_ 5) (x.barrierWords g)).devPut (at_ 6) ((x.entriesOf g).flatMap (fun e => e.words))
  let s := (s.putBytes (at_ 7) y.scratch y.scratchSize).putBytes (at_ 8) x.cluster.scratch (at_ 9 - at_ 8)
  let slots := x.slotsOf g
  let s := match y.stream with
    | some t => (s.devPut (at_ 9) (t.words slots)).putBytes (at_ 11) t.accBytes 65536
    | none => s
  (slots.zip (List.range slots.length)).foldl (fun (s : State) z => s.putBytes (at_ 10 + 8192 * z.2) z.1.bytes 8192) s

/-! ## Reading records -/

/-- What the header of a record says. -/
structure RecordHead where
  grid  : Nat
  index : Nat
  ctx   : BitVec 12
  die   : Nat
  core  : Nat
  at_   : Word
  shape : RecordShape

/-- The header of a record at an address, and the number of its slots. -/
def State.readHead (s : State) (pa : Nat) : State × RecordHead :=
  let r := s.devWords pa 13
  let w (i : Nat) : Word := r.2.getD i 0
  let rcd := (r.2.drop 2).take 9 ++ List.replicate 7 0
  let sh : RecordShape := { rcd := rcd, entries := fld (w 12) 0 16, first := flag (w 12) 32, slots := 0 }
  let b := if Rcd.mentry rcd = 0 then (r.1, 0) else r.1.devRead (pa + sh.partAt 9 + 208) 8
  let h : RecordHead :=
    { grid := fld (w 0) 0 32, index := fld (w 1) 0 32, ctx := BitVec.ofNat 12 (fld (w 1) 32 12), die := fld (w 1) 52 2,
      core := 160 * fld (w 1) 52 2 + fld (w 1) 44 8, at_ := w 11,
      shape := { sh with slots := ((List.range 64).filter (fun i => bitsAt b.2 i 1 == 1)).length } }
  (b.1, h)

/-- Records that follow one another from an address on. -/
def State.recordsFrom (s : State) : Nat → Nat → State × List (Nat × RecordHead)
  | 0, _ => (s, [])
  | n + 1, pa =>
    let r := s.readHead pa
    let q := State.recordsFrom r.1 n (pa + r.2.shape.size)
    (q.1, (pa, r.2) :: q.2)

/-- The records of a save area: as many as its header says, and no more than it has room for. -/
def State.areaRecords (s : State) : State × List (Nat × RecordHead) :=
  let base := fld s.plat.preBase 12 40 * 4096
  let r := s.devWord base
  r.1.recordsFrom (min (fld r.2 0 32) (s.plat.preSize.toNat - 1)) (base + 4096)

/-- Records of one cluster: those of its grid that name one of its groups. -/
def RecordHead.same (a b : RecordHead) : Bool :=
  a.ctx == b.ctx && a.grid == b.grid && a.at_ == b.at_ && a.index / Rcd.clm a.shape.rcd == b.index / Rcd.clm b.shape.rcd

/-- Group number `i` of an image, as its record holds it: its fibres are at the places from 64 i on. -/
def State.takeGroup (s : State) (x : ClusterImage) (i : Nat) (pa : Nat) (h : RecordHead) (limit : Nat → Word) : State × ClusterImage :=
  let r := h.shape.rcd
  let at_ (k : Nat) : Nat := pa + h.shape.partAt k
  let ds := s.devWords (at_ 1) (2 * Rcd.gw r)
  let fs := ds.1.devWords (at_ 2) (2 * Rcd.gw r)
  let lanes := (List.range (Rcd.gw r)).filter (fun l => (Life.ofNum (fld (fs.2.getD (2 * l + 1) 0) 13 3)).isSome)
  let fb := lanes.foldl (fun (q : State × AMap Fibre) l =>
    let y := (Rcd.lanes r).getD l (.compute, 0)
    let w := q.1.devWords (at_ 3 + windowAt r l) y.2
    let f : Fibre := { Fibre.blank with lane := l, gslot := i, role := y.1, window := w.2 }
    (w.1, AMap.put q.2 (64 * i + l) ((f.ofDescriptor (ds.2.getD (2 * l) 0) (ds.2.getD (2 * l + 1) 0)).ofFlagWords
      (fs.2.getD (2 * l) 0) (fs.2.getD (2 * l + 1) 0)))) (fs.1, x.fibres)
  let gr := fb.1.devWords (at_ 4) 32
  let ba := gr.1.devWords (at_ 5) 34
  let en := ba.1.devWords (at_ 6) (2 * h.shape.entries)
  let sc := en.1.takeBytes (at_ 7) (Rcd.gscr r * 1024)
  let cs := sc.1.takeBytes (at_ 8) (at_ 9 - at_ 8)
  let sq := cs.1.devWords (at_ 9) ((at_ 10 - at_ 9) / 8)
  let logical := (List.range 64).filter (fun n => flag (sq.2.getD 26 0) n)
  let sl := (logical.zip (List.range logical.length)).foldl (fun (q : State × List OperandSlot) z =>
    let b := q.1.takeBytes (at_ 10 + 8192 * z.2) 8192
    (b.1, q.2 ++ [{ group := i, logical := z.1, tag := slotTagOf (bitsAt (numOfWords sq.2 27 5) (5 * z.2) 5), bytes := b.2 }])) (sq.1, x.slots)
  let ac := sl.1.takeBytes (at_ 11) (if Rcd.mentry r = 0 then 0 else 65536)
  let bw (n : Nat) : Word := ba.2.getD n 0
  let y : Group :=
    { Group.blank with
      grid := h.grid, index := h.index, ctx := h.ctx, rank := h.index % Rcd.clm r, width := Rcd.gw r, first := 64 * i, quads := Rcd.quads r,
      gregs := gr.2, scratch := sc.2, scratchSize := Rcd.gscr r * 1024,
      poolBytes := ((Rcd.lanes r).map (fun l => windowBytes l.2)).foldl (· + ·) 0, roles := Rcd.lanes r,
      barriers := ((List.range 16).map (fun n => (n, barrierOf (arrivals (bw (2 * n)) (64 * i)) (bw (2 * n + 1)) (limit n)))).filter
        (fun (b : Nat × Barrier) => b.2 != Barrier.blank),
      stream := if Rcd.mentry r = 0 then none else some (streamOfWords sq.2 ac.2) }
  let here := arrivals (bw 32) (64 * i)
  let cl : Cluster :=
    { x.cluster with
      slots := x.cluster.slots ++ [i], scratchSize := Rcd.cscr r * 1024, scratch := if h.shape.first then cs.2 else x.cluster.scratch,
      barrier := { x.cluster.barrier with
        arrived := x.cluster.barrier.arrived ++ here, phase := if i = 0 then fld (bw 33) 62 2 else x.cluster.barrier.phase,
        -- the first group's record has the time of the first arrival
        first := if i = 0 then some (wd (fld (bw 33) 0 62), limit 16) else x.cluster.barrier.first } }
  (ac.1, { x with
    cluster := cl, groups := AMap.put x.groups i y, fibres := fb.2, slots := sl.2,
    entries := x.entries ++ (List.range h.shape.entries).map (fun k => entryOfWords h.ctx (en.2.getD (2 * k) 0) (en.2.getD (2 * k + 1) 0)) })

/-- The cluster that some records hold. -/
def State.takeCluster (s : State) (rs : List (Nat × RecordHead)) (limit : Nat → Nat → Word) : State × ClusterImage :=
  match rs with
  | [] => (s, { ctx := 0, die := 0, core := 0, grid := 0, rcd := [], at_ := 0, cluster := Cluster.blank, groups := [], fibres := [],
                entries := [], slots := [] })
  | (_, h) :: _ =>
    let x : ClusterImage := { ctx := h.ctx, die := h.die, core := h.core, grid := h.grid, rcd := h.shape.rcd, at_ := h.at_,
                              cluster := Cluster.blank, groups := [], fibres := [], entries := [], slots := [] }
    let r := (rs.zip (List.range rs.length)).foldl (fun (q : State × ClusterImage) z => q.1.takeGroup q.2 z.2 z.1.1 z.1.2 (limit z.1.2.index)) (s, x)
    let b := r.2.cluster.barrier
    (r.1, { r.2 with cluster := { r.2.cluster with barrier := { b with first := if b.arrived.isEmpty then none else b.first } } })

end Sys2Proof.Machine
end

