-- ==== Sys2Proof/Machine/Preempt.lean ====
section
/-! DEFINITION. PRE_CTL: SAVE, RESTORE and KILL of a context (R169 to R174). What R171 lists lies in the save records (Machine/Record.lean);
`saved` holds beside them the work that goes on, marks and losses. -/

namespace Sys2Proof.Machine

/-! ## KILL (R173) -/

/-- A place is dropped from every entry of its die's wait table; an entry without waiters is free (R170). -/
def State.dropWaiter (s : State) (d : Nat) (w : Waiter) : State :=
  let less (e : Nat × WaitEntry) : Nat × WaitEntry := (e.1, { e.2 with waiters := e.2.waiters.filter (· != w) })
  s.updDie d (fun x => { x with wait := (x.wait.map less).filter (fun (e : Nat × WaitEntry) => !e.2.waiters.isEmpty || e.2.till.isSome) })

/-- The places of a group's fibres, living or not. -/
def State.placesOf (s : State) (c g : Nat) : List Nat :=
  ((s.core c).fibres.filter (fun (f : Nat × Fibre) => f.2.gslot == g)).map (fun f => f.1)

/-- A fibre goes without running further: what it has issued completes (R173), and its losses pass to its grid. -/
def State.removeFibre (s : State) (c p : Nat) : State :=
  let s := ((((s.settleFibre c p).passLosses c p).detach c p).dropWaiter (dieOf c) (.fibre c p)).leaveFerry c p
  (s.leaveTable c p).updCore c (fun k => { k with fibres := AMap.drop k.fibres p })

/-- A group is killed: its fibres go and its stream stops; accepted commands complete (R124). -/
def State.killGroup (s : State) (c g : Nat) : State :=
  let s := (s.placesOf c g).foldl (fun s p => s.removeFibre c p) s
  let s := s.updGroup c g (fun x => { x with stream := x.stream.map (fun y => { y with st := .stopped }) })
  let s := s.dropWaiter (dieOf c) (.stream c g)
  s.updGrid (s.group c g).grid (fun x => { x with killed := true })

/-- The resident groups of a context on the main cores that a test accepts: core and slot, ascending. -/
def State.groupsOf (s : State) (ctx : BitVec 12) (inScope : Nat → Bool) : List (Nat × Nat) :=
  s.cores.flatMap (fun (k : Nat × Core) =>
    if isControl k.1 || !inScope k.1 then []
    else (k.2.resident.filter (fun (g : Nat × Group) => g.2.ctx == ctx)).map (fun g => (k.1, g.1)))

/-- Every grid of a context is removed from its queue and ends with KILLED. -/
def State.killGrids (s : State) (ctx : BitVec 12) : State :=
  let ids := (s.grids.filter (fun (g : Nat × Grid) => g.2.ctx == ctx)).map (fun g => g.1)
  ids.foldl (fun (s : State) gid =>
    let s := match s.batch with
      | some b => if b.grid = gid then s.dropWaiter b.die (.admission b.die) else s
      | none => s
    s.dropGrid gid (fun g => { g with killed := true })) s

/-- A saved cluster ends: what its fibres have issued completes as for ended ones, and their losses go to their grid (R124, R173). -/
def State.endSaved (s : State) (x : SavedCluster) : State :=
  let s := x.fibres.foldl (fun (s : State) (f : Nat × Fibre) => s.addLosses x.grid f.2) s
  x.groups.foldl (fun (s : State) (y : Nat × Group) =>
    let v := x.base + y.1
    let place (p : Nat) : Nat := if 8192 ≤ p then p - 4096 else p
    let s := s.renameWork x.core v x.core v (fun w => match w with
      | .saved a k i => if a = x.core ∧ k = v then .ended a k i else w
      | w => w) place
    if (AMap.find (s.core x.core).groups v).isSome then s.updGroup x.core v (fun g => { g with queues := g.movePlaces place }) else s)
    s

/-- KILL of a context in a scope. The records of its control threads stay: KILL ends groups. A context that a SAVE has suspended stays so
until RESTORE (R170), which places none of its killed groups. -/
def State.killScope (s : State) (ctx : BitVec 12) (whole : Bool) (inScope : Nat → Bool) : State :=
  let s := (s.groupsOf ctx inScope).foldl (fun s g => s.killGroup g.1 g.2) s
  let gone := s.saved.filter (fun x => x.ctx == ctx && inScope x.core)
  let s := gone.foldl (fun (s : State) x => (s.endSaved x).updGrid x.grid (fun g => { g with killed := true })) s
  let s := { s with
    saved := s.saved.filter (fun x => !(x.ctx == ctx && inScope x.core)),
    voided := s.voided ++ gone.flatMap (fun x => x.groups.map (fun (g : Nat × Group) => (x.grid % 2 ^ 32, g.2.index % 2 ^ 32, x.at_))) }
  if whole then
    let s := (List.range 4).foldl (fun (s : State) d => s.dropWaiter d (.trapPush ctx)) (s.killGrids ctx)
    { s with
      trapPushes := s.trapPushes.filter (fun x => x.ctx != ctx || flag (x.words.getD 1 0) 55),
      heldResumes := s.heldResumes.filter (fun x => x.1 != ctx) }
  else s

/-- KILL of package scope from a trap-table entry or a resume command: it waits while a SAVE or RESTORE of the context is
in progress (R173). -/
def State.killContext (s : State) (ctx : BitVec 12) : State :=
  match s.preOp with
  | some o => if o.ctx = ctx then { s with kills := if ctx ∈ s.kills then s.kills else ctx :: s.kills }
    else s.killScope ctx true (fun _ => true)
  | none => s.killScope ctx true (fun _ => true)

/-! ## PRE_CTL (R169) -/

/-- The fields of a PRE_CTL value as an operation. -/
def preFields (v : Word) : PreOp :=
  { ctx := BitVec.ofNat 12 (fld v 40 12), op := fld v 24 4, scope := fld v 28 2, die := fld v 30 2, core := fld v 32 8, placed := [] }

/-- A write of PRE_CTL takes the RW fields, clears ERR where a 1 is written to it, and keeps PARTIAL. -/
def State.putPre (s : State) (v : Word) : State :=
  let old := s.plat.preCtl
  let err := flag old 7 && !flag v 7
  let keep := wd (fld v 24 28 * 2 ^ 24 + (if flag old 8 then 2 ^ 8 else 0) + (if err then 2 ^ 7 else 0))
  { s with plat := { s.plat with preCtl := keep } }

/-- ERR of PRE_CTL. -/
def State.preErr (s : State) : State := { s with plat := { s.plat with preCtl := s.plat.preCtl ||| 0x80 } }

/-- GO is ignored: BUSY, SCOPE 11 or a reserved OP. -/
def State.preRefused (s : State) (v : Word) : Bool :=
  let o := preFields v
  s.preOp.isSome || o.scope == 3 || !(o.op == 1 || o.op == 2 || o.op == 3)

/-- An operation is over: BUSY clears, and a KILL that waited acts (R173). -/
def State.preDone (s : State) (ctx : BitVec 12) : State :=
  let s := { s with preOp := none }
  if ctx ∈ s.kills then ({ s with kills := s.kills.filter (· != ctx) } : State).killScope ctx true (fun _ => true) else s

/-- The admission of a batch's head cluster has begun: it waits for GBLK, or a core is set aside for it (R160). -/
def State.admissionBegun (s : State) (b : Batch) (g : Grid) : Bool :=
  s.admissionWaits b.die || (!Rcd.colocate g.rcd && !Rcd.span g.rcd && !(AMap.getD s.plans b.grid []).isEmpty)

/-- The clusters of a context's batch whose admission has not begun go back to the dispatcher (R164, R170). -/
def State.recallBatch (s : State) (ctx : BitVec 12) : State :=
  match s.batch with
  | none => s
  | some b =>
    match s.grid b.grid with
    | none => s
    | some g =>
      if g.ctx ≠ ctx then s
      else
        let n := if s.admissionBegun b g then 1 else 0
        { s.updGrid b.grid (fun g => { g with returned := b.clusters.drop n ++ g.returned }) with
          batch := if n = 0 then none else some { b with clusters := b.clusters.take n } }

/-- The dispatchers admit no new group of a context, and entries that are no longer eligible have AGE 0 (R138, R170, R172). -/
def State.suspend (s : State) (o : PreOp) : State :=
  let s : State := { s.recallBatch o.ctx with
    preOp := some o, suspended := if o.ctx ∈ s.suspended then s.suspended else o.ctx :: s.suspended }
  s.cores.foldl (fun (s : State) (k : Nat × Core) => s.restAges k.1) s

/-- GO with an operation that is accepted. -/
def State.preStart (s : State) (v : Word) : State :=
  let o := preFields v
  match o.op with
  | 1 => ({ s with plat := { s.plat with preCtl := setFld s.plat.preCtl 8 1 0 } } : State).suspend o
  | 2 => s.suspend o
  | _ => s.killScope o.ctx (o.scope == 0) (fun c => o.covers c)

/-- A write of PRE_CTL. -/
def State.writePre (s : State) (v : Word) : State :=
  let t := s.putPre v
  if !flag v 0 then t
  else if s.preRefused v then t.preErr
  else t.preStart v

/-- PRE_SAVE, PRE_RESTORE and PRE_KILL are writes of PRE_CTL with GO. -/
def execPreSave (value : Word) (s : State) : Host.Outcome State Fault Refusal :=
  if flag value 0 && fld value 24 4 == 1 then .next (s.writePre value) else .next s
def execPreRestore (value : Word) (s : State) : Host.Outcome State Fault Refusal :=
  if flag value 0 && fld value 24 4 == 2 then .next (s.writePre value) else .next s
def execPreKill (value : Word) (s : State) : Host.Outcome State Fault Refusal :=
  if flag value 0 && fld value 24 4 == 3 then .next (s.writePre value) else .next s

/-! ## SAVE (R170, R171) -/

/-- A command that reads or writes scratchpad: a save waits for it. One that touches only global memory goes on (R170). -/
def CommandBody.local_ : CommandBody → Bool
  | .copy _ path _ _ => path != 0
  | .copyPeer _ path _ _ _ => path / 2 == 1
  | .fill _ scratch _ _ _ _ | .halo _ scratch _ _ _ => scratch
  | .ared .. | .bcast .. | .vpub .. | .vrecl .. | .rsub .. | .sample .. | .flip .. | .join .. => false

/-- The context's groups in the scope are quiet: no ferry in flight, no long-latency result pending, no command left that touches
their scratchpad, and no cluster of the context half admitted. -/
def State.saveReady (s : State) (o : PreOp) : Bool :=
  (s.groupsOf o.ctx (fun c => o.covers c)).all (fun x =>
    (s.core x.1).ferries.all (fun (f : Nat × Ferry) => f.2.lanes.all (fun p => (s.fibre x.1 p).gslot != x.2))
      && (s.placesOf x.1 x.2).all (fun p => (s.fibre x.1 p).pending.isEmpty)
      && (s.group x.1 x.2).queues.all (fun q => q.all (fun (y : Command) => !y.body.local_)))
    && (match s.batch with
      | some b => !(s.grid b.grid).any (fun g => g.ctx == o.ctx)
      | none => true)

/-- A fibre as it is saved: results are in the banks, a token and where a maintenance word would go on are dropped, fetched words are gone
(R149, R57, R59, R170). -/
def Fibre.saved (f : Fibre) : Fibre :=
  let f := { f with trans := [], view := [], query := none, maint := none, early := [] }
  if f.waitk = .token then
    match f.after with
    | some (k, n) => { f with waitk := k, barn := n, token := 0, after := none, resumed := false }
    | none => { f with waitk := .none, token := 0, resumed := true }
  else f

/-- A cluster of a core as its save records hold it. -/
def State.imageOf (s : State) (c l : Nat) : ClusterImage :=
  let k := s.core c
  let cl := s.cluster c l
  let gs := k.groups.filter (fun (g : Nat × Group) => decide (g.1 ∈ cl.slots))
  let fs := k.fibres.filter (fun (f : Nat × Fibre) => decide (f.2.gslot ∈ cl.slots))
  let gid := (gs.head?.map (fun g => g.2.grid)).getD 0
  { ctx := (gs.head?.map (fun g => g.2.ctx)).getD 0, die := dieOf c, core := c, grid := gid,
    rcd := ((s.grid gid).map (fun g => g.rcd)).getD [], at_ := s.gtb, cluster := cl,
    groups := gs.map (fun (g : Nat × Group) => (g.1, { g.2 with
      stream := g.2.stream.map (fun t => t.folded (fun j => Config.freeNat s.freeCtr (2 ^ 36 * (1 + 256 * c + g.1) + j))) })),
    fibres := fs.map (fun (f : Nat × Fibre) => (f.1, f.2.saved)),
    entries := (k.table.map (fun (e : Nat × BlockEntry) => e.2)).filter (fun e => e.wvec.any (fun p => (AMap.find fs p).isSome)),
    slots := (k.slots.filter (fun (y : Nat × OperandSlot) => decide (y.2.group ∈ cl.slots))).map (fun y => y.2) }

/-! ## What is kept beside the records -/

/-- Who a group is, and the limits that its barriers' phases run under. -/
def Group.kept (g : Group) : Group := { Group.blank with grid := g.grid, index := g.index, ctx := g.ctx, rank := g.rank, barriers := g.barriers }

/-- Of a fibre: which it is, its losses, its marks and notices, its batches, and the traps that are due. -/
def Fibre.kept (f : Fibre) : Fibre :=
  { Fibre.blank with
    lane := f.lane, gslot := f.gslot, life := f.life, helper := f.helper, waitk := f.waitk, lossCount := f.lossCount, lossId := f.lossId,
    settle := f.settle, notices := f.notices, openBatch := f.openBatch, closedBatches := f.closedBatches, due := f.due, pushTc := f.pushTc,
    biLines := f.biLines }

/-- A fibre that comes back gets what was kept of it. It issues nothing before the write-backs and its latest load have settled (R95, R108). -/
def Fibre.withKept (f k : Fibre) (tc : Word) : Fibre :=
  { f with
    lossCount := k.lossCount, lossId := k.lossId, settle := k.settle, notices := k.notices, openBatch := k.openBatch,
    closedBatches := k.closedBatches, due := k.due, pushTc := k.pushTc, biLines := k.biLines, holdTill := later tc k.settle }

/-- What is kept of a cluster. -/
def State.keepCluster (s : State) (x : ClusterImage) (tc : Word) : SavedCluster :=
  { ctx := x.ctx, core := x.core, grid := x.grid, at_ := x.at_, base := s.workBase x.core, tc := tc,
    groups := x.groups.map (fun (g : Nat × Group) => (g.1, g.2.kept)), barrier := x.cluster.barrier,
    fibres := x.fibres.map (fun (f : Nat × Fibre) => (f.1, f.2.kept)) }

/-! ## Leaving the core -/

/-- What the fibres of a group that leaves its core have issued goes on under another number (R105, R170). -/
def State.keepWork (s : State) (c g v : Nat) : State :=
  let fs := (s.core c).fibres.filter (fun (f : Nat × Fibre) => f.2.gslot == g)
  let place (p : Nat) : Nat := match AMap.find fs p with
    | some f => 8192 + f.lane
    | none => p
  let s := s.setGroup c v ((s.group c g).remains ((s.group c g).movePlaces place))
  s.renameWork c g c v (fun w => match w with
    | .fibre a p => if a = c then (match AMap.find fs p with
        | some f => .saved c v f.lane
        | none => w) else w
    | .command a k id => if a = c ∧ k = g then .command c v id else w
    | .ended a k i => if a = c ∧ k = g then .ended c v i else w
    | w => w) place

/-- A saved cluster leaves its core. Its resources are free, but no queue is unblocked by it: its groups have not ended (R164). -/
def State.unloadCluster (s : State) (c l base : Nat) : State :=
  let slots := (s.cluster c l).slots
  let s := slots.foldl (fun s g => (s.placesOf c g).foldl (fun s p => s.dropWaiter (dieOf c) (.fibre c p)) s) s
  let s := slots.foldl (fun s g => s.keepWork c g (base + g)) s
  let s := slots.foldl (fun s g => (s.placesOf c g).foldl (fun s p =>
    (s.leaveTable c p).updCore c (fun k => { k with fibres := AMap.drop k.fibres p })) s) s
  let s := slots.foldl (fun s g => (s.dropWaiter (dieOf c) (.stream c g)).updCore c (fun k => { k with
    groups := AMap.drop k.groups g, slots := k.slots.filter (fun (y : Nat × OperandSlot) => y.2.group != g),
    claims := k.claims.filter (· != g) })) s
  (s.updCore c (fun k => { k with clusters := AMap.drop k.clusters l })).applySpad c

/-- The units that are saved together: each cluster, or every cluster of a COLOCATE or span grid (R170); core and cluster
number. -/
def State.saveUnits (s : State) (o : PreOp) : List (List (Nat × Nat)) :=
  let gs := s.groupsOf o.ctx (fun c => o.covers c)
  let all := s.groupsOf o.ctx (fun _ => true)
  let key (x : Nat × Nat) : Nat × Nat := (x.1, (s.group x.1 x.2).cluster)
  let together (x : Nat × Nat) : Bool := (s.grid (s.group x.1 x.2).grid).any (fun g => Rcd.colocate g.rcd || Rcd.span g.rcd)
  gs.foldl (fun (us : List (List (Nat × Nat))) x =>
    if us.any (fun u => decide (key x ∈ u)) then us
    else
      let same := if together x then (all.filter (fun y => (s.group y.1 y.2).grid == (s.group x.1 x.2).grid)).map key else [key x]
      us ++ [same.foldl (fun u k => if k ∈ u then u else u ++ [k]) []]) []

/-- The units of clusters whose records fit the area, in order, and whether one did not fit for want of area. A unit of which a part
lies outside the scope is not saved. -/
def State.savePlan (s : State) (o : PreOp) (size : Nat) : List (Nat × Nat) × Nat × Bool :=
  (s.saveUnits o).foldl (fun (r : List (Nat × Nat) × Nat × Bool) u =>
    let n := u.foldl (fun n k => n + (s.imageOf k.1 k.2).size) 0
    if !u.all (fun k => o.covers k.1) then r
    else if size < r.2.1 + n then (r.1, r.2.1, true)
    else (r.1 ++ u, r.2.1 + n, r.2.2)) ([], 4096, false)

/-- A group and its cluster come before another, by core and then by slot (R170). -/
def insertRecord (x : Nat × Nat × Nat) : List (Nat × Nat × Nat) → List (Nat × Nat × Nat)
  | [] => [x]
  | y :: ys => if x.1 < y.1 ∨ x.1 = y.1 ∧ x.2.1 < y.2.1 then x :: y :: ys else y :: insertRecord x ys

/-- The records that fit the area are written in ascending order of die, core and group slot; the other groups stay resident, and
PARTIAL says so. PRE_BASE and PRE_SIZE are read here: whether a write of them while BUSY is 1 applies to the operation in progress is left
open (DESIGN CHOICE, log entry 80: it does, for what is not written or placed yet). -/
def State.saveAll (s : State) (o : PreOp) : State :=
  let base := fld s.plat.preBase 12 40 * 4096
  let gs := s.groupsOf o.ctx (fun c => o.covers c)
  let cores := (gs.map (fun x => x.1)).foldl insertPlace []
  let wb := (s.dirtyWords cores).foldl (fun (r : State × Word) x =>
    let y := r.1.l1PushWord x.1 x.2
    (y.1, later r.2 y.2)) (s, s.gtb)
  let plan := wb.1.savePlan o (s.plat.preSize.toNat * 4096)
  let order := (plan.1.flatMap (fun k => (wb.1.cluster k.1 k.2).slots.map (fun g => (k.1, g, k.2)))).foldl (fun l x => insertRecord x l) []
  let done := order.foldl (fun (r : State × Nat) x =>
    let y := wb.1.imageOf x.1 x.2.2
    (r.1.putRecord y x.2.1 (base + r.2), r.2 + (y.shape x.2.1).size)) (wb.1, 4096)
  let t := plan.1.foldl (fun (s : State) k =>
    let x := s.keepCluster (s.imageOf k.1 k.2) wb.2
    let s := s.unloadCluster k.1 k.2 x.base
    { s with saved := s.saved ++ [x] }) done.1
  let t := (t.devWrite base 8 order.length).devWrite (base + 8) 8 done.2
  if plan.2.2 then { t with plat := { t.plat with preCtl := setFld t.plat.preCtl 8 1 1 } } else t

/-- SAVE_RECORD_WRITE (R170, R171): once the groups are quiet, the records are written and the save is over. -/
def execSaveRecordWrite (s : State) : Host.Outcome State Fault Refusal :=
  match s.preOp with
  | some o => if o.op == 1 && s.saveReady o then .next ((s.saveAll o).preDone o.ctx) else .next s
  | none => .next s

/-! ## RESTORE (R172) -/

/-- The context's region table holds a CORE or DIE entry: its groups go back to their origin die (R108). -/
def State.narrowRegions (s : State) (ctx : BitVec 12) : Bool :=
  let rtb := fld (s.record ctx 1) 10 42 * 1024
  (List.range 64).any (fun i =>
    let w := (s.devWord (rtb + 16 * i)).2
    flag w 0 && decide (fld w 1 3 < 2))

/-- A barrier of a cluster that comes back: its fibres have new places, and its first arrival moves by the suspension time. -/
def Barrier.shift (b : Barrier) (by_ : Word) (move : Nat → Nat) : Barrier :=
  { b with arrived := (b.arrived.map move).foldl insertPlace [],
           first := b.first.map (fun x => (x.1 + by_, x.2)) }

/-- The block-table entries of a saved cluster come back with their Q, YH, AGE and CUR, for its fibres to join (R171, R172): entries that
are free go to the held fibres first (R135), and where none is left, the fibres are held. -/
def State.restoreEntries (s : State) (c : Nat) (es : List BlockEntry) : State :=
  es.foldl (fun (s : State) e =>
    match (s.core c).entryAt e.ctx e.addr e.rs, (s.core c).freeEntry with
    | none, some i => s.updCore c (fun k => { k with table := AMap.put k.table i { e with wvec := [] } })
    | _, _ => s) (s.refill c)

/-- What a saved fibre has issued, and its commands, are named by its new place (R91, R103, R105). -/
def State.bringWork (s : State) (c v c' g' first : Nat) : State :=
  let place (p : Nat) : Nat := if 8192 ≤ p then first + (p - 8192) else p
  let s := s.renameWork c v c' g' (fun w => match w with
    | .saved a k lane => if a = c ∧ k = v then .fibre c' (first + lane) else w
    | .command a k id => if a = c ∧ k = v then .command c' g' id else w
    | .ended a k i => if a = c ∧ k = v then .ended c' g' i else w
    | w => w) place
  match AMap.find (s.core c).groups v with
  | some y =>
    let s := s.updCore c (fun k => { k with groups := AMap.drop k.groups v })
    s.updGroup c' g' (fun z => { z with queues := y.movePlaces place, nextCmd := y.nextCmd })
  | none => s

/-- A grid of which a save area holds groups and the device knows nothing any more (R399): all of it has been dispatched. -/
def State.knowGrid (s : State) (x : ClusterImage) : State :=
  match s.grid x.grid with
  | some _ => s
  | none =>
    { s with
      nextGrid := max s.nextGrid (x.grid + 1) % 2 ^ 32,
      grids := AMap.put s.grids x.grid
        { rcd := x.rcd, ctx := x.ctx, lq := Rcd.lq x.rcd, next := Rcd.groups x.rcd, returned := [], discarded := false,
          killed := false, prot := false, peerLost := false, dataLost := false, ampl := false, losts := 0,
          lostId := none, drops := 0, pushes := 0, budget := none, binding := none, coresRan := [],
          members := [s.accid], ending := none } }

/-- A saved cluster is placed whole on a core: its records' image, with what was kept beside them. -/
def State.restoreCluster (s : State) (x : ClusterImage) (kept : Option SavedCluster) (pl : ClusterPlan) : State :=
  let c := pl.core
  let gone := s.gtb - x.at_
  let tc : Word := (kept.map (fun k => k.tc)).getD 0
  let pairs := x.groups.zip pl.groups
  let planOf (g : Nat) : Option GroupPlan := (pairs.find? (fun (y : (Nat × Group) × GroupPlan) => y.1.1 == g)).map (fun y => y.2)
  let slotOf (g : Nat) : Nat := ((planOf g).map (fun y => y.slot)).getD 0
  let placeOf (p : Nat) : Nat := ((planOf (p / 64)).map (fun y => y.first)).getD 0 + p % 64
  let cl : Cluster := { x.cluster with
    slots := pl.groups.map (fun (p : GroupPlan) => p.slot), scratchBase := pl.cbase,
    barrier := x.cluster.barrier.shift gone placeOf }
  -- the slot under which a group was saved, where the device knows it
  let oldSlot (index : Nat) : Option Nat := (kept.bind (fun k => k.groups.find? (fun (y : Nat × Group) => y.2.index == index))).map (fun y => y.1)
  let keptOf (index lane : Nat) : Fibre :=
    (kept.bind (fun k => k.fibres.find? (fun (f : Nat × Fibre) => oldSlot index == some f.2.gslot && f.2.lane == lane))).elim Fibre.blank (fun f => f.2)
  let s := (s.wakeCore c).updCore c (fun k => { k with clusters := AMap.put k.clusters pl.id cl, icache := [] })
  let s := pairs.foldl (fun (s : State) (y : (Nat × Group) × GroupPlan) =>
    let g := y.1.2
    let s := s.setGroup c y.2.slot { g with
      cluster := pl.id, first := y.2.first, bases := y.2.bases, scratchBase := y.2.sbase,
      barriers := g.barriers.map (fun (b : Nat × Barrier) => (b.1, b.2.shift gone placeOf)),
      stream := match g.stream, y.2.seq with
        | some t, some q => some { t with ctxNo := q, held := none, holdTill := tc }
        | t, _ => t }
    match kept, oldSlot g.index with
    | some k, some n => s.bringWork k.core (k.base + n) c y.2.slot y.2.first
    | _, _ => s) s
  let s := x.slots.foldl (fun (s : State) (y : OperandSlot) =>
    match lowestFree ((s.core c).slots.map (fun (z : Nat × OperandSlot) => z.1)) 64 with
    | some n => s.updCore c (fun k => { k with slots := AMap.put k.slots n { y with group := slotOf y.group } })
    | none => s) s
  let ps := x.fibres.map (fun (f : Nat × Fibre) => (placeOf f.1, f.2))
  let s := ps.foldl (fun (s : State) (f : Nat × Fibre) =>
    let g := s.group c (slotOf f.2.gslot)
    s.setFibre c f.1 (({ f.2 with gslot := slotOf f.2.gslot, wbase := g.bases.getD f.2.lane 0 } : Fibre).withKept
      (keptOf g.index f.2.lane) tc)) s
  let s := (s.knowGrid x).updGrid x.grid (fun g => { g with coresRan := insertPlace g.coresRan c })
  let s := ps.foldl (fun (s : State) (f : Nat × Fibre) =>
    if f.2.isLive && f.2.waitk != .trap then s.place c f.1 else s) (s.restoreEntries c x.entries)
  (s.updCore c (fun k => { k with table := k.table.filter (fun (e : Nat × BlockEntry) => !e.2.wvec.isEmpty) })).refill c

/-- The dies a saved cluster may go to. -/
def State.restoreDies (s : State) (h : RecordHead) : List Nat :=
  if s.narrowRegions h.ctx then [h.die] else List.range 4

/-- A saved cluster of `n` groups finds a core that also has the operand slots it claimed. -/
def State.planRestore (s : State) (r : List Word) (n slots d : Nat) : Option ClusterPlan :=
  let room (c : Nat) : Bool := decide ((s.core c).slots.length + slots ≤ 64)
  ((coresOf d).filter room).foldl (fun (b : Option ClusterPlan) c =>
    match b with
    | some y => if s.freePool y.core < s.freePool c then
        match s.planSome n r 0 c with
        | some z => some z
        | none => some y
      else some y
    | none => s.planSome n r 0 c) none

/-- The die to which a saved cluster goes: of those that have a core for it, the one with the largest free-slot count, the
lower index first (R163, R172). -/
def State.restoreDie (s : State) (h : RecordHead) (n slots : Nat) : Option Nat :=
  let r := h.shape.rcd
  (((s.restoreDies h).filter (fun d => (s.planRestore r n slots d).isSome)).foldl (fun (b : Option (Nat × Nat)) d =>
    let k := s.freeSlots r d
    match b with
    | some y => if y.2 < k then some (d, k) else b
    | none => some (d, k)) none).map (fun y => y.1)

/-- Clusters of which the device keeps something: that whose group a record names. -/
def State.keptFor (s : State) (h : RecordHead) : Option SavedCluster :=
  s.saved.find? (fun x => x.ctx == h.ctx && x.grid == h.grid && x.at_ == h.at_ && x.groups.any (fun (y : Nat × Group) => y.2.index == h.index))

/-- The limit under which the phase of a barrier runs, 16 for the cluster's: the one in force at its first arrival, where it is known. -/
def State.limitFor (s : State) (h : RecordHead) (index n : Nat) : Word :=
  let known := (s.keptFor h).bind (fun k =>
    (if n = 16 then some k.barrier
     else (k.groups.find? (fun (y : Nat × Group) => y.2.index == index)).map (fun y => AMap.getD y.2.barriers n Barrier.blank)).bind (fun b => b.first))
  match known with
  | some x => x.2
  | none => s.barLimitOf h.ctx

/-- The queues whose head grid is of a context are no longer blocked. -/
def State.unblockCtx (s : State) (ctx : BitVec 12) : State :=
  { s with blocked := s.blocked.filter (fun q => !((AMap.getD s.queues q []).head?.bind s.grid).any (fun g => g.ctx == ctx)) }

/-- Records are done with. -/
def State.recordsDone (s : State) (o : PreOp) (rs : List (Nat × RecordHead)) : State :=
  { s with preOp := some { o with placed := o.placed ++ rs.map (fun x => x.1) } }

/-- A record whose group RESTORE does not place: that of another context, or of a group that was killed (R173). -/
def State.skipsRecord (s : State) (o : PreOp) (h : RecordHead) : Bool :=
  h.ctx != o.ctx || decide ((h.grid, h.index, h.at_) ∈ s.voided)

/-- RESTORE goes on: the next cluster of the save area is placed on a die, or the restore is over. What the placement reads first (R8) is
read only where the cluster is placed. -/
def State.restoreStep (s : State) (o : PreOp) (die : Nat) : State :=
  let all := s.areaRecords
  let left := all.2.filter (fun x => decide (x.1 ∉ o.placed) && !s.skipsRecord o x.2)
  match left with
  | [] => (({ s with suspended := s.suspended.filter (· != o.ctx) } : State).unblockCtx o.ctx).preDone o.ctx
  | (_, h) :: _ =>
    let rs := left.filter (fun x => x.2.same h)
    let slots := (rs.map (fun x => x.2.shape.slots)).foldl (· + ·) 0
    let t := all.1.readAtAdmission h.ctx
    let kept := t.keptFor h
    let rest := t.saved.filter (fun y => some y != kept)
    if t.restoreDie h rs.length slots ≠ some die then s
    else if !t.recordValid h.ctx then
      let t := match kept with
        | some x => ({ t with saved := rest } : State).endSaved x
        | none => t
      (t.failGrid h.grid).recordsDone o rs
    else
      match t.planRestore h.shape.rcd rs.length slots die with
      | some p =>
        let x := t.takeCluster rs (t.limitFor h)
        (({ x.1 with saved := rest } : State).restoreCluster x.2 kept p).recordsDone o rs
      | none => s

/-! ## Cluster placement (R164, R172) -/

/-- CLUSTER_PLACEMENT: the head cluster of the die's batch, or the next saved cluster of a RESTORE; none before LOCK is set (R387) and
none while a checkpoint is taken (R398). -/
def execClusterPlacement (die : Nat) (s : State) : Host.Outcome State Fault Refusal :=
  match s.preOp with
  | some o => if o.op == 2 && s.batch.isNone && !(s.die die).dead && flag s.plat.pkgCfg 63 && s.plat.ckptCut.isNone then .next (s.restoreStep o die) else .next (s.placeHead die)
  | none => .next (s.placeHead die)

end Sys2Proof.Machine
end

