-- ==== Sys2Proof/Machine/Rings.lean ====
section
/-! DEFINITION. The rings that the device and the driver share (R49): descriptors, taking from a supply ring and putting on
a release ring. -/

namespace Sys2Proof.Machine

/-- A ring descriptor at a physical address (R49). -/
structure Ring where
  pa   : Nat
  base : Nat
  lg   : Nat
  prod : Nat
  cons : Nat
  deriving DecidableEq, Repr

/-- The descriptor at a physical address. DESIGN CHOICE, log entry 71: R5 gives a fate for reserved bits of registers only, and R49 none; a
non-zero reserved bit of a descriptor in memory is ignored. -/
def State.ring (s : State) (pa : Nat) : State × Ring :=
  let r := s.devWords pa 4
  let w (i : Nat) : Word := r.2.getD i 0
  (r.1, { pa := pa, base := fld (w 0) 12 40 * 4096, lg := fld (w 1) 0 5, prod := fld (w 2) 0 32, cons := fld (w 3) 0 32 })

/-- The ring is not disabled. -/
def Ring.on (r : Ring) : Bool := decide (6 ≤ r.lg) && decide (r.lg ≤ 16)
/-- Entries that the ring holds. -/
def Ring.held (r : Ring) : Nat := (r.prod + 2 ^ 32 - r.cons) % 2 ^ 32
/-- There is space for one entry more. -/
def Ring.room (r : Ring) : Bool := r.on && decide (r.held < 2 ^ r.lg)

/-- Entry words are written before PROD advances; false where there is no space. -/
def State.ringPut (s : State) (pa : Nat) (ws : List Word) : State × Bool :=
  let r := s.ring pa
  if r.2.room then
    let s := r.1.devPut (r.2.base + r.2.prod % 2 ^ r.2.lg * (8 * ws.length)) ws
    (s.devWrite (pa + 16) 4 ((r.2.prod + 1) % 2 ^ 32), true)
  else (r.1, false)

/-- One entry of a supply ring of 8-byte entries is consumed. -/
def State.ringTake (s : State) (pa : Nat) : State × Option Word :=
  let r := s.ring pa
  if r.2.on && r.2.held != 0 then
    let x := r.1.devWord (r.2.base + r.2.cons % 2 ^ r.2.lg * 8)
    (x.1.devWrite (pa + 24) 4 ((r.2.cons + 1) % 2 ^ 32), some x.2)
  else (r.1, none)

/-- The frame that a ring entry names. -/
def frameOf (w : Word) : Nat := fld w 16 36 * 65536

end Sys2Proof.Machine
end

