-- ==== Sys2Proof/Machine/Faults.lean ====
section
/-! DEFINITION. Waking and failing what waits in the wait tables, the fault buffer, replay, the watchdog, shootdowns, trap
records and resume commands (R35, R36, R338 to R349). -/

namespace Sys2Proof.Machine

/-! ## Failing engines -/

/-- A sequencer trap (R285): the stream stops, and every live fibre of the group traps at its next block boundary, at once
where it waits at a barrier, a phase or a rendezvous. -/
def State.sequencerTrap (s : State) (c g : Nat) (t : Trap) : State :=
  let spc := (s.group c g).stream.map (fun x => x.pc)
  let s := s.updGroup c g (fun x => { x with stream := x.stream.map (fun y => { y with st := .stopped }) })
  (s.liveOf c g).foldl (fun s p =>
    let f := s.fibre c p
    match f.waitk with
    | .groupBarrier | .clusterBarrier | .phase | .rendezvous => s.takeTrapAs c p f.pc t spc
    | _ => s.raiseDue c p t spc) s

/-- A trap record of a fibre that has ended (R305): its lane and group, and no PC. -/
def State.endedRecord (s : State) (c g lane : Nat) (t : Trap) : State :=
  let f : Fibre := { Fibre.blank with gslot := g, lane := lane }
  { s with trapPushes := s.trapPushes ++ [{ ctx := (s.group c g).ctx, words := s.trapWords c f 0 t true none }] }

/-- The trap of a failed command goes to its fibre at the next block boundary, of a saved one where it is restored, or is recorded
for one that has ended. -/
def State.blameFibre (s : State) (c g place : Nat) (t : Trap) : State :=
  if 8192 ≤ place then s.updSaved c g (place - 8192) (fun f => { f with due := f.due ++ [(t, none)] })
  else if 4096 ≤ place then s.endedRecord c g (place - 4096) t else s.raiseDue c place t none

/-- A command leaves its queue: it is complete, or counts so. -/
def State.dropCommand (s : State) (c g id : Nat) : State :=
  if (AMap.find (s.core c).groups g).isNone then s
  else s.updGroup c g (fun x => { x with queues := x.queues.map (fun q => q.filter (fun (y : Command) => y.id != id)) })

/-- A command with a number. -/
def State.commandOf (s : State) (c g id : Nat) : Option Command :=
  ((s.group c g).queues.flatMap (fun q => q)).find? (fun (y : Command) => y.id == id)

/-- A failed command (R305): it stops, counts as complete without an arrival, and its fibre traps. -/
def State.failCommand (s : State) (c g id : Nat) (t : Trap) : State :=
  match s.commandOf c g id with
  | some x => (s.dropCommand c g id).blameFibre c g x.place t
  | none => s

/-! ## A bad trap queue -/

/-- The message of a halt, or of a thread that stops on a trap (R336, R349): vector 3 with a word, the thread's identity. -/
def State.haltMessage (s : State) (c p : Nat) (w : Word) : State := s.sendHost 3 [w, wd c, wd p]

/-- A record whose trap queue is absent or ill-formed: the context is killed; a control thread stops and the host is told
with the trap code (R344, R349). -/
def State.badQueue (s : State) (x : TrapPush) : State :=
  let w1 := x.words.getD 1 0
  let w2 := x.words.getD 2 0
  if flag w1 55 then
    let c := 640 + fld w2 32 32
    let p := fld w1 56 6
    (s.endFibre c p).haltMessage c p (wd (fld (x.words.getD 0 0) 0 8))
  else s.killContext x.ctx

/-! ## Waking (R342) -/

/-- What waited goes on. -/
def State.wakeWaiter (s : State) (w : Waiter) : State :=
  match w with
  | .fibre c p => if s.hasFibre c p && (s.fibre c p).waitk == .token then s.resume c p else s
  | .stream c g => s.updGroup c g (fun x => { x with stream := x.stream.map (fun y => { y with
      st := match y.st with
        | .parked _ => .running
        | z => z }) })
  | .command c g id => s.updGroup c g (fun x => { x with
      queues := x.queues.map (fun q => q.map (fun (y : Command) => if y.id = id then { y with paused := none } else y)) })
  | .admission _ | .trapPush _ | .ended _ _ _ | .saved _ _ _ | .peer _ => s

/-- A request of an ended or saved fibre waits for a page at its peer. -/
def State.owesRedo (s : State) (w : Waiter) (key : Word) : Bool := s.fabric.redo.any (fun x => x.req.waiter == w && x.key == key)

/-- Such requests are not performed any more (R348). -/
def State.dropRedo (s : State) (w : Waiter) (key : Word) : State :=
  { s with fabric := { s.fabric with redo := s.fabric.redo.filter (fun x => !(x.req.waiter == w && x.key == key)) } }

/-- What waited is answered with MEM_EXHAUSTED or WATCHDOG. -/
def State.failWaiter (s : State) (w : Waiter) (t : Trap) : State :=
  match w with
  | .fibre c p => if s.hasFibre c p && (s.fibre c p).waitk == .token then s.takeTrap c p (s.fibre c p).pc t else s
  | .stream c g => s.sequencerTrap c g t
  | .command c g id => s.failCommand c g id t
  | .admission d => match s.batch with
    | some b => if b.die = d then s.failGrid b.grid else s
    | none => s
  | .ended c g lane => if s.owesRedo w t.info0 then (s.dropRedo w t.info0).endedRecord c g lane t else s
  | .saved c v lane =>
    if s.owesRedo w t.info0 then (s.dropRedo w t.info0).updSaved c v lane (fun f => { f with due := f.due ++ [(t, none)] }) else s
  | .peer _ => s
  | .trapPush ctx =>
    match s.trapPushes.find? (fun x => x.ctx == ctx) with
    | some x => ({ s with trapPushes := s.trapPushes.erase x } : State).badQueue x
    | none => s

/-- An entry frees; one whose granule is being copied stays for the engine, without waiters (R116, R124). -/
def State.releaseEntry (s : State) (d i : Nat) (e : WaitEntry) : State :=
  if e.till.isSome then s.updDie d (fun x => { x with wait := AMap.put x.wait i { e with waiters := [] } }) else s.freeToken d i

/-- An entry frees and everything under it wakes. -/
def State.wakeEntry (s : State) (d i : Nat) (e : WaitEntry) : State :=
  e.waiters.foldl (fun s w => s.wakeWaiter w) (s.releaseEntry d i e)

/-- The number of a cause (R340). -/
def FaultCause.num : FaultCause → Nat
  | .notPresent => 0
  | .poolEmpty => 1
  | .nodeFull => 2

/-- An entry frees and everything under it fails. -/
def State.failEntry (s : State) (d i : Nat) (e : WaitEntry) (code : TrapCode) : State :=
  let t : Trap := { code := code, info0 := e.key, info1 := if code = .watchdog then 0 else wd e.cause.num }
  e.waiters.foldl (fun s w => s.failWaiter w t) (s.releaseEntry d i e)

/-! ## Replay (R341) -/

/-- The entries that a replay selects: die, index and entry. -/
def State.replayed (s : State) (va ctl : Word) : List (Nat × Nat × WaitEntry) :=
  let ctx := BitVec.ofNat 12 (fld ctl 40 12)
  let page := wd (fld va 16 41 * 65536)
  let mine (e : WaitEntry) : Bool := e.kind != .queue && e.ctx == ctx && e.key == page
  if flag ctl 1 then
    match AMap.find (s.die (fld ctl 8 2)).wait (fld ctl 28 12) with
    | some e => if mine e then [(fld ctl 8 2, fld ctl 28 12, e)] else []
    | none => []
  else
    ((List.range 4).filter (fun d => flag ctl 7 || d == fld ctl 8 2)).flatMap (fun d =>
      ((s.die d).wait.filter (fun (e : Nat × WaitEntry) => mine e.2)).map (fun e => (d, e.1, e.2)))

/-- A replay also answers the records of other packages' entries for its page: it is carried over the fabric to them (R340). -/
def State.replayPeers (s : State) (va ctl : Word) : State :=
  { s with fabric := { s.fabric with peerFaults := s.fabric.peerFaults.filter (fun x =>
      !(x.ctx.toNat == fld ctl 40 12 && x.key == wd (fld va 16 41 * 65536)
        && (if flag ctl 1 then x.die == fld ctl 8 2 && x.token == fld ctl 28 12 else true))) } }

/-- GO of REPLAY_CTL. -/
def State.replay (s : State) (ctl : Word) : State :=
  (s.replayed s.plat.replayVa ctl).foldl (fun s x =>
    -- what has come to wait in the entry meanwhile is woken with it
    match AMap.find (s.die x.1).wait x.2.1 with
    | some e =>
      if e.kind != x.2.2.kind || e.ctx != x.2.2.ctx || e.key != x.2.2.key then s
      else if flag ctl 2 then s.failEntry x.1 x.2.1 e .memExhausted else s.wakeEntry x.1 x.2.1 e
    | none => s) (s.replayPeers s.plat.replayVa ctl)

/-- The bits of REPLAY_CTL that keep what is written. -/
def replayMask : Word := 0x000F_FFFF_F000_0386

/-- A write of REPLAY_CTL. -/
def State.writeReplay (s : State) (v : Word) : State :=
  let t := { s with plat := { s.plat with replayCtl := v &&& replayMask } }
  if flag v 0 then t.replay v else t

/-- A write of REPLAY_CTL with GO and one OP. -/
def replayStep (op : Nat) (value : Word) (s : State) : Host.Outcome State Fault Refusal :=
  if flag value 0 && fld value 1 2 == op then .next (s.writeReplay value) else .next s

def execReplayPage (value : Word) (s : State) : Host.Outcome State Fault Refusal := replayStep 0 value s
def execReplayToken (value : Word) (s : State) : Host.Outcome State Fault Refusal := replayStep 1 value s
def execReplayExhaustedPage (value : Word) (s : State) : Host.Outcome State Fault Refusal := replayStep 2 value s
def execReplayExhaustedToken (value : Word) (s : State) : Host.Outcome State Fault Refusal := replayStep 3 value s

/-- A fault or version entry has gone LIMIT ticks without a replay (R343). -/
def State.watchDue (s : State) (e : WaitEntry) : Bool :=
  s.plat.faultWd != 0 && (e.kind == .fault || e.kind == .version) && !e.waiters.isEmpty
    && decide (e.time.toNat + s.plat.faultWd.toNat ≤ s.gtb.toNat)

/-- FAULT_WATCHDOG (R343): a fault or version entry past LIMIT. -/
def execFaultWatchdog (die token : Nat) (s : State) : Host.Outcome State Fault Refusal :=
  match AMap.find (s.die die).wait token with
  | some e => if s.watchDue e then .next (s.failEntry die token e .watchdog) else .next s
  | none => .next s

/-- Every entry whose limit the GTB has reached fails in the tick that reaches it; what its fibres have still to perform comes first. -/
def State.watchAll (s : State) : State :=
  let due := s.dies.flatMap (fun (d : Nat × Die) => (d.2.wait.filter (fun (e : Nat × WaitEntry) => s.watchDue e.2)).map (fun e => (d.1, e)))
  if due.isEmpty then s else due.foldl (fun (s : State) x => s.failEntry x.1 x.2.1 x.2.2 .watchdog) s.settleAll

/-! ## The fault buffer (R340) -/

/-- FAULT_RECORD_WRITE: the oldest waiting record goes to the ring, and a ring that was empty tells the host. -/
def execFaultRecordWrite (s : State) : Host.Outcome State Fault Refusal :=
  match s.records2 with
  | [] => .next s
  | r :: rs =>
    let pa := fld s.plat.fbuf 6 46 * 64
    let was := (s.ring pa).2.held
    match s.ringPut pa r with
    | (s, true) =>
      let s := { s with records2 := rs }
      .next (if was = 0 then s.sendHost 1 [] else s)
    | (s, false) => .next s

/-! ## Walks (R11) -/

/-- PAGE_WALK: a walker brings a translation into the die's TLB. An access whose walk ends in PAGE_FAULT allocates its
entry in its own step. -/
def execPageWalk (die : Nat) (ctx : BitVec 12) (va : Word) (s : State) : Host.Outcome State Fault Refusal :=
  if fld va 57 7 = 0 ∧ s.recordValid ctx then .next (s.translateDie die ctx va.toNat).1 else .next s

/-! ## Shootdowns (R35, R36) -/

/-- The bits of SHOOT_CTL that keep what is written. -/
def shootMask : Word := 0xFFFF_FFF0_0000_003E

/-- A die discards covered translations in every TLB, and with WALK the context's walk-cache entries. -/
def State.shootDie (s : State) (d : Nat) (va ctl : Word) : State :=
  let keep (e : TlbEntry) : Bool := !shootCovers va ctl e
  let ctx := BitVec.ofNat 12 (fld ctl 36 12)
  let s := s.updDie d (fun x => { x with
    tlb := x.tlb.filter keep,
    walks := if flag ctl 3 then x.walks.filter (fun w => w.ctx != ctx) else x.walks })
  { s with cores := s.cores.map (fun (k : Nat × Core) =>
      if dieOf k.1 = d then (k.1, { k.2 with dtlb := k.2.dtlb.filter keep, itlb := k.2.itlb.filter keep }) else k) }

/-- The leaf of a page, found without a TLB and without setting DA: its level and the physical address of its entry. A leaf
that has been made invalid still shows DA and DD (R18). -/
def State.leafAt (s : State) (va node : Nat) : Nat → Option (Nat × Nat)
  | 0 => some (0, node + 16 * (va / 2 ^ 16 % 32))
  | l + 1 =>
    let ea := node + 16 * (va / 2 ^ (9 + 12 * (l + 1)) % 4096)
    let w := (s.devWord ea).2
    if flag w 1 then some (l + 1, ea)
    else if !flag w 0 then none
    else State.leafAt s va (fld w 12 40 * 4096 + (if l = 0 then fld w 9 3 * 512 else 0)) l

/-- The level-3 node of a context (R8). -/
def State.rootOf (s : State) (ctx : BitVec 12) : Nat := fld (s.record ctx 0) 16 36 * 65536

/-- The companion words of every leaf below a node. -/
def State.leavesOf (s : State) (node : Nat) : Nat → List Nat
  | 0 => (List.range 32).map (fun i => node + 16 * i + 8)
  | l + 1 => (List.range 4096).flatMap (fun i =>
    let ea := node + 16 * i
    let w := (s.devWord ea).2
    if flag w 1 then [ea + 8]
    else if !flag w 0 then []
    else State.leavesOf s (fld w 12 40 * 4096 + (if l = 0 then fld w 9 3 * 512 else 0)) l)

/-- The companion words of the leaves that a shootdown covers. -/
def State.shootComps (s : State) (va ctl : Word) : List Nat :=
  let root := s.rootOf (BitVec.ofNat 12 (fld ctl 36 12))
  if fld ctl 48 16 = 0 then s.leavesOf root 3
  else (List.range (fld ctl 48 16)).filterMap (fun i => (s.leafAt ((fld va 16 41 + i) * 65536) root 3).map (fun x => x.2 + 8))

/-- DA and DD of a leaf are cleared (CLEARA). -/
def State.clearDa (s : State) (pa : Nat) : State :=
  let r := s.devRead pa 1
  if r.2 = 0 then r.1 else r.1.devWrite pa 1 0

/-- The dies that a shootdown visits. -/
def State.shootDies (s : State) (va ctl : Word) : List Nat :=
  if flag ctl 1 || fld ctl 48 16 == 0 then List.range 4
  else
    let da := (s.shootComps va ctl).foldl (fun n pa => n ||| (s.devRead pa 1).2) 0
    (List.range 4).filter (fun d => bitsAt da d 1 == 1 || (s.die d).tlb.any (fun e => shootCovers va ctl e))

/-- A write of SHOOT_CTL. -/
def State.writeShoot (s : State) (v : Word) : State :=
  let old := s.plat.shootCtl
  let busy := flag old 6
  let err := flag old 7 && !flag v 7
  if busy && flag v 0 then { s with plat := { s.plat with shootCtl := old ||| 0x80 } }
  else
    let keep := (v &&& shootMask) ||| (if err then 0x80 else 0) ||| (if busy || flag v 0 then 0x40 else 0)
    let s := { s with plat := { s.plat with shootCtl := keep } }
    -- from GO on, an access may translate either way until BUSY clears
    if flag v 0 then { s with plat := { s.plat with shooting := some (s.plat.shootVa, v, s.shootDies s.plat.shootVa v) } }
    else s

/-- SHOOTDOWN: a write of SHOOT_CTL with GO. -/
def execShootdown (value : Word) (s : State) : Host.Outcome State Fault Refusal :=
  if flag value 0 then .next (s.writeShoot value) else .next s

/-- What the dies have kept of a context's region table goes, on every die (R30, R35). -/
def State.dropRegions (s : State) (ctx : BitVec 12) : State :=
  (List.range 4).foldl (fun (s : State) d => s.updDie d (fun x => { x with regions := AMap.drop x.regions ctx.toNat })) s

/-- SHOOTDOWN_COMPLETE: every visited die has discarded, every access that used a discarded translation is performed, and BUSY
clears. The dies are those found at GO, and those that a walk in progress then has brought a covered leaf to. -/
def execShootdownComplete (s : State) : Host.Outcome State Fault Refusal :=
  match s.plat.shooting with
  | none => .next s
  | some (va, ctl, ds) =>
    let ctx := BitVec.ofNat 12 (fld ctl 36 12)
    let s := s.settleAll
    let now := s.shootDies va ctl
    let s := ((List.range 4).filter (fun d => decide (d ∈ ds) || decide (d ∈ now))).foldl (fun s d => s.shootDie d va ctl) s
    let s := if flag ctl 4 then s.dropRegions ctx else s
    let s := if flag ctl 2 then (s.shootComps va ctl).foldl (fun s pa => s.clearDa pa) s else s
    let s := if flag ctl 5 then
        let s := s.readRecord ctx
        if s.recordValid ctx then s.readVersions ctx else s
      else s
    .next { s with plat := { s.plat with shooting := none, shootCtl := s.plat.shootCtl &&& ~~~ 0x40 } }

/-! ## Trap records (R344, R345) -/

/-- The trap-table entry of a context: TQ and INT, where it is valid and well formed. DESIGN CHOICE, log entry 71: an entry with
a non-zero reserved bit counts as ill-formed. -/
def State.trapEntry (s : State) (ctx : BitVec 12) : State × Option (Word × Word × Bool) :=
  let r := s.devWords (fld s.plat.traptab 6 46 * 64 + 32 * ctx.toNat) 4
  let w (i : Nat) : Word := r.2.getD i 0
  let ok := flag (w 0) 0 && zeroBits (w 0) 57 7 && zeroBits (w 0) 2 4 && zeroBits (w 1) 57 7 && zeroBits (w 1) 0 6 && w 2 == 0 && w 3 == 0
  (r.1, if ok then some (wd (fld (w 0) 6 51 * 64), wd (fld (w 1) 6 51 * 64), flag (w 0) 1) else none)

/-- A push waits: for space in TQ, or for a page (R345). -/
def State.trapWaits (s : State) (ctx : BitVec 12) : Bool :=
  (List.range 4).any (fun d => (s.die d).wait.any (fun (e : Nat × WaitEntry) => decide (Waiter.trapPush ctx ∈ e.2.waiters)))

/-- One record is pushed, or its push parks or fails. No answer: its queue is full, or no wait-table entry is free. -/
def State.pushTry (s : State) (x : TrapPush) : Option State :=
  let d := fld (x.words.getD 2 0) 22 2
  let rest (s : State) : State := { s with trapPushes := s.trapPushes.filter (fun y => !(y == x)) }
  match s.trapEntry x.ctx with
  | (s, none) => some ((rest s).badQueue x)
  | (s, some (tq, _, int)) =>
    let wrong : Trap := { code := .queueFault, info0 := tq, info1 := 0 }
    match s.queuePush (Via.dev d) x.ctx tq (fun n => if n = 8 then .ok x.words else .error wrong) with
    | .done s _ _ empty => some (if int && empty then (rest s).sendHost 2 [] else rest s)
    | .blocked _ _ => none
    | .stop s (.park kind key va) =>
      (s.joinWait d kind x.ctx key va (.trapPush x.ctx) true .write (fld (x.words.getD 1 0) 0 48)).map (fun r => r.1)
    | .stop s (.trap _) => some ((rest s).badQueue x)
    | .stop _ .wait => none

/-- The record is pushed, where its push does not wait. -/
def State.pushTrap (s : State) (x : TrapPush) : State := (s.pushTry x).getD s

/-- A record whose push does not wait, for a page or for space: a full queue of one context holds up no other context. -/
def State.pushOpen (s : State) (x : TrapPush) : Bool := !s.trapWaits x.ctx && (s.pushTry x).isSome

/-- TRAP_RECORD_PUSH (R345): the oldest record whose push does not wait. -/
def execTrapRecordPush (s : State) : Host.Outcome State Fault Refusal :=
  match s.trapPushes.find? (fun x => s.pushOpen x) with
  | some x => .next (s.pushTrap x)
  | none => .next s

/-! ## Resume commands (R347 to R349) -/

/-- The fibre or thread parked by a trap that a command names: core and place. -/
def State.trapped (s : State) (ctx : BitVec 12) (r : List Word) : Option (Nat × Nat) :=
  let grid := fld (r.getD 0 0) 32 32
  let group := fld (r.getD 0 0) 0 32
  let lane := fld (r.getD 1 0) 0 6
  let waits (c p : Nat) (f : Fibre) : Bool := f.waitk == .trap && f.isLive && f.lane == lane && (s.groupOf c p).ctx == ctx
  s.cores.findSome? (fun (k : Nat × Core) =>
    (k.2.fibres.find? (fun (f : Nat × Fibre) =>
      waits k.1 f.1 f.2 && (if isControl k.1 then grid == 0xFFFF_FFFF && group == k.1 - 640
        else (s.groupOf k.1 f.1).grid % 2 ^ 32 == grid && (s.groupOf k.1 f.1).index % 2 ^ 32 == group))).map (fun f => (k.1, f.1)))

/-- Reserved bits of a resume command, and ACTION 11. -/
def resumeOk (r : List Word) : Bool :=
  zeroBits (r.getD 1 0) 10 54 && zeroBits (r.getD 1 0) 6 2 && fld (r.getD 1 0) 8 2 != 3 && zeroBits (r.getD 2 0) 49 15 && r.getD 3 0 == 0

/-- RESUME of a fibre, at its PC or at NEWPC. A fetch at NEWPC that parks is made again when the fibre wakes, and where NEWPC does not
lie 4 or 8 bytes past the recorded PC only a clause header passes then too. A query whose read parked is not re-executed (R316). No answer: the fetch needs a wait-table entry and none is
free, so the command waits in its queue (R338). -/
def State.resumeAt (s : State) (c p : Nat) (setpc : Bool) (pc : BitVec 48) : Option State :=
  let f := s.fibre c p
  let near := pc == f.pc + 4 || pc == f.pc + 8
  if !setpc then some (s.resume c p)
  else
    match (s.updFibre c p (fun f => { f with after := none, query := f.query.map (fun q => { q with parked := none }) })).fetchWord c (s.ctxOf c p) pc.toNat with
    | (s, .ok w) =>
      let s := s.updFibre c p (fun f => { f with pc := pc, target := false })
      if (isHeader w && pc.toNat % 8 == 0) || near then some (s.resume c p)
      else some (s.takeTrap c p pc { code := .illegalTarget, info0 := pc.setWidth 64, info1 := 0 })
    | (s, .error (.park kind key va)) =>
      (s.stopFibre c p pc (.park kind key va) .fetch).map (fun s => s.updFibre c p (fun f => { f with target := !near }))
    | (s, .error x) => s.stopFibre c p pc x .fetch

/-- The command names a fibre parked by a trap that a SAVE holds (R170). -/
def State.namesSaved (s : State) (ctx : BitVec 12) (r : List Word) : Bool :=
  s.saved.any (fun x => x.ctx == ctx && x.grid % 2 ^ 32 == fld (r.getD 0 0) 32 32 && x.groups.any (fun (g : Nat × Group) =>
    g.2.index % 2 ^ 32 == fld (r.getD 0 0) 0 32 && x.fibres.any (fun (f : Nat × Fibre) =>
      f.2.gslot == g.1 && f.2.lane == fld (r.getD 1 0) 0 6 && f.2.isLive && f.2.waitk == .trap)))

/-- Two commands name one fibre. -/
def sameFibre (a b : List Word) : Bool := a.getD 0 0 == b.getD 0 0 && fld (a.getD 1 0) 0 6 == fld (b.getD 1 0) 0 6

/-- RESUME or END of a fibre that a SAVE holds is kept until its group is restored; a second command for it is discarded. -/
def State.holdResume (s : State) (ctx : BitVec 12) (r : List Word) : State :=
  if s.heldResumes.any (fun x => x.1 == ctx && sameFibre x.2 r) then s else { s with heldResumes := s.heldResumes ++ [(ctx, r)] }

/-- A resume command acts. -/
def State.resumeCommand (s : State) (ctx : BitVec 12) (r : List Word) : Option State :=
  if !resumeOk r then some s
  else
    match s.trapped ctx r with
    | none =>
      if !s.namesSaved ctx r then some s
      else some (if fld (r.getD 1 0) 8 2 = 2 then s.killContext ctx else s.holdResume ctx r)
    | some (c, p) =>
      match fld (r.getD 1 0) 8 2 with
      | 0 => s.resumeAt c p (flag (r.getD 2 0) 48) ((r.getD 2 0).setWidth 48)
      | 1 => some (s.endFibre c p)
      | _ => some (s.killContext ctx)

/-- A kept command of a context whose fibre is saved no longer. -/
def State.heldResume (s : State) (ctx : BitVec 12) : Option (BitVec 12 × List Word) :=
  s.heldResumes.find? (fun x => x.1 == ctx && !s.namesSaved ctx x.2)

/-- The action of the command that a context's resumes come to next: a kept one, or the head of its resume queue. -/
def State.headAction (s : State) (ctx : BitVec 12) : Option Nat :=
  match s.heldResume ctx with
  | some x => some (fld (x.2.getD 1 0) 8 2)
  | none =>
  match s.trapEntry ctx with
  | (s, some (_, rq, _)) =>
    match s.queuePop (Via.dev s.liveDie) ctx rq (fun _ => none) with
    | .done _ r _ _ => some (fld (r.getD 1 0) 8 2)
    | _ => none
  | (_, none) => none

/-- The device pops a context's RQ and acts on the command. A record of a queue that is not RQ's shape is popped without
effect. A kept command whose fibre has been restored acts first. -/
def State.popResume (s : State) (ctx : BitVec 12) : State :=
  match s.heldResume ctx with
  | some x => (({ s with heldResumes := s.heldResumes.erase x } : State).resumeCommand ctx x.2).getD s
  | none =>
  match s.trapEntry ctx with
  | (s, none) => s
  | (s, some (_, rq, _)) =>
    match s.queuePop (Via.dev s.liveDie) ctx rq (fun _ => none) with
    | .done t r _ _ => if r.length = 4 then (t.resumeCommand ctx r).getD s else t
    | .blocked s _ => s
    | .stop s _ => s

/-- A pop of RQ whose command has one action. -/
def resumeStep (acts : Nat → Bool) (ctx : BitVec 12) (s : State) : Host.Outcome State Fault Refusal :=
  match s.headAction ctx with
  | some a => if acts a then .next (s.popResume ctx) else .next s
  | none => .next s

/-- RESUME_RESUME: a RESUME, or a command that is discarded for ACTION 11. -/
def execResumeResume (ctx : BitVec 12) (s : State) : Host.Outcome State Fault Refusal := resumeStep (fun a => a == 0 || a == 3) ctx s
def execResumeEnd (ctx : BitVec 12) (s : State) : Host.Outcome State Fault Refusal := resumeStep (fun a => a == 1) ctx s
def execResumeKill (ctx : BitVec 12) (s : State) : Host.Outcome State Fault Refusal := resumeStep (fun a => a == 2) ctx s

end Sys2Proof.Machine
end

