-- ==== Sys2Proof/Machine/Release.lean ====
section
/-! DEFINITION. Words that wait before they have their effect: releases and fences until their pushes are complete (R91), and
engine commands whose issue waits for acceptance (R118, R319, R325). -/

namespace Sys2Proof.Machine

/-! ## What a release waits for -/

/-- A peer store, reduction or atomic without a value of a waiter is not acknowledged yet, of those that a test takes (R91). -/
def State.unacked (s : State) (w : Waiter) (which : FabricOp → Bool) : Bool :=
  s.fabric.send.any (fun (x : Nat × SendWindow) => x.2.sent.any (fun r => !r.value && r.waiter == w && which r.op))
    || s.fabric.redo.any (fun x => !x.req.value && x.req.waiter == w && which x.req.op)

/-- A peer access of a fibre is not performed or not acknowledged yet (R91). -/
def State.owesAck (s : State) (c p : Nat) : Bool :=
  (s.fibre c p).pending.any (fun x => x.await.any (fun a => decide (a.1 < 1024))) || s.unacked (.fibre c p) (fun _ => true)

/-- The same of the fibre that a command's place names: one that lives, that a SAVE holds, or that has ended (R101, R129). -/
def State.owesPlace (s : State) (c g place : Nat) : Bool :=
  if 8192 ≤ place then s.unacked (.saved c g (place - 8192)) (fun _ => true)
  else if 4096 ≤ place then
    s.unacked (.ended c g (place - 4096)) (fun _ => true)
      || (s.core c).fibres.any (fun (f : Nat × Fibre) => f.2.gslot == g && f.2.lane == place - 4096 && !f.2.isLive && s.owesAck c f.1)
  else s.owesAck c place

/-- The issue push of a command has collected its completion time and its acknowledgements (R101). -/
def State.commandOver (s : State) (c g : Nat) (x : Command) : Bool :=
  decide (x.tc.toNat < s.gtb.toNat) && (s.busyLines x.lines).isEmpty && !s.owesPlace c g x.place

/-- The lines of which lanes' releases wait for back-invalidations (R71, R91). -/
def State.biLinesOf (s : State) (c : Nat) (lanes : List Nat) : List Nat := s.busyLines (lanes.flatMap (fun p => (s.fibre c p).biLines))

/-- A release of the lanes has collected its completion time and its acknowledgements: those of back-invalidations of its own lines
alone. -/
def State.pushOver (s : State) (c : Nat) (lanes : List Nat) (tc : Word) : Bool :=
  decide (tc.toNat < s.gtb.toNat) && (s.biLinesOf c lanes).isEmpty && !lanes.any (fun p => s.owesAck c p)

/-- The push of a word of the ferry's lanes (R71, R91): their earlier accesses are performed, and each lane keeps over a park the
completion time and the lines whose back-invalidations are to be over. -/
def State.pushFor (s : State) (c : Nat) (lanes : List Nat) : State × Word :=
  let r := (lanes.foldl (fun (s : State) p => s.settleIssued c p) s).releasePush c
  let tc := lanes.foldl (fun t p => later t (r.1.fibre c p).pushTc) r.2
  let ls := r.1.busyLines (r.1.sentLines c ++ lanes.flatMap (fun p => (r.1.fibre c p).biLines)).eraseDups
  (lanes.foldl (fun (s : State) p => s.updFibre c p (fun f => { f with pushTc := tc, biLines := ls })) r.1, tc)

/-- The lanes of a ferry that have something to do: their guard holds, or a register of theirs is missing. -/
def State.activeLanes (s : State) (fy : Ferry) (c n : Nat) (k : Checks) : List Nat :=
  ((fy.toLanes c n).filter (fun l => l.guard s k || ((l.fibre s).missing k.regs).isSome)).map (fun l => l.p)

/-- Issue a word that waits: the checks of R215, then its push; what it does comes when the hold ends. A word of which no
lane has anything to do is over at once. -/
def issueHeld (k : Checks) (body : Lane → State → LaneEnd) (hold : Word → List Nat → Hold) (skip : State → Nat → Bool)
    (s : State) : Host.Outcome State Fault Refusal :=
  match s.cur with
  | .ferry c n =>
    match AMap.find (s.core c).ferries n with
    | none => .fault .noIssuer
    | some fy =>
      let act := (s.activeLanes fy c n k).filter (fun p => !skip s (p : Nat))
      if (s.ferryTrap c n k).isSome || act.isEmpty then issue k body s
      else if s.flagFull fy k (fy.toLanes c n) then .next s
      else if fy.hold != .none then .next s
      else
        let r := s.pushFor c act
        .next (r.1.updFerry c n (fun x => { x with hold := hold r.2 act }))
  | _ => .fault .noIssuer

/-- A release or a fence: its push, then all its lanes at once (RELEASE_PUSH_COMPLETE). -/
def issueRelease (i : Instr) (k : Checks) (body : Lane → State → LaneEnd) (s : State) : Host.Outcome State Fault Refusal :=
  issueHeld k body (fun tc _ => .release tc i) (fun _ _ => false) s

/-- The word of a hold that is over has its effect in every lane. -/
def State.finishHeld (s : State) (c n : Nat) (k : Checks) (body : Lane → State → LaneEnd) : State :=
  let s0 := s.updFerry c n (fun x => { x with hold := .none })
  match (issue k body { s0 with cur := .ferry c n }) with
  | .next t => { t with cur := s.cur }
  | _ => s

/-! ## Acceptance lane by lane -/

/-- A command that waits for acceptance: its issue push, then each lane in ascending order. A helper lane issues none, but a
register that its window lacks traps it as any other lane (R143, R215). -/
def issueAccept (i : Instr) (k : Checks) (body : Lane → State → LaneEnd) (s : State) : Host.Outcome State Fault Refusal :=
  issueHeld k (fun l s => if l.helper s then .go s else body l s) (fun tc act => .accept tc i act)
    (fun s p => match s.cur with
      | .ferry c _ => (s.fibre c p).helper && ((s.fibre c p).missing k.regs).isNone
      | _ => false) s

/-- The next lane of a group that an engine may accept: ferry, instruction and place. -/
def State.nextAccept (s : State) (c g : Nat) (want : Instr → Bool) : Option (Nat × Instr × Nat) :=
  (s.core c).ferries.findSome? (fun (x : Nat × Ferry) =>
    match x.2.hold with
    | .accept tc i todo =>
      if want i && s.pushOver c todo tc then
        match todo with
        | p :: _ => if (s.fibre c p).gslot = g then some (x.1, i, p) else none
        | [] => none
      else none
    | _ => none)

/-- The word is counted as its last lane is accepted (R333). -/
def State.acceptCount (s : State) (c n : Nat) : State :=
  let fy := s.ferry c n
  match fy.hold with
  | .accept _ _ [_] => s.count c fy.ctx (fun x => { x with words := x.words + 1 })
  | _ => s

/-- A lane of the ferry is accepted: the others still wait, and the ferry goes on after the last. -/
def State.afterAccept (s : State) (c n p : Nat) (term : Bool) : State :=
  match AMap.find (s.core c).ferries n with
  | none => s
  | some fy =>
    match fy.hold with
    | .accept tc i todo =>
      let rest := todo.filter (fun q => q != p && decide (q ∈ fy.lanes))
      if rest.isEmpty then (s.setFerry c n { fy with hold := .none }).advance c n term
      else s.setFerry c n { fy with hold := .accept tc i rest }
    | _ => s

/-- One lane is accepted: it has its effect, and the ferry goes on with the last. -/
def State.acceptLane (s : State) (c n p : Nat) (k : Checks) (body : Lane → State → LaneEnd) : State :=
  let fy := s.ferry c n
  let l : Lane := { c := c, p := p, n := n, pos := fy.pos, pc := fy.pc }
  match l.perform k body (s.acceptCount c n) with
  | none => s
  | some t => t.afterAccept c n p k.term

/-! ## Engine commands (R101, R102) -/

/-- A command enters queue `q` of a group. -/
def State.enqueue (s : State) (c g q place : Nat) (body : CommandBody) (tc : Word) : State :=
  s.updGroup c g (fun x => { x with
    queues := x.queues.modify q (fun l => l ++ [Command.fresh x.nextCmd place body tc (s.fibre c place).biLines]),
    nextCmd := x.nextCmd + 1 })

end Sys2Proof.Machine
end

