-- ==== Sys2Proof/Machine/Versions.lean ====
section
/-! DEFINITION. The snapshot engines: copy on write, VPUB and VRECL (R116 to R122, R330). -/

namespace Sys2Proof.Machine

/-! ## Tables and nodes -/

/-- WV, PV and HZ of an entry replaced. -/
def VersionEntry.with (e : List Word) (wv hz : Nat) : List Word :=
  let w := VersionEntry.word e 0
  e.set 0 (setFld (setFld (setFld w 16 16 wv) 32 16 (wv + 65535)) 48 16 hz)

/-- The dies of a list switch to WV, PV and HZ of an entry; the other fields of what a die has cached stay (R110). -/
def State.switchDies (s : State) (ctx : BitVec 12) (r : Nat) (words : List Word) (ds : List Nat) : State :=
  ds.foldl (fun (s : State) d => s.updDie d (fun x => { x with
    versions := x.versions.map (fun (v : Nat × VersionEntry) => if v.1 = ctx.toNat * 16 + r then
      (v.1, { words := VersionEntry.with v.2.words (VersionEntry.wv words) (VersionEntry.hz words) }) else v) })) s

/-- A change of WV, PV and HZ of a region's entry: those that change are written in memory, at the entry's point of coherence,
before the dies of a list switch (R110). -/
def State.putVersion (s : State) (ctx : BitVec 12) (r : Nat) (words : List Word) (ds : List Nat) : State :=
  let pa := fld (s.record ctx 2) 6 46 * 64 + 32 * r
  let old := s.versionWords (r % 4) ctx r
  let s := if VersionEntry.wv old = VersionEntry.wv words then s
    else s.devWrite (pa + 2) 4 (VersionEntry.wv words + VersionEntry.pv words * 65536)
  let s := if VersionEntry.hz old = VersionEntry.hz words then s else s.devWrite (pa + 6) 2 (VersionEntry.hz words)
  s.switchDies ctx r words ds

/-- The largest version among a node's valid slots (R113). A version ahead of the die's own is a later one that has just been
published. -/
def NodeWords.youngest (n : NodeWords) (e : List Word) : Option Nat :=
  let age (v : Nat) : Nat := (VersionEntry.wv e + 1 + 65536 - v % 65536) % 65536
  (List.range 4).foldl (fun (b : Option Nat) i =>
    if n.valid i then match b with
      | some v => if age (n.ver i) < age v then some (n.ver i) else b
      | none => some (n.ver i)
    else b) none

/-- A node's words are written at its point of coherence, and WVER of its page's leaf where the largest version of its slots is
another now (R113). -/
def State.putNode (s : State) (x : NodeRef) (e : List Word) (n : NodeWords) : State :=
  let r := (s.devPut x.node n).devRead (x.comp + 1) 2
  match n.youngest e with
  | some v => if v = r.2 then r.1 else r.1.devWrite (x.comp + 1) 2 v
  | none => r.1

/-- LOCK of a node is cleared: the low byte of its first word, whatever its other words have become (R116, step 6). -/
def State.unlockNode (s : State) (x : NodeRef) : State :=
  let r := s.devRead x.node 1
  r.1.devWrite x.node 1 (r.2 % 128)

/-- Where the node of a versioned page's translation lies. -/
def TlbEntry.nodeRef (e : TlbEntry) : NodeRef := { node := e.node, comp := e.compPa, dom := e.dom }

/-- LOCK of a node. -/
def NodeWords.setLock (n : NodeWords) (b : Bool) : NodeWords := n.set 0 (setFld (n.word 0) 7 1 (if b then 1 else 0))

/-- The reclaim rule (R120) on one slot that is no later than the horizon. -/
def NodeWords.reclaimSlot (n : NodeWords) (e : List Word) (u : Nat) : NodeWords :=
  let h := VersionEntry.horizon e
  let au := VersionEntry.age e (n.ver u)
  if !n.valid u || decide (au < h) then n
  else
    let gone (g : Nat) : Bool := (List.range 4).any (fun i => i != u && n.holds i g
      && decide (h - 1 ≤ VersionEntry.age e (n.ver i)) && decide (VersionEntry.age e (n.ver i) < au))
    (List.range 16).foldl (fun (m : NodeWords) g => if gone g then m.setMask u (m.mask u - (if bitsAt (m.mask u) g 1 = 1 then 2 ^ g else 0)) else m) n

/-- The reclaim rule on a node (R120): the node, and the frames freed. A freed slot loses FV and keeps its other fields, MASK
too (R121, R382). -/
def NodeWords.reclaim (n : NodeWords) (e : List Word) : NodeWords × List Nat :=
  let h := VersionEntry.horizon e
  let masked := (List.range 4).foldl (fun (m : NodeWords) u => m.set 6 (setFld (NodeWords.word m 6) (16 * u) 16 (NodeWords.mask (n.reclaimSlot e u) u))) n
  (List.range 4).foldl (fun (r : NodeWords × List Nat) u =>
    if n.valid u && decide (h ≤ VersionEntry.age e (n.ver u)) then
      if r.1.mask u = 0 then ((r.1.setMask u (n.mask u)).set (u + 1) (setFld (r.1.word (u + 1)) 0 1 0), r.2 ++ [r.1.frame u])
      else (r.1.setVer u (VersionEntry.hz e), r.2)
    else r) (masked, [])

/-- A page's translations go from the dies whose DA bit is set (R116, step 5). -/
def State.discardPage (s : State) (ctx : BitVec 12) (page : Nat) : State :=
  let ctl := wd (2 ^ 48 + ctx.toNat * 2 ^ 36)
  (List.range 4).foldl (fun s d => s.shootDie d (wd (page * 65536)) ctl) s

/-- The device copies poison with the data: a line of the copy is poisoned exactly where its source cannot be read. DESIGN CHOICE, log
entry 76: R47 says what fibres and commands that need such data do, and not what a move of its page does. -/
def State.copyPoison (s : State) (src dst n : Nat) : State :=
  let bad (i : Nat) : Bool := (List.range 32).any (fun j => s.poisonWord (homeOf (src / 4 + 32 * i + j)) (src / 4 + 32 * i + j))
  let lines := ((List.range (n / 32)).filter bad).map (fun i => dst / 128 + i)
  let kept := s.plat.poisoned.filter (fun l => !(decide (dst / 128 ≤ l) && decide (l < dst / 128 + n / 32)))
  if lines.isEmpty && kept.length == s.plat.poisoned.length then s
  else { s with plat := { s.plat with poisoned := lines.foldl insertPlace kept } }

/-- `n` words copied between physical addresses at their points of coherence: the writes' completion time. -/
def State.copyWords (s : State) (dom : Domain) (src dst : Nat) (n : Nat) : State × Word :=
  let s := s.copyPoison src dst n
  (List.range n).foldl (fun (r : State × Word) i =>
    let x := r.1.homeRead none (src / 4 + i)
    let y := x.1.homeWrite dom (dst / 4 + i) x.2 0xFF none
    (y.1, later r.2 y.2)) (s, s.gtb)

/-! ## Copy on write (R116, R119) -/

/-- A pool entry names an acceptable frame (R49, R113). -/
def State.poolOk (s : State) (w : Word) : Bool :=
  zeroBits w 0 16 && zeroBits w 52 12 && s.frameOk (frameOf w)

/-- The next acceptable frame of a pool; unacceptable ones go to the return ring with bit 0 set (R50, R116). DESIGN CHOICE, log
entry 73: one that finds no room there stays in the pool, which counts as empty. -/
def State.poolFrame (s : State) (rings : Nat) : Nat → State × Option Nat
  | 0 => (s, none)
  | n + 1 =>
    if (s.ring (rings + 32)).2.room then
      match s.ringTake rings with
      | (s, none) => (s, none)
      | (s, some w) =>
        if s.poolOk w then (s, some (frameOf w))
        else State.poolFrame (s.ringPut (rings + 32) [wd (frameOf w + 1)]).1 rings n
    else
      match s.ringTake rings with
      | (t, some w) => if s.poolOk w then (t, some (frameOf w)) else (s, none)
      | (_, none) => (s, none)

/-- A version fault that cannot take a frame: LOCK is cleared and a record is written (R119, R340). -/
def State.versionFails (s : State) (d i : Nat) (e : WaitEntry) (cause : FaultCause) (rid : Nat) : State :=
  let va := wd (e.key.toNat + e.gran * 4096)
  let r := (s.faultWords d i e.ctx cause va rid e.eng (if e.rmw then .atomic else .write) e.pc).set 3 e.time
  { s.updDie d (fun x => { x with wait := AMap.put x.wait i { e with cause := cause } }) with records2 := s.records2 ++ [r] }

/-- The lines of frames. -/
def frameLines (frames : List Nat) : List Nat := frames.flatMap (fun f => (List.range 512).map (fun l => f / 128 + l))

/-- The latest lease that any die holds on lines (R121, step 4). -/
def State.latestLease (s : State) (lines : List Nat) (from_ : Word) : Word :=
  lines.foldl (fun t l => (List.range 4).foldl (fun t d => later t (s.leaseTc d l none)) t) from_

/-- Remote holders of a POD region's lines are told to drop them (R121, step 4). -/
def State.recallLines (s : State) (dom : Domain) (lines : List Nat) : State :=
  if dom = .pod then lines.foldl (fun s l => s.backInvalidate l) s else s

/-- Some remote holder of frames' lines has not answered. -/
def State.recallWaits (s : State) (frames : List Nat) : Bool :=
  s.fabric.biPending.any (fun b => frames.any (fun f => decide (f / 128 ≤ b.1) && decide (b.1 < f / 128 + 512)))

/-- One entry of a die's wait table is replaced. -/
def State.putWait (s : State) (d i : Nat) (e : WaitEntry) : State :=
  s.updDie d (fun x => { x with wait := AMap.put x.wait i e })

/-- Slots freed for a copy: the node is written, and the frames go back once the GTB passes their leases (R116, R120). -/
def State.reclaimForCopy (s : State) (d i : Nat) (e : WaitEntry) (p : TlbEntry) (n : NodeWords) (frames : List Nat) : State :=
  let s := (s.putNode p.nodeRef (s.versionWords d e.ctx n.rid) (n.setLock true)).discardPage e.ctx (e.key.toNat / 65536)
  let lines := frameLines frames
  (s.recallLines p.dom lines).putWait d i { e with
    till := some (s.latestLease lines s.gtb), leaf := some p.nodeRef, slot := none, freed := frames }

/-- The slot of the write version, made from a pool frame where the node has none: the node, the slot and its frame. -/
def State.copyTarget (s : State) (n : NodeWords) (wv rings : Nat) : State × Option (NodeWords × Nat × Nat) :=
  match (List.range 4).find? (fun j => n.valid j && n.ver j == wv) with
  | some j => (s, some (n, j, n.frame j))
  | none =>
    match (List.range 4).find? (fun j => !n.valid j) with
    | none => (s, none)
    | some j =>
      match s.poolFrame rings 65536 with
      | (s, some f) => (s, some (NodeWords.setMask (NodeWords.setVer (n.set (j + 1) (wd (f + 1))) j wv) j 0, j, f))
      | (s, none) => (s, none)

/-- The granule is copied into a slot of the write version; LOCK stays set until the GTB passes the completion time. -/
def State.copyGranule (s : State) (d i : Nat) (e : WaitEntry) (p : TlbEntry) (n : NodeWords) (t : List Word) (src : Nat) : State :=
  let wv := VersionEntry.wv t
  match s.copyTarget n wv (VersionEntry.rings t) with
  | (s, none) =>
    let full := (List.range 4).all (fun j => n.valid j)
    (s.putNode p.nodeRef t (n.setLock false)).versionFails d i e (if full then .nodeFull else .poolEmpty) n.rid
  | (s, some (m, j, f)) =>
    let s := s.putNode p.nodeRef t (m.setLock true)
    let r := s.copyWords p.dom (src + 4096 * e.gran) (f + 4096 * e.gran) 1024
    r.1.putWait d i { e with till := some r.2, leaf := some p.nodeRef, slot := some j }

/-- The copy begins: LOCK, the reclaim of R120 where all four slots are valid, a frame, and the copy. -/
def State.startCopy (s : State) (d i : Nat) (e : WaitEntry) : State :=
  match s.translateDie d e.ctx e.key.toNat with
  | (s, .error _) => s.wakeEntry d i e
  | (s, .ok p) =>
    if p.kind ≠ 1 then s.wakeEntry d i e
    else
      let r := s.devWords p.node 8
      let s := r.1
      let n : NodeWords := r.2
      let t := s.versionWords d e.ctx n.rid
      if n.locked then s
      else if !(VersionEntry.ok t && s.nodeOk e.ctx t n) then s.wakeEntry d i e
      else
        match n.resolve t e.gran (VersionEntry.wv t) with
        | none => s.wakeEntry d i e
        | some j =>
          if n.ver j = VersionEntry.wv t then s.wakeEntry d i e
          else if (List.range 4).all (fun j => n.valid j && n.ver j != VersionEntry.wv t) then
            let m := n.reclaim t
            if m.2.isEmpty then s.copyGranule d i e p m.1 t (n.frame j) else s.reclaimForCopy d i e p m.1 m.2
          else s.copyGranule d i e p n t (n.frame j)

/-- Frames go on a return ring while there is room: those that did not fit. -/
def State.returnFrames (s : State) (rings : Nat) : List Nat → State × List Nat
  | [] => (s, [])
  | f :: fs =>
    match s.ringPut (rings + 32) [wd f] with
    | (s, true) => State.returnFrames s rings fs
    | (s, false) => (s, f :: fs)

/-- The lines of freed frames go from every L2, and from the L1s that the L2 includes (R44, R121, step 4). -/
def State.dropLinesOf (s : State) (gone : Nat → Bool) : State :=
  (List.range 4).foldl (fun (s : State) d =>
    let s := (s.die d).l2.foldl (fun (s : State) (l : Nat × L2Line) => if gone l.1 then s.l2Evict d l.1 else s) s
    s.updDie d (fun x => { x with dir := x.dir.filter (fun (l : Nat × DirLine) => !gone l.1) })) s

/-- The lines of frames leave every L2. -/
def State.dropLines (s : State) (frames : List Nat) : State :=
  s.dropLinesOf (fun l => frames.any (fun f => decide (f / 128 ≤ l) && decide (l < f / 128 + 512)))

/-- COPIES of a region gains 1, in memory first and then at every die (R110, R116). -/
def State.addCopy (s : State) (ctx : BitVec 12) (r : Nat) : State :=
  let n := min (2 ^ 32 - 1) (fld (VersionEntry.word (s.versionWords (r % 4) ctx r) 3) 32 32 + 1)
  let s := s.devWrite (fld (s.record ctx 2) 6 46 * 64 + 32 * r + 28) 4 n
  (List.range 4).foldl (fun (s : State) d => s.updDie d (fun x => { x with
    versions := x.versions.map (fun (v : Nat × VersionEntry) => if v.1 = ctx.toNat * 16 + r then
      (v.1, { words := v.2.words.set 3 (setFld (VersionEntry.word v.2.words 3) 32 32 n) }) else v) })) s

/-- The engine's step under LOCK ends. A reclaim returns its frames while there is room, clears LOCK, and the copy starts
again; a copy sets MASK, discards the page's translations, counts, clears LOCK and wakes the fibres (R116, steps 5 and 6). -/
def State.finishCopy (s : State) (d i : Nat) (e : WaitEntry) : State :=
  match e.leaf with
  | none => s.wakeEntry d i { e with till := none }
  | some x =>
    let r := s.devWords x.node 8
    let s := r.1
    let n : NodeWords := r.2
    match e.slot with
    | none =>
      if s.recallWaits e.freed then s
      else
        let back := (s.dropLines e.freed).returnFrames (VersionEntry.rings (s.versionWords d e.ctx n.rid)) e.freed
        if !back.2.isEmpty then back.1.putWait d i { e with freed := back.2 }
        else
          let s := back.1.unlockNode x
          if e.waiters.isEmpty then s.freeToken d i else s.putWait d i { e with till := none, leaf := none, freed := [] }
    | some j =>
      let s := s.devPut x.node (n.setMask j (n.mask j ||| 2 ^ e.gran))
      let s := ((s.discardPage e.ctx (e.key.toNat / 65536)).addCopy e.ctx n.rid).unlockNode x
      s.wakeEntry d i { e with till := none }

/-- COPY_ON_WRITE: the copy for a version entry begins, or ends once the GTB has passed its completion time. An entry that
has failed waits for its answer. -/
def execCopyOnWrite (die token : Nat) (s : State) : Host.Outcome State Fault Refusal :=
  match AMap.find (s.die die).wait token with
  | none => .next s
  | some e =>
    if e.kind != .version then .next s
    else
      match e.till with
      | some tc => if tc.toNat < s.gtb.toNat then .next (s.finishCopy die token e) else .next s
      | none => if e.cause == .notPresent then .next (s.startCopy die token e) else .next s

/-! ## VPUB and VRECL (R117, R118, R121, R330) -/

/-- The region's snapshot engine has no operation that is accepted and not complete (R122). -/
def State.regionIdle (s : State) (ctx : BitVec 12) (r : Nat) : Bool :=
  !(s.die (r % 4)).snaps.any (fun x => x.ctx == ctx && x.region == r)

/-- The traps of an acceptance that both commands share (R82, R111). -/
def State.snapTrap (s : State) (ctx : BitVec 12) (r : Nat) : Option Trap :=
  if (s.die (r % 4)).dead then some { code := .dataLost, info0 := wd (Config.freeNat s.freeCtr 0), info1 := wd (r % 4) }
  else if !VersionEntry.ok (s.versionWords (r % 4) ctx r) then some { code := .protection, info0 := 0, info1 := 0 }
  else none

/-- VERSION_WINDOW (R346). -/
def windowTrap (r : Nat) (t : List Word) : Trap :=
  { code := .versionWindow, info0 := wd r, info1 := wd (VersionEntry.wv t + VersionEntry.hz t * 2 ^ 16) }

/-- A command that a snapshot engine has accepted enters the group's snapshot queue and the engine. -/
def State.accepted (s : State) (l : Lane) (r : Nat) (body : CommandBody) (page : Option Nat) : State :=
  let g := (l.fibre s).gslot
  let ctx := l.ctx s
  let id := (s.group l.c g).nextCmd
  let s := s.enqueue l.c g 5 l.p body s.gtb
  s.updDie (r % 4) (fun x => { x with
    snaps := x.snaps ++ [{ ctx := ctx, region := r, page := page, freed := none, leaf := none, issuer := (l.c, g, id) }] })

/-- The engine is free for a lane's command: the region is idle, and earlier commands of the group's queue are complete. -/
def Lane.snapFree (l : Lane) (s : State) (r : Nat) : Bool :=
  s.regionIdle (l.ctx s) r && ((s.groupOf l.c l.p).queues.getD 5 []).isEmpty

/-- VPUB at its acceptance. Each die switches to the new values then, or later, until the command is complete. -/
def vpubBody (o : OwnOp) (l : Lane) (s : State) : LaneEnd :=
  let r := o.mod.toNat % 16
  let ctx := l.ctx s
  match s.snapTrap ctx r with
  | some t => .trap s t
  | none =>
    if !l.snapFree s r then .stall
    else
      let t := s.versionWords (r % 4) ctx r
      if VersionEntry.horizon t = 2 ^ 15 then .trap s (windowTrap r t)
      else
        let u := VersionEntry.wv t
        let new := VersionEntry.with t ((u + 1) % 65536) (VersionEntry.hz t)
        let s1 := s.accepted l r (.vpub (r % 4) r) none
        let s2 := s1.putVersion ctx r new ((List.range 4).filter (fun d => d == r % 4 || s.coin d 2))
        .go (l.put s2 o.ctl.t o.d (wd u))

def execVpub (o : OwnOp) (s : State) : Host.Outcome State Fault Refusal :=
  issueAccept (.vpub o) (checksOf (.vpub o) o.ctl [o.d.toNat]) (vpubBody o) s

/-- VRECL at its acceptance. -/
def vreclBody (o : OwnOp) (l : Lane) (s : State) : LaneEnd :=
  let r := o.mod.toNat % 16
  let ctx := l.ctx s
  match s.snapTrap ctx r with
  | some t => .trap s t
  | none =>
    if !l.snapFree s r then .stall
    else
      let t := s.versionWords (r % 4) ctx r
      let x := (l.reg s o.a).toNat % 65536
      let b := VersionEntry.age t x
      if b = 0 ∨ 2 ^ 15 ≤ b then .trap s (windowTrap r t)
      else if VersionEntry.horizon t ≤ b then .go (l.put s o.ctl.t o.d 1)
      else
        let new := VersionEntry.with t (VersionEntry.wv t) x
        let s1 := s.accepted l r (.vrecl (r % 4) r (BitVec.ofNat 16 x)) (some 0)
        .go (l.put (s1.putVersion ctx r new (List.range 4)) o.ctl.t o.d 0)

def execVrecl (o : OwnOp) (s : State) : Host.Outcome State Fault Refusal :=
  issueAccept (.vrecl o) (checksOf (.vrecl o) o.ctl (regsDA o.d o.a)) (vreclBody o) s

/-- VPUB_ACCEPT: a snapshot engine accepts or refuses the VPUB of the next lane of a group. -/
def execVpubAccept (core slot : Nat) (s : State) : Host.Outcome State Fault Refusal :=
  match s.nextAccept core slot (fun i => match i with
    | .vpub _ => true
    | _ => false) with
  | some (n, .vpub o, p) => .next (s.acceptLane core n p (checksOf (.vpub o) o.ctl [o.d.toNat]) (vpubBody o))
  | _ => .next s

/-- VRECL_ACCEPT. -/
def execVreclAccept (core slot : Nat) (s : State) : Host.Outcome State Fault Refusal :=
  match s.nextAccept core slot (fun i => match i with
    | .vrecl _ => true
    | _ => false) with
  | some (n, .vrecl o, p) => .next (s.acceptLane core n p (checksOf (.vrecl o) o.ctl (regsDA o.d o.a)) (vreclBody o))
  | _ => .next s

/-- A snapshot operation is complete. -/
def State.snapDone (s : State) (d : Nat) (x : SnapOp) : State :=
  (s.updDie d (fun y => { y with snaps := y.snaps.filter (fun z => !(z == x)) })).dropCommand x.issuer.1 x.issuer.2.1 x.issuer.2.2

/-- Every version fault raised under the version published, on whichever die, has finished its step 6 and had its write
performed (R118). -/
def State.vpubSettled (s : State) (x : SnapOp) (t : List Word) : Bool :=
  let mine (ctx : BitVec 12) (rid wv : Nat) : Bool := ctx == x.ctx && rid == x.region && wv == VersionEntry.pv t
  !(List.range 4).any (fun d => (s.die d).wait.any (fun (e : Nat × WaitEntry) =>
      e.2.kind == .version && mine e.2.ctx e.2.rid e.2.wv))
    && s.owed.all (fun o => !(mine o.ctx o.rid o.wv && s.stillOwes o))

/-- VPUB_COMPLETE: every die has switched, and no version fault of the version published is left. Until then more dies may
switch. -/
def execVpubComplete (ctx : BitVec 12) (region : BitVec 4) (s : State) : Host.Outcome State Fault Refusal :=
  let r := region.toNat
  match (s.die (r % 4)).snaps.find? (fun x => x.ctx == ctx && x.region == r && x.page.isNone) with
  | some x =>
    let t := s.versionWords (r % 4) ctx r
    if s.vpubSettled x t then .next ((s.switchDies ctx r t (List.range 4)).snapDone (r % 4) x)
    else .next (s.switchDies ctx r t ((List.range 4).filter (fun d => s.coin d 2)))
  | none => .next s

/-- The engine's operation with its state replaced. -/
def State.putSnap (s : State) (d : Nat) (x y : SnapOp) : State :=
  s.updDie d (fun z => { z with snaps := z.snaps.map (fun w => if w = x then y else w) })

/-- A page of a VRECL is visited: steps 1 and 2 of R121. A page that has no well-formed versioned leaf holds nothing to
reclaim. -/
def State.visitPage (s : State) (d : Nat) (x : SnapOp) (p : Nat) : State :=
  let t := s.versionWords d x.ctx x.region
  let page := VersionEntry.base t + p
  let skip (s : State) : State := s.putSnap d x { x with page := some (p + 1) }
  match s.translateDie d x.ctx (page * 65536) with
  | (s, .error _) => skip s
  | (s, .ok e) =>
    if e.kind ≠ 1 then skip s
    else
      let r := s.devWords e.node 8
      let s := r.1
      let n : NodeWords := r.2
      if n.locked then s
      else if !(s.nodeOk x.ctx t n) then skip s
      else
        let m := n.reclaim t
        let s := (s.putNode e.nodeRef t (m.1.setLock true)).discardPage x.ctx page
        let lines := frameLines m.2
        let tc := s.latestLease lines s.gtb
        let s := s.recallLines e.dom lines
        s.putSnap d x { x with freed := some (tc, m.2, !m.2.isEmpty), leaf := some e.nodeRef }

/-- Steps 3 to 6 of R121: the lines are dropped, the frames returned while there is room, and LOCK is cleared. -/
def State.leavePage (s : State) (d : Nat) (x : SnapOp) (p : Nat) (tc : Word) (frames : List Nat) (wake : Bool) : State :=
  let t := s.versionWords d x.ctx x.region
  let page := VersionEntry.base t + p
  if s.gtb.toNat ≤ tc.toNat ∨ s.recallWaits frames then s
  else
    let r := (s.dropLines frames).returnFrames (VersionEntry.rings t) frames
    if !r.2.isEmpty then r.1.putSnap d x { x with freed := some (tc, r.2, wake) }
    else
      let s := match x.leaf with
        | some e => r.1.unlockNode e
        | none => r.1
      let s := s.putSnap d x { x with page := some (p + 1), freed := none, leaf := none }
      if wake then
        (List.range 4).foldl (fun s d =>
          ((s.die d).wait.filter (fun (e : Nat × WaitEntry) => e.2.kind == .version && e.2.ctx == x.ctx && e.2.key == wd (page * 65536))).foldl
            (fun (s : State) (e : Nat × WaitEntry) => s.wakeEntry d e.1 e.2) s) s
      else s

/-- VRECL_PAGE_VISIT: the next page of a region's VRECL, or its end. -/
def execVreclPageVisit (ctx : BitVec 12) (region : BitVec 4) (s : State) : Host.Outcome State Fault Refusal :=
  let r := region.toNat
  let d := r % 4
  match (s.die d).snaps.find? (fun x => x.ctx == ctx && x.region == r && x.page.isSome) with
  | none => .next s
  | some x =>
    let p := x.page.getD 0
    match x.freed with
    | some (tc, fs, wake) => .next (s.leavePage d x p tc fs wake)
    | none =>
      if VersionEntry.pages (s.versionWords d ctx r) ≤ p then .next (s.snapDone d x) else .next (s.visitPage d x p)

end Sys2Proof.Machine
end

