-- ==== Sys2Proof/Machine/Fabric.lean ====
section
/-! DEFINITION. The scale-up fabric (R27, R73 to R80, R83, R391): sending, the logical planes and their recovery, the
tag windows of a target, back-invalidation, and dead peers; and the death of a die (R81, R82). -/

namespace Sys2Proof.Machine

/-! ## Accesses to symmetric-heap memory of this package -/

/-- The size of the single accesses of a run of `n` bytes (R85): eight bytes where everything is a multiple of eight. -/
def chunkOf (va n : Nat) : Nat :=
  if va % 8 = 0 ∧ n % 8 = 0 then 8 else if va % 4 = 0 ∧ n % 4 = 0 then 4 else if va % 2 = 0 ∧ n % 2 = 0 then 2 else 1

/-- A place that a peer access names: its domain must be POD (R27). A store that is performed sets the page's DD bit (R16). -/
def State.peerPlace (s : State) (ctx : BitVec 12) (va : Word) (n : Nat) (k : AccessKind) : State × Except AccessStop Place :=
  match s.resolveVia (Via.dev s.liveDie) ctx va n (if k = .write then .claim else k) none true with
  | (s, .error x) => (s, .error x)
  | (s, .ok p) =>
    if p.dom = .pod then (if k = .write then s.markWritten s.liveDie p.e else s, .ok p) else (s, .error (trap0 .protection va))

/-- Bytes little-endian from and to a number. -/
def bytesOf : Nat → Nat → List Byte
  | 0, _ => []
  | n + 1, v => BitVec.ofNat 8 v :: bytesOf n (v / 256)
def numOf : List Byte → Nat
  | [] => 0
  | b :: bs => b.toNat + 256 * numOf bs

/-- `count` accesses of `c` bytes read from `va` on. -/
def State.peerRead (s : State) (ctx : BitVec 12) (va : Word) (c : Nat) : Nat → State × Except AccessStop (List Byte)
  | 0 => (s, .ok [])
  | k + 1 =>
    match s.peerPlace ctx va c .read with
    | (s, .error x) => (s, .error x)
    | (s, .ok p) =>
      let r := s.homeGet p va c
      match State.peerRead r.1 ctx (va + wd c) c k with
      | (s, .error x) => (s, .error x)
      | (s, .ok bs) => (s, .ok (bytesOf c r.2 ++ bs))

/-- `count` accesses of `c` bytes written from `va` on: the completion time. -/
def State.peerWrite (s : State) (ctx : BitVec 12) (va : Word) (c : Nat) (bs : List Byte) : Nat → State × Except AccessStop Word
  | 0 => (s, .ok s.gtb)
  | k + 1 =>
    match s.peerPlace ctx va c .write with
    | (s, .error x) => (s, .error x)
    | (s, .ok p) =>
      let r := s.homeSet p va c (numOf (bs.take c))
      match State.peerWrite r.1 ctx (va + wd c) c (bs.drop c) k with
      | (s, .error x) => (s, .error x)
      | (s, .ok t) => (s, .ok (later r.2 t))

/-- An atomic at the home (R69): the old value and the completion time. A compare that fails stores nothing (R266). -/
def State.peerRmw (s : State) (ctx : BitVec 12) (va : Word) (n : Nat) (f : Nat → Nat) (stores : Nat → Bool := fun _ => true) :
    State × Except AccessStop (Nat × Word) :=
  match s.peerPlace ctx va n .atomic with
  | (s, .error x) => (s, .error x)
  | (s, .ok p) =>
    if p.e.kind = 2 then (s, .error (trap0 .formatSize va))
    else
      let r := s.homeGet p va n
      if stores r.2 then
        let w := (r.1.markWritten s.liveDie p.e).homeSet p va n (f r.2)
        (w.1, .ok (r.2, w.2))
      else (r.1, .ok (r.2, s.gtb))

/-- A write whose bytes are not all enabled: each enabled byte is written (R391). -/
def State.peerWriteSome (s : State) (ctx : BitVec 12) (va : Word) : List (Byte × Bool) → State × Except AccessStop Word
  | [] => (s, .ok s.gtb)
  | (b, on) :: rest =>
    match (if on then s.peerWrite ctx va 1 [b] 1 else (s, .ok s.gtb)) with
    | (s, .error x) => (s, .error x)
    | (s, .ok t) => match State.peerWriteSome s ctx (va + 1) rest with
      | (s, .error x) => (s, .error x)
      | (s, .ok u) => (s, .ok (later t u))

/-- The size of the single accesses of a fabric operation, and how many it makes (R85). -/
def opChunks : FabricOp → Nat × Nat
  | .read va n => (chunkOf va.toNat n, n / chunkOf va.toNat n)
  | .write va data _ => (chunkOf va.toNat data.length, data.length / chunkOf va.toNat data.length)
  | .atomic _ sz _ _ _ | .cas _ sz _ _ => (sz.bytes, 1)
  | .unsupported => (1, 0)

/-- Access `i` of a fabric operation at this package: the bytes it returns. -/
def State.peerPerform (s : State) (ctx : BitVec 12) (op : FabricOp) (i : Nat) : State × Except AccessStop (List Byte) :=
  let c := (opChunks op).1
  match op with
  | .read va _ => s.peerRead ctx (va + wd (c * i)) c 1
  | .write va data on =>
    let bs := (data.drop (c * i)).take c
    let es := (on.drop (c * i)).take c
    match (if es.all id then s.peerWrite ctx (va + wd (c * i)) c bs 1 else s.peerWriteSome ctx (va + wd (c * i)) (bs.zip es)) with
    | (s, .ok _) => (s, .ok [])
    | (s, .error x) => (s, .error x)
  | .atomic va sz aop v _ => match s.peerRmw ctx va sz.bytes (fun m => aopVal sz.bytes aop m v.toNat) with
    | (s, .ok r) => (s, .ok (bytesOf sz.bytes r.1))
    | (s, .error x) => (s, .error x)
  | .cas va sz cmp new => match s.peerRmw ctx va sz.bytes (casVal sz.bytes cmp.toNat new.toNat) (casStores sz.bytes cmp.toNat) with
    | (s, .ok r) => (s, .ok (bytesOf sz.bytes r.1))
    | (s, .error x) => (s, .error x)
  | .unsupported => (s, .ok [])

/-- A request of the forms that R391 gives: reads of 1 to 128 bytes, atomics of 4 or 8 bytes. Any other is dropped as stale. -/
def opOk : FabricOp → Bool
  | .read _ n => decide (1 ≤ n) && decide (n ≤ 128)
  | .write _ data on => decide (1 ≤ data.length) && decide (data.length ≤ 128) && on.length == data.length
  | .atomic _ sz _ _ _ | .cas _ sz _ _ => sz == .b4 || sz == .b8
  | .unsupported => false

/-- The address a fabric operation names. -/
def opVa : FabricOp → Word
  | .read va _ | .write va _ _ | .atomic va _ _ _ _ | .cas va _ _ _ => va
  | .unsupported => 0

/-- A request whose answer holds the value that it read, so that the requester's package receives a copy of the line (R73). -/
def opReads : FabricOp → Bool
  | .read _ _ | .cas _ _ _ _ => true
  | .atomic _ _ _ _ value => value
  | .write _ _ _ | .unsupported => false

/-- A request that stores. -/
def opWrites : FabricOp → Bool
  | .write _ _ _ | .atomic _ _ _ _ _ | .cas _ _ _ _ => true
  | .read _ _ | .unsupported => false

/-! ## The checks of R27 at the issuing package -/

/-- The symmetric heap of a context holds `n` bytes at `va` (R8). -/
def State.inHeap (s : State) (ctx : BitVec 12) (va n : Nat) : Bool :=
  let base := fld (s.record ctx 3) 21 36 * 2 ^ 21
  decide (base ≤ va) && decide (va + n ≤ base + fld (s.record ctx 4) 0 36 * 2 ^ 21)

/-- The trap of a peer access before it is sent: IDs of the span, peer register, address and size. -/
def State.peerTrap (s : State) (ctx : BitVec 12) (members : List Nat) (peer va : Word) (n : Nat) : Option Trap :=
  let id := fld peer 0 10
  if va.toNat % n ≠ 0 then some { code := .misaligned, info0 := va, info1 := 0 }
  else if !zeroBits peer 10 54 || decide (id ∉ members) || !(id == s.accid || flag (s.peerEntry id) 16) || !s.inHeap ctx va.toNat n then
    some { code := .protection, info0 := va, info1 := 0 }
  else if id != s.accid && flag (s.peerEntry id) 17 then some { code := .peerLost, info0 := wd id, info1 := va }
  else none

/-! ## Sending (R75 to R77) -/

/-- The logical plane of an address. -/
def planeOf (va : Nat) : Nat := va / 128 % 16

/-- Requests may be issued on a logical plane. -/
def State.planeOpen (s : State) (p : Nat) : Bool :=
  flag s.plat.pkgCfg 63 && !s.fabric.quiesce.getLsbD p && !s.fabric.down.getLsbD (fld s.fabric.steer (4 * p) 4)
    && AMap.getD s.fabric.timers p .idle == .idle

/-- The requests to a target on a plane. -/
def State.sendWindow (s : State) (id p : Nat) : SendWindow := AMap.getD s.fabric.send (16 * id + p) { next := 0, sent := [] }

/-- The tag window of R77 has room for one request more. -/
def SendWindow.room (w : SendWindow) : Bool :=
  match w.sent with
  | [] => true
  | r :: _ => decide ((w.next - r.tag).toNat ≤ 255)

/-- Reads that are on their way to a peer are kept as copies no longer, of those that a test takes. -/
def State.forgetReads (s : State) (which : Nat → FabricOp → Bool) : State :=
  { s with fabric := { s.fabric with send := s.fabric.send.map (fun (w : Nat × SendWindow) => (w.1, { w.2 with
      sent := w.2.sent.map (fun (r : SentRequest) => if which (w.1 / 16) r.op then { r with keep := false } else r) })) } }

/-- A request is issued; none where it must wait. The package's own copies of a line that it writes go, and reads of it that are
on their way leave none (R73, R87). -/
def State.sendPeer (s : State) (id : Nat) (op : FabricOp) (waiter : Waiter) (value : Bool) (pc : BitVec 48) : Option (State × BitVec 16) :=
  let p := planeOf (opVa op).toNat
  let w := s.sendWindow id p
  if s.planeOpen p && w.room then
    let reads := match op with
      | .read _ _ => true
      | _ => false
    let sets := match waiter with
      | .fibre c q => s.clauseSets c q
      | _ => (none, none)
    let r : SentRequest :=
      { tag := w.next, op := op, since := s.gtb, waiter := waiter, value := value, pc := pc, sets := sets, sent := s.gtb, keep := reads }
    let mine (va : Word) : Bool := va.toNat / 128 == (opVa op).toNat / 128
    let s : State := if reads then s
      else { s.forgetReads (fun i x => i == id && mine (opVa x)) with
        fabric := { (s.forgetReads (fun i x => i == id && mine (opVa x))).fabric with
          copies := s.fabric.copies.filter (fun c => !(c.home == id && mine c.va)) } }
    let w := s.sendWindow id p
    some ({ s with fabric := { s.fabric with
        send := AMap.put s.fabric.send (16 * id + p) { next := w.next + 1, sent := w.sent ++ [r] } } }, w.next)
  else none

/-- Every request on a plane is issued again (R76, R77). -/
def State.resend (s : State) (p : Nat) : State :=
  { s with fabric := { s.fabric with send := s.fabric.send.map (fun (w : Nat × SendWindow) =>
      if w.1 % 16 = p then (w.1, { w.2 with sent := w.2.sent.map (fun r => { r with sent := s.gtb }) }) else w) } }

/-- A plane has no request without a response (DRAINED). -/
def State.drained (s : State) (p : Nat) : Bool :=
  s.fabric.send.all (fun (w : Nat × SendWindow) => w.1 % 16 != p || w.2.sent.isEmpty)

/-- RECOVERY_TIMER (R77): it fires, and after a further interval the requests are re-sent. -/
def State.recover (s : State) (plane : Nat) : State :=
  let rto := s.fabric.rto.toNat
  match AMap.getD s.fabric.timers plane .idle with
  | .idle =>
    let due := s.fabric.send.any (fun (w : Nat × SendWindow) => w.1 % 16 == plane && w.2.sent.any (fun r => decide (r.sent.toNat + rto ≤ s.gtb.toNat)))
    if due && decide (plane < 16) then
      { s with fabric := { s.fabric with
        timers := AMap.put s.fabric.timers plane (.stopped s.gtb), resends := wd (min (2 ^ 64 - 1) (s.fabric.resends.toNat + 1)) } }
    else s
  | .stopped since =>
    if since.toNat + rto ≤ s.gtb.toNat then
      let s := s.resend plane
      { s with fabric := { s.fabric with timers := AMap.drop s.fabric.timers plane } }
    else s

/-- RECOVERY_TIMER. -/
def execRecoveryTimer (plane : Nat) (s : State) : Host.Outcome State Fault Refusal := .next (s.recover plane)

/-! ## Planes (R76) -/

/-- The live physical plane with the fewest logical planes, lower number on a tie. -/
def leastPlane (steer : Word) (down : BitVec 16) : Option Nat :=
  let load (q : Nat) : Nat := ((List.range 16).filter (fun p => fld steer (4 * p) 4 == q)).length
  (List.range 16).foldl (fun (b : Option Nat) q =>
    if down.getLsbD q then b
    else match b with
      | some x => if load q < load x then some q else b
      | none => some q) none

/-- Every logical plane on a physical plane that is down is steered to a live one, and its requests go out again. -/
def State.steerDown (s : State) : State :=
  (List.range 16).foldl (fun s p =>
    if s.fabric.down.getLsbD (fld s.fabric.steer (4 * p) 4) then
      match leastPlane s.fabric.steer s.fabric.down with
      | some q => ({ s with fabric := { s.fabric with steer := setFld s.fabric.steer (4 * p) 4 q } } : State).resend p
      | none => s
    else s) s

/-- PLANE_DOWN: a station reports link failure. -/
def execPlaneDown (station : Nat) (s : State) : Host.Outcome State Fault Refusal :=
  if station < 16 then
    .next ({ s with fabric := { s.fabric with down := s.fabric.down ||| BitVec.ofNat 16 (2 ^ station) } } : State).steerDown
  else .next s

/-- PLANE_UP: a station reports its link up again. -/
def execPlaneUp (station : Nat) (s : State) : Host.Outcome State Fault Refusal :=
  if station < 16 then
    .next ({ s with fabric := { s.fabric with down := s.fabric.down &&& ~~~ BitVec.ofNat 16 (2 ^ station) } } : State).steerDown
  else .next s

/-- A write of PLANE_STEER. -/
def State.writeSteer (s : State) (v : Word) : State :=
  (List.range 16).foldl (fun (t : State) p =>
    let new := fld v (4 * p) 4
    if new != fld s.fabric.steer (4 * p) 4 && s.drained p && !s.fabric.down.getLsbD new then
      { t with fabric := { t.fabric with steer := setFld t.fabric.steer (4 * p) 4 new } }
    else t) s

/-- A write of PLANE_CTL. -/
def State.writeQuiesce (s : State) (v : Word) : State := { s with fabric := { s.fabric with quiesce := v.setWidth 16 } }

def execPlaneSteerWrite (value : Word) (s : State) : Host.Outcome State Fault Refusal := .next (s.writeSteer value)
def execPlaneQuiesceWrite (value : Word) (s : State) : Host.Outcome State Fault Refusal := .next (s.writeQuiesce value)

/-- A write of FAB_RTO (R78). -/
def State.writeRto (s : State) (v : Word) : State :=
  let x := fld v 0 32
  let err := s.fabric.rtoErr && !flag v 63
  if 1000 ≤ x ∧ x ≤ 4000000 then { s with fabric := { s.fabric with rto := BitVec.ofNat 32 x, rtoErr := err } }
  else { s with fabric := { s.fabric with rtoErr := true } }

def execFabRtoWrite (value : Word) (s : State) : Host.Outcome State Fault Refusal := .next (s.writeRto value)

/-- A fabric counter is cleared: 0 STALE_DROPS, 1 DUP_DROPS, 2 RESENDS, 3 BI_SENT (R83). -/
def State.clearCounter (s : State) (k : Nat) : State :=
  match k with
  | 0 => { s with fabric := { s.fabric with staleDrops := 0 } }
  | 1 => { s with fabric := { s.fabric with dupDrops := 0 } }
  | 2 => { s with fabric := { s.fabric with resends := 0 } }
  | 3 => { s with fabric := { s.fabric with biSent := 0 } }
  | _ => s

def execFabricCounterClear (counter : Nat) (s : State) : Host.Outcome State Fault Refusal := .next (s.clearCounter counter)

/-! ## Requests that arrive (R78, R79) -/

/-- Members added to a list without repeats. -/
def addAll (xs ys : List Nat) : List Nat := ys.foldl (fun l y => addDie l y) xs

/-- A holder more in an entry of the snoop filter: a fifth sets SPAN, and the entry then stands for every member of the span
(R73). -/
def SnoopEntry.hold (e : SnoopEntry) (src : Nat) (span : List Nat) : SnoopEntry :=
  if e.span then { e with members := addDie e.members src }
  else if src ∈ e.holders then e
  else if e.holders.length < 4 then { e with holders := src :: e.holders }
  else { e with span := true, members := addAll (src :: e.holders) span }

/-- Members, other than this package, of the spans that run under a context here. -/
def State.spanOf (s : State) (ctx : BitVec 12) : List Nat :=
  (s.grids.flatMap (fun (g : Nat × Grid) => if g.2.ctx = ctx then g.2.members else [])).filter (· != s.accid)

/-- Room for a line in its home's snoop filter of 16 ways: the victim of a full set has its holders invalidated first (R73). Which
set a line falls in and which entry leaves are free values (log entry 63). -/
def State.snoopRoom (s : State) (line : Nat) : State :=
  let mine := (s.die (homeOf (32 * line))).snoop.filter (fun (x : Nat × SnoopEntry) => Config.snoopSet x.1 % 16384 == Config.snoopSet line % 16384)
  if mine.length < 16 then s
  else match mine[Config.freeNat s.freeCtr (11 + line) % mine.length]? with
    | some v => s.backInvalidate v.1
    | none => s

/-- A package takes a copy of a line: its home's snoop filter holds it (R73). -/
def State.addHolder (s : State) (line src : Nat) (ctx : BitVec 12) : State :=
  let h := homeOf (32 * line)
  let t := if (AMap.find (s.die h).snoop line).isSome then s else s.snoopRoom line
  t.updDie h (fun x => { x with
    snoop := AMap.put x.snoop line ((AMap.getD x.snoop line { holders := [], span := false, members := [] }).hold src (t.spanOf ctx)) })

/-- The writing package is no holder of the line that it writes (R73). -/
def State.dropHolder (s : State) (line src : Nat) : State :=
  let h := homeOf (32 * line)
  match AMap.find (s.die h).snoop line with
  | some e => s.updDie h (fun x => { x with snoop := AMap.put x.snoop line { e with
      holders := e.holders.filter (· != src), members := e.members.filter (· != src) } })
  | none => s

/-- The accesses of a fabric operation: how many bytes of its address range, and of what kind. -/
def opSpan : FabricOp → Nat × AccessKind
  | .read _ n => (n, .read)
  | .write _ data _ => (data.length, .write)
  | .atomic _ sz _ _ _ | .cas _ sz _ _ => (sz.bytes, .atomic)
  | .unsupported => (0, .read)

/-- The lines at this package that a fabric operation reads or writes (R73): of plain, versioned and formatted pages alike. -/
def State.opLines (s : State) (ctx : BitVec 12) (op : FabricOp) : List Nat :=
  let n := (opSpan op).1
  let c := chunkOf (opVa op).toNat n
  addAll [] ((List.range (n / c)).flatMap (fun i =>
    let va := opVa op + wd (c * i)
    match s.peerPlace ctx va c (opSpan op).2 with
    | (_, .ok p) => (p.e.parts va.toNat p.pa c).map (fun x => x.1 / 128)
    | (_, .error _) => []))

/-- A page that is not present at this package: one record for the requester's wait-table entry, which it names (R339, R340). -/
def State.peerFault (s : State) (q : FabricRequest) (key va : Word) : State :=
  let x : PeerFault := { src := q.src, die := q.entry.1, token := q.entry.2, ctx := q.ctx, key := key }
  if x ∈ s.fabric.peerFaults then s
  else
    let r := s.faultWords q.entry.1 q.entry.2 q.ctx .notPresent va 0 false (opSpan q.op).2 q.pc.toNat
    { s with
      records2 := s.records2 ++ [r.set 0 (setFld (r.getD 0 0) 24 10 q.src)],
      fabric := { s.fabric with peerFaults := s.fabric.peerFaults ++ [x] } }

/-- Accesses of a request are performed in turn, with what they read kept in its window; they end at one that stops. -/
def State.performParts (s : State) (w : Nat) (q : FabricRequest) : List Nat → State × Option AccessStop
  | [] => (s, none)
  | i :: is =>
    match s.peerPerform q.ctx q.op i with
    | (s, .error x) => (s, some x)
    | (s, .ok bs) =>
      State.performParts { s with fabric := { s.fabric with recv := (s.fabric.recv.map (fun (x : Nat × RecvWindow) =>
        if x.1 = w then (x.1, { x.2 with part := AMap.put x.2.part i bs }) else x)) } } w q is

/-- The accesses of a request that are performed now: one after another of those that are not performed yet, from a freely chosen one on
and as many as a free value says, in no fixed order (R85). -/
def State.partsNow (s : State) (w : Nat) (todo : List Nat) : List Nat :=
  if todo.length ≤ 1 then todo
  else
    let k := Config.freeNat s.freeCtr (40 + w)
    let ls := todo.drop (k % todo.length) ++ todo.take (k % todo.length)
    (if s.coin w 24 then ls.reverse else ls).take (1 + k / todo.length % todo.length)

/-- What the target answers to a failed check. -/
def answerOf (t : Trap) : PeerAnswer :=
  match t.code with
  | .formatSize => .formatSize
  | .dataLost => .dataLost t.info0.toNat t.info1.toNat
  | .pageFault => .pageFault
  | _ => .protection

/-- The answer to the request of a window that has the next tag; none while the request waits at this package, or some of its accesses
are not performed yet. DESIGN CHOICE, log entry 74: a version fault of a peer's store goes to the wait table and the snapshot engine
of the lowest live die. -/
def State.answerPeer (s : State) (w : Nat) (q : FabricRequest) (part : AMap (List Byte)) : State × Option PeerAnswer :=
  let lines := s.opLines q.ctx q.op
  let s := if opWrites q.op then lines.foldl (fun (s : State) l => s.dropHolder l q.src) s else s
  let busy := lines.any (fun l => s.fabric.biPending.any (fun x => x.1 == l))
  let todo := (List.range (opChunks q.op).2).filter (fun i => (AMap.find part i).isNone)
  match s.performParts w q (s.partsNow w todo) with
  | (s, none) =>
    let got := match AMap.find s.fabric.recv w with
      | some x => x.part
      | none => []
    if (List.range (opChunks q.op).2).all (fun i => (AMap.find got i).isSome) then
      let s := if opReads q.op then lines.foldl (fun (s : State) l => s.addHolder l q.src q.ctx) s else s
      (s, some (.data ((List.range (opChunks q.op).2).flatMap (fun i => AMap.getD got i [])) (lines.headD 0) (opReads q.op && busy)))
    else (s, none)
  | (s, some (.trap t)) => (s, some (answerOf t))
  | (s, some (.park kind key va)) =>
    if kind = .fault then (s.peerFault q key va, some .page)
    else
      match s.joinWait s.liveDie kind q.ctx key va (.peer w) true .write 0 with
      | some (s, _) => (s, none)
      | none => (s, none)
  | (s, some .wait) => (s, none)

/-- The request with the next tag is performed, and then every held one in turn; one that waits stays held. -/
def State.runWindow (s : State) (w : Nat) : Nat → State
  | 0 => s
  | n + 1 =>
    match AMap.find s.fabric.recv w with
    | none => s
    | some x =>
      match x.held.find? (fun q => q.tag == x.n + 1) with
      | none => s
      | some q =>
        match s.answerPeer w q x.part with
        | (s, none) => s
        | (s, some a) =>
          let y : RecvWindow := { x with
            n := x.n + 1, done := ((x.n + 1, a) :: x.done).take 512, held := x.held.filter (fun z => z.tag != x.n + 1), part := [] }
          State.runWindow { s with fabric := { s.fabric with recv := AMap.put s.fabric.recv w y } } w n

/-- Requests that have waited at this package, and wait in no entry any longer, are performed (R78, R116). -/
def State.retryPeers (s : State) : State :=
  let waits (w : Nat) : Bool := s.dies.any (fun (d : Nat × Die) => d.2.wait.any (fun (e : Nat × WaitEntry) => decide (Waiter.peer w ∈ e.2.waiters)))
  s.fabric.recv.foldl (fun (s : State) (x : Nat × RecvWindow) =>
    if x.2.held.any (fun q => q.tag == x.2.n + 1) && !waits x.1 then s.runWindow x.1 257 else s) s

/-- FABRIC_REQUEST_ARRIVAL (R78). -/
def execFabricRequestArrival (pkt : FabricRequest) (s : State) : Host.Outcome State Fault Refusal :=
  if !flag s.plat.pkgCfg 63 then .next s
  else if !s.senderOk pkt.src pkt.inc || !opOk pkt.op then .next s.addStale
  else
    let w := 16 * pkt.src + pkt.plane
    let new : RecvWindow := { inc := pkt.inc, n := 0xFFFF, done := [], held := [], part := [] }
    let x := match AMap.find s.fabric.recv w with
      | some x => if x.inc = pkt.inc then x else new
      | none => new
    let d := (pkt.tag - x.n).toNat
    let s := { s with fabric := { s.fabric with recv := AMap.put s.fabric.recv w x } }
    if d = 0 ∨ 2 ^ 16 - 511 ≤ d then .next s.addDup
    else if d ≤ 256 then
      -- a request that waited at this package is tried again when its sender's timer sends it again
      if x.held.any (fun q => q.tag == pkt.tag) then .next (s.addDup.runWindow w 257)
      else
        let y := { x with held := x.held ++ [pkt] }
        .next (({ s with fabric := { s.fabric with recv := AMap.put s.fabric.recv w y } } : State).runWindow w 257)
    else .next s.addStale

/-! ## Back-invalidation (R74, R95) -/

/-- The completion time of the leases that this package's L1s hold on a remote line (R64, R74). -/
def State.copyTc (s : State) (home line : Nat) : Word :=
  (s.fabric.copies.filter (fun x => x.home == home && x.line == line)).foldl (fun t x =>
    x.leases.foldl (fun t (l : Nat × Word) => later t l.2) t) s.gtb

/-- BISNP_RECEIPT: the holder's L2 copy of the line goes; an L1 may use it under its lease, and once every such lease is over the
BIrsp goes (R74). A read of that home that is on its way leaves no copy. A package whose stations are not enabled receives nothing (R387). -/
def execBisnpReceipt (line : Nat) (home : Sender) (s : State) : Host.Outcome State Fault Refusal :=
  if !flag s.plat.pkgCfg 63 then .next s
  else if !s.senderOk home.id home.inc then .next s.addStale
  else
    let t := s.copyTc home.id line
    let s := s.forgetReads (fun i _ => i == home.id)
    .next { s with fabric := { s.fabric with
      copies := s.fabric.copies.map (fun (c : PeerCopy) => if c.home = home.id ∧ c.line = line then { c with inL2 := false } else c),
      biOwed := s.fabric.biOwed ++ [(home.id, line, t)] } }

/-- BIrsp whose time has come are sent, and copies that no L2 and no lease holds go (R74). -/
def State.sendBiRsp (s : State) : State :=
  { s with fabric := { s.fabric with
      biOwed := s.fabric.biOwed.filter (fun (x : Nat × Nat × Word) => decide (s.gtb.toNat ≤ x.2.2.toNat)),
      copies := s.fabric.copies.filter (fun (c : PeerCopy) => c.inL2 || c.leases.any (fun (l : Nat × Word) => decide (s.gtb.toNat ≤ l.2.toNat))) } }

/-- Back-invalidations of a holder, or one of them, are complete. -/
def State.biDone (s : State) (done : Nat × Nat → Bool) : State :=
  { s with fabric := { s.fabric with biPending := s.fabric.biPending.filter (fun x => !done x) } }

/-- BIRSP_RECEIPT: one back-invalidation of the line and holder is complete. The host, which is no accelerator and carries no
incarnation, answers for the copy it holds, or gives one up that an atomic waits for (R69). -/
def execBirspReceipt (line : Nat) (holder : Sender) (s : State) : Host.Outcome State Fault Refusal :=
  if holder.id ≠ hostHolder ∧ !flag s.plat.pkgCfg 63 then .next s
  else if holder.id = hostHolder ∨ s.senderOk holder.id holder.inc then
    .next { s with
      fabric := { s.fabric with biPending := s.fabric.biPending.erase (line, holder.id) },
      plat := { s.plat with hostLines := if holder.id = hostHolder then s.plat.hostLines.filter (· != line) else s.plat.hostLines } }
  else .next s.addStale

/-- A value that a pending access has received waits for its home's report alone: its request is answered (R92). -/
def State.awaitsReport (s : State) (a : Nat × Nat × BitVec 16) : Bool := !(s.sendWindow a.1 a.2.1).sent.any (fun r => r.tag == a.2.2)

/-- A ferry that waits for acquires of peer memory goes on once none is outstanding. -/
def State.freeAcquires (s : State) (c : Nat) : State :=
  s.updCore c (fun k => { k with ferries := k.ferries.map (fun (x : Nat × Ferry) =>
    if x.2.hold == .acquire && x.2.lanes.all (fun p => (s.fibre c p).pending.all (fun y => y.await.isNone)) then
      (x.1, { x.2 with hold := .none }) else x) })

/-- A home has reported to a fibre: it is no pending notice any more, and an acquire that waited for the report is performed (R92, R95). -/
def State.reported (s : State) (c p id : Nat) : State :=
  (s.updFibre c p (fun f => { f with
    notices := f.notices.filter (· != id),
    pending := f.pending.map (fun x => if x.await.any (fun a => a.1 == id && s.awaitsReport a) then { x with await := none } else x) })).freeAcquires c

/-- SETTLE_NOTICE: a home reports that the back-invalidations of a value that a fibre loaded are complete. -/
def execSettleNotice (core place : Nat) (home : Sender) (s : State) : Host.Outcome State Fault Refusal :=
  if home.id == s.accid && !s.fabric.biPending.isEmpty then .next s
  else if home.id != s.accid && !flag s.plat.pkgCfg 63 then .next s
  else if home.id != s.accid && !s.senderOk home.id home.inc then .next s.addStale
  else if s.hasFibre core place then .next (s.reported core place home.id)
  else .next s

/-! ## Dead peers (R79, R80) -/

/-- A fibre goes back to an instruction that it has passed: it will repeat it (R342, R348; log entry 77). -/
def Fibre.backTo (f : Fibre) (r : SentRequest) : Fibre :=
  { f with pc := r.pc, sets := r.sets, target := false, after := none, resumed := true, maint := none }

/-- A fibre traps at an instruction of a peer access that it has passed, with its PC there; one that has a trap outstanding takes this
one where it goes on (R348). -/
def State.trapAt (s : State) (c p : Nat) (r : SentRequest) (t : Trap) : State :=
  let f := s.fibre c p
  if !f.isLive then s
  else match f.waitk with
    | .trap => (s.updFibre c p (fun f => f.backTo r)).raiseDue c p t none
    | _ => ((s.leaveWait c p).takeTrap c p r.pc t).updFibre c p (fun f => f.backTo r)

/-- A pending access of a fibre is given up. -/
def State.dropPending (s : State) (c p id plane : Nat) (tag : BitVec 16) : State :=
  match (s.fibre c p).pending.find? (fun x => x.await == some (id, plane, tag)) with
  | some x => (s.updFibre c p (fun f => ({ f with pending := f.pending.filter (fun y => !(y == x)) } : Fibre).countDown x.flag)).checkDrained c p
  | none => s

/-- Who a command's place stands for: a fibre, one that a SAVE holds, or one that has ended. -/
def placeWaiter (c g place : Nat) : Waiter :=
  if 8192 ≤ place then .saved c g (place - 8192) else if 4096 ≤ place then .ended c g (place - 4096) else .fibre c place

/-- A command that a peer's death ends lost: it counts as complete, and its fibre's loss count gains 1 (R105). -/
def State.loseCommand (s : State) (c g id peer : Nat) : State :=
  match s.commandOf c g id with
  | some x => (s.dropCommand c g id).lose (placeWaiter c g x.place) peer
  | none => s

/-- A request to a dead peer completes. -/
def State.loseRequest (s : State) (id plane : Nat) (r : SentRequest) : State :=
  match r.waiter, r.value with
  | .fibre c p, true =>
    ((s.dropPending c p id plane r.tag).trapAt c p r { code := .peerLost, info0 := wd id, info1 := opVa r.op }).freeAcquires c
  | .command c g k, _ => s.loseCommand c g k id
  | w, _ => s.lose w id

/-- A span grid of a dead member that has not started: one that is queued, or that holds the reservation while some member is not ready
(R166). -/
def State.unstarted (s : State) (id gid : Nat) : Bool :=
  (s.grid gid).any (fun (g : Grid) => g.binding.isNone && Rcd.span g.rcd && decide (id ∈ g.members) && !s.gangStarted gid g)
    && s.colocate != some gid && !s.gangReady gid

/-- A peer is declared dead, with the INC that its entry then has. -/
def State.declareDead (s : State) (id inc : Nat) : State :=
  let e := setFld (setFld (s.peerEntry id) 17 1 1) 0 16 (inc + 1)
  let lost := s.fabric.send.filter (fun (w : Nat × SendWindow) => w.1 / 16 == id)
  let again := s.fabric.redo.filter (fun x => x.id == id)
  let s := { s with fabric := { s.fabric with
    peers := AMap.put s.fabric.peers id e,
    send := s.fabric.send.filter (fun (w : Nat × SendWindow) => w.1 / 16 != id),
    recv := s.fabric.recv.filter (fun (w : Nat × RecvWindow) => w.1 / 16 != id),
    copies := s.fabric.copies.filter (fun c => c.home != id),
    biOwed := s.fabric.biOwed.filter (fun (x : Nat × Nat × Word) => x.1 != id),
    redo := s.fabric.redo.filter (fun x => x.id != id),
    peerFaults := s.fabric.peerFaults.filter (fun x => x.src != id) } }
  let s := { s with dies := s.dies.map (fun (d : Nat × Die) => (d.1, { d.2 with snoop := d.2.snoop.map (fun (x : Nat × SnoopEntry) =>
      (x.1, { x.2 with holders := x.2.holders.filter (· != id), members := x.2.members.filter (· != id) })) })) }
  let s := again.foldl (fun s x => s.loseRequest id (planeOf (opVa x.req.op).toNat) x.req) s
  let s := s.biDone (fun x => x.2 == id)
  let s := lost.foldl (fun s w => w.2.sent.foldl (fun s r => s.loseRequest id (w.1 % 16) r) s) s
  let s := s.cores.foldl (fun (s : State) (k : Nat × Core) => k.2.fibres.foldl (fun (s : State) (f : Nat × Fibre) =>
      if id ∈ f.2.notices ∨ f.2.pending.any (fun x => x.await.any (fun a => a.1 == id)) then s.reported k.1 f.1 id else s) s) s
  let s := (s.queues.flatMap (fun (q : Nat × List Nat) => q.2)).foldl (fun (s : State) gid =>
    if s.unstarted id gid then s.dropGrid gid (fun g => { g with peerLost := true }) else s) s
  s.sendHost 4 [wd id]

/-- Some request to a peer that is not dead has gone PEER_TIMEOUT without a response (R80). -/
def State.peerLate (s : State) (peer : Nat) : Bool :=
  !flag (s.peerEntry peer) 17 && s.fabric.send.any (fun (w : Nat × SendWindow) =>
    w.1 / 16 == peer && w.2.sent.any (fun r => decide (r.since.toNat + s.regs.peerTimeout ≤ s.gtb.toNat)))

/-- PEER_TIMEOUT_DECLARATION. -/
def execPeerTimeoutDeclaration (peer : Nat) (s : State) : Host.Outcome State Fault Refusal :=
  if s.peerLate peer then .next (s.declareDead peer (fld (s.peerEntry peer) 0 16)) else .next s

/-- Recovery timers and time-outs of peers act in the tick that reaches them. -/
def State.fabricTimers (s : State) : State :=
  let s := (List.range 16).foldl (fun (s : State) p => s.recover p) s
  (s.fabric.send.map (fun (w : Nat × SendWindow) => w.1 / 16)).foldl (fun (s : State) p =>
    if s.peerLate p then s.settleAll.declareDead p (fld (s.peerEntry p) 0 16) else s) s

/-- A write of a PEER_INC entry (R79). -/
def State.writePeer (s : State) (id : Nat) (v : Word) : State :=
  let old := s.peerEntry id
  let keep := wd (fld v 0 18)
  if id = s.accid then s
  else if flag v 17 && !flag old 17 then
    ({ s with fabric := { s.fabric with peers := AMap.put s.fabric.peers id keep } } : State).declareDead id (fld v 0 16)
  else
    let fresh := flag old 17 && !flag v 17
    { s with fabric := { s.fabric with
        peers := AMap.put s.fabric.peers id keep,
        send := if fresh then s.fabric.send.filter (fun (w : Nat × SendWindow) => w.1 / 16 != id) else s.fabric.send,
        recv := if fresh then s.fabric.recv.filter (fun (w : Nat × RecvWindow) => w.1 / 16 != id) else s.fabric.recv } }

/-- PEER_DECLARE_DEAD and PEER_READMIT: writes of PEER_INC that set and that clear DEAD. -/
def execPeerDeclareDead (peer : Nat) (value : Word) (s : State) : Host.Outcome State Fault Refusal :=
  if flag value 17 && decide (peer < 1024) then .next (s.writePeer peer value) else .next s
def execPeerReadmit (peer : Nat) (value : Word) (s : State) : Host.Outcome State Fault Refusal :=
  if !flag value 17 && decide (peer < 1024) then .next (s.writePeer peer value) else .next s

/-! ## The death of a die (R81, R82) -/

/-- Two names of one raster target: the same context and address, or a descriptor at the same place (R357). -/
def sameTarget (ctx : BitVec 12) (target : Word) (pa : Option Nat) (ctx' : BitVec 12) (target' : Word) (pa' : Nat) : Bool :=
  (ctx == ctx' && target == target') || pa == some pa'

/-- ABORT of a raster target is set, where its descriptor translates (R357), by an agent of a live die (R16); and where it lies. -/
def State.setAbort (s : State) (ctx : BitVec 12) (target : Word) : State × Option Nat :=
  match s.translateDie s.liveDie ctx target.toNat with
  | (s, .ok e) =>
    let pa := e.pa target.toNat
    let r := (s.markWritten s.liveDie e).devWord (pa + 16)
    (r.1.devWrite (pa + 16) 8 (r.2 ||| 1).toNat, some pa)
  | (s, .error _) => (s, none)

/-- A raster target's frame is aborted (R325): its submissions are discarded, their commands count as complete, and every
fibre that submitted to it traps at its next block boundary. Whether a fibre whose submissions are all consumed submitted to
this frame or to an earlier one is not recorded: a free choice (log entry 7). -/
def State.abortFrame (s : State) (ctx : BitVec 12) (target : Word) : State :=
  let set := s.setAbort ctx target
  let s := set.1
  let mine (x : Submission) : Bool := sameTarget ctx target set.2 x.ctx x.target x.pa
  let his (x : (BitVec 12 × Word × Nat) × (Nat × Nat × Nat)) : Bool := sameTarget ctx target set.2 x.1.1 x.1.2.1 x.1.2.2
  let gone := s.subs.filter mine
  let before := (s.submitters.filter his).map (fun x => x.2)
  let s : State := { s with subs := s.subs.filter (fun x => !mine x), submitters := s.submitters.filter (fun x => !his x) }
  let s := gone.foldl (fun (s : State) x => s.dropCommand x.issuer.1 x.issuer.2.1 x.issuer.2.2) s
  let sure := gone.foldl (fun (l : List (Nat × Nat × Nat)) x =>
    let w := (x.issuer.1, x.issuer.2.1, x.place)
    if w ∈ l then l else l ++ [w]) []
  let others := before.filter (fun w => !decide (w ∈ sure) && s.coin (w.1 * 4096 + w.2.2) 9)
  (sure ++ others).foldl (fun (s : State) w => s.blameFibre w.1 w.2.1 w.2.2 { code := .rasterLinkLost, info0 := target, info1 := 0 }) s

/-- The words of each line that a die held in M or O (R81, step 2): line, mask, context of the latest grant. A die comes to hold a
word in M or O by a grant of E or M only, so one is recorded (log entry 62). -/
def State.scrubbed (s : State) (d : Nat) : List (Nat × Nat × BitVec 12) :=
  (List.range 4).flatMap (fun h =>
    if h = d then []
    else (s.die h).dir.filterMap (fun (l : Nat × DirLine) =>
      let mask := l.2.words.foldl (fun (m : Nat) (w : Nat × DirWord) =>
        match w.2.owner with
        | some (o, st) => if o = d ∧ st ≠ .E then m + 2 ^ w.1 else m
        | none => m) 0
      if mask = 0 then none else some (l.1, mask, l.2.grant.getD 0)))

/-- A die leaves every directory. -/
def State.leaveDirs (s : State) (d : Nat) : State :=
  (List.range 4).foldl (fun (s : State) h => s.updDie h (fun x => { x with
    dir := x.dir.map (fun (l : Nat × DirLine) => (l.1, { l.2 with
      words := l.2.words.map (fun (w : Nat × DirWord) => (w.1, { sharers := w.2.sharers.filter (· != d),
                                                                 owner := w.2.owner.filter (fun o => o.1 != d) })) })) })) s

/-- The scrubbed words of a line return to their values at home: no die, no core and no other package keeps a copy of what is lost
(R81, step 2). -/
def State.scrubLine (s : State) (line mask : Nat) : State :=
  let ws := (List.range 32).filter (fun i => mask.testBit i)
  let s := ws.foldl (fun (s : State) i =>
    let wn := 32 * line + i
    ((List.range 4).foldl (fun (s : State) d => (s.dropL2Word d wn).dieOver d wn) s).setDirWord wn { sharers := [], owner := none }) s
  let old (w : Nat × CacheWord) : Option (Nat × CacheWord) :=
    if w.1 ∈ ws then
      if w.2.mask = 0 then none else some (w.1, { w.2 with value := mergeWord w.2.mask (s.memWord (32 * line + w.1)) w.2.value })
    else some w
  { s with cores := s.cores.map (fun (k : Nat × Core) => match AMap.find k.2.l1 line with
      | some x => (k.1, { k.2 with l1 := AMap.put k.2.l1 line { x with words := x.words.filterMap old } })
      | none => k) }.backInvalidate line

/-- A loss record (R81). -/
def State.lossRecord (s : State) (d : Nat) (inc : BitVec 16) (x : Nat × Nat × BitVec 12) : List Word :=
  [wd (inc.toNat * 2 ^ 48 + d * 2 ^ 34 + s.accid * 2 ^ 24 + x.2.2.toNat * 2 ^ 8 + 3), wd (x.1 * 128), wd x.2.1, s.gtb]

/-- The lane stores that go with a die (R81, R82, R105): those in dirty words of its cores' L1s and in words that it held in M or O,
and those of other dies in words homed on it. -/
def State.lostStores (s : State) (d : Nat) : List StoreRec :=
  let gone (e wn : Nat) : Bool := e == d || homeOf wn == d
  let ofCores := s.cores.flatMap (fun (k : Nat × Core) => (k.2.owing.filter (fun (w : Nat × List StoreRec) =>
    gone (dieOf k.1) w.1 && (s.l1Word k.1 w.1).any (fun (x : CacheWord) => x.mask != 0))).flatMap (fun w => w.2))
  let ofDies := s.dies.flatMap (fun (e : Nat × Die) => (e.2.owing.filter (fun (w : Nat × List StoreRec) =>
    gone e.1 w.1 && (s.l2Word e.1 w.1).any (fun (x : L2Word) => x.st == .M || x.st == .O))).flatMap (fun w => w.2))
  (ofCores ++ ofDies).eraseDups

/-- A lane store is lost: it counts in its fibre, or in the grid of one that has ended or ends with its die. -/
def State.loseStore (s : State) (d : Nat) (r : StoreRec) : State :=
  let away : Bool := match r.who with
    | .fibre c _ => dieOf c != d
    | _ => true
  if r.live && away then s.lose r.who s.accid
  else if isControl r.core then s
  else s.updGrid r.grid (fun x => { x with losts := x.losts + 1, lostId := some (min s.accid (x.lostId.getD s.accid)) })

/-- The lane stores that go with a die are counted, once each. -/
def State.countLost (s : State) (d : Nat) : State :=
  let s := (s.lostStores d).foldl (fun (s : State) r => s.loseStore d r) s
  let keep (e : Nat) (rs : AMap (List StoreRec)) : AMap (List StoreRec) := rs.filter (fun (w : Nat × List StoreRec) => !(e == d || homeOf w.1 == d))
  { s with
    cores := s.cores.map (fun (k : Nat × Core) => (k.1, { k.2 with owing := keep (dieOf k.1) k.2.owing })),
    dies := s.dies.map (fun (e : Nat × Die) => (e.1, { e.2 with owing := keep e.1 e.2.owing })) }

/-- A command that a die was carrying out ends lost: its fibre traps DATA_LOST at its next block boundary, and its loss count gains 1
(R82, R105). -/
def State.loseWork (s : State) (die c g : Nat) (x : Command) : State :=
  ((s.dropCommand c g x.id).blameFibre c g x.place { code := .dataLost, info0 := wd (Config.freeNat s.freeCtr 3), info1 := wd die }).lose
    (placeWaiter c g x.place) s.accid

/-- Commands of the groups of a core, with their groups' numbers, of those that a test takes. -/
def Core.commands (k : Core) (which : Nat → Command → Bool) : List (Nat × Command) :=
  k.groups.flatMap (fun (g : Nat × Group) => (g.2.queues.flatMap (fun q => q.filter (which g.1))).map (fun y => (g.1, y)))

/-- The groups of a core of a dead die end at once, and the end of a group unblocks every queue (R82, R164). Work that its copy engine
carried out for groups that are resident no longer ends lost. -/
def State.endCore (s : State) (c : Nat) : State :=
  let k := s.core c
  let s := k.fibres.foldl (fun (s : State) (f : Nat × Fibre) => s.passLosses c f.1) s
  let s := k.resident.foldl (fun (s : State) (g : Nat × Group) => s.updGrid g.2.grid (fun x => { x with dataLost := true })) s
  let s := (k.commands (fun g y => decide (256 ≤ g) && !y.done)).foldl (fun (s : State) x => s.loseWork (dieOf c) c x.1 x.2) s
  let s : State := if k.resident.isEmpty then s else { s with blocked := [] }
  s.setCore c { Core.reset with spad := k.spad, spadPend := k.spadPend, spadErr := k.spadErr }

/-- Nobody of a dead die waits for an answer any longer. -/
def State.dropAsks (s : State) (d : Nat) : State :=
  let gone (w : Waiter) : Bool := match w with
    | .fibre c _ | .stream c _ | .command c _ _ | .ended c _ _ => dieOf c == d && !isControl c
    | .admission _ | .trapPush _ | .peer _ | .saved _ _ _ => false
  { s with fabric := { s.fabric with
      send := s.fabric.send.map (fun (w : Nat × SendWindow) => (w.1, { w.2 with
        sent := w.2.sent.map (fun (r : SentRequest) => if gone r.waiter then { r with waiter := .admission d, value := false } else r) })),
      redo := s.fabric.redo.filter (fun x => !gone x.req.waiter) } }

/-- A control core of a dead die stops. -/
def State.stopControl (s : State) (c : Nat) : State :=
  s.updCore c (fun k => { k with
    ferries := [], fibres := k.fibres.map (fun (f : Nat × Fibre) => (f.1, { f.2 with life := .stopped, waitk := .none })) })

/-- Collective work of groups on other dies that a dead die carried out ends lost. Which die the package's collective engine carries a
command out on is not given: a free choice (log entry 7). -/
def State.loseCollectives (s : State) (d : Nat) : State :=
  let mine (c : Nat) (g : Nat) (y : Command) : Bool := match y.body with
    | .halo _ _ _ _ _ | .ared _ _ _ _ _ _ | .bcast _ _ _ => !y.done && s.coin (2 ^ 22 + 65536 * c + g) y.id
    | _ => false
  s.cores.foldl (fun (s : State) (k : Nat × Core) =>
    if dieOf k.1 = d then s else (k.2.commands (mine k.1)).foldl (fun (s : State) x => s.loseWork d k.1 x.1 x.2) s) s

/-- A radiance slot whose HOME dies publishes nothing more and takes no further step; a dead die switches no more (R82). -/
def Net.loseDie (x : Net) (d : Nat) : Net :=
  if fld (x.pend.getD x.reg) 12 2 = d then { x with incoming := [], run := none }
  else { x with incoming := x.incoming.filter (fun r => r.1 != d) }

/-- A fibre that a SAVE holds has a trap to take at its next block boundary. -/
def SavedCluster.raise (x : SavedCluster) (ctx : BitVec 12) (t : Trap) : SavedCluster :=
  if x.ctx = ctx then
    { x with fibres := x.fibres.map (fun (f : Nat × Fibre) => (f.1, if f.2.isLive then { f.2 with due := f.2.due ++ [(t, none)] } else f.2)) }
  else x

/-- DIE_DEATH. -/
def execDieDeath (die : Nat) (s : State) : Host.Outcome State Fault Refusal :=
  if 4 ≤ die ∨ (s.die die).dead then .next s
  else
    let inc := (s.die die).inc
    let lost := s.scrubbed die
    let snaps := (s.die die).snaps
    let words := lost.foldl (fun n (x : Nat × Nat × BitVec 12) => n + ((List.range 32).filter (fun i => x.2.1.testBit i)).length) 0
    let s := s.countLost die
    let s := (s.leaveDirs die).updDie die (fun x => { Die.reset with
      dead := true, inc := inc + 1, dir := x.dir, versions := x.versions, late := Config.freeNat s.freeCtr 4 % (words + 1) })
    let s := lost.foldl (fun (s : State) x => s.scrubLine x.1 x.2.1) s
    let s := { s with records2 := s.records2 ++ lost.map (fun x => s.lossRecord die inc x) }
    let s := s.biDone (fun x => homeOf (32 * x.1) == die)
    -- groups, control threads and the work that lived on the die
    let s := s.dropAsks die
    let s := (coresOf die).foldl (fun s c => if (AMap.find s.cores c).isSome then s.endCore c else s) s
    let s := (List.range 16).foldl (fun s i => if (AMap.find s.cores (640 + 16 * die + i)).isSome then s.stopControl (640 + 16 * die + i) else s) s
    let s := s.loseCollectives die
    let s := snaps.foldl (fun (s : State) x =>
      match s.commandOf x.issuer.1 x.issuer.2.1 x.issuer.2.2 with
      | some y => s.loseWork die x.issuer.1 x.issuer.2.1 y
      | none => s) s
    let s := (s.subs.map (fun x => (x.ctx, x.target)) ++ s.submitters.map (fun x => (x.1.1, x.1.2.1))).eraseDups.foldl (fun (s : State) x => s.abortFrame x.1 x.2) s
    let s := match s.batch with
      | some b => if b.die = die then
          { s.updGrid b.grid (fun g => { g with returned := g.returned ++ b.clusters }) with batch := none } else s
      | none => s
    let s := { s with plans := s.plans.map (fun (p : Nat × List ClusterPlan) => (p.1, p.2.filter (fun x => dieOf x.core != die))) }
    -- every context that a record names
    let ctxs := lost.foldl (fun (l : List (BitVec 12 × Nat)) x => if l.any (fun y => y.1 == x.2.2) then l else l ++ [(x.2.2, x.1)]) []
    let s := ctxs.foldl (fun (s : State) x =>
      let t : Trap := { code := .dataLost, info0 := wd (x.2 * 128), info1 := wd die }
      let s : State := { s with saved := s.saved.map (fun y => y.raise x.1 t) }
      s.cores.foldl (fun (s : State) (k : Nat × Core) => k.2.fibres.foldl (fun (s : State) (f : Nat × Fibre) =>
        if f.2.isLive && (s.group k.1 f.2.gslot).ctx == x.1 then s.raiseDue k.1 f.1 t none else s) s) s) s
    let s : State := { s with nets := s.nets.map (fun x => x.loseDie die) }
    .next (s.sendHost 4 [wd die])

end Sys2Proof.Machine
end

