-- ==== Sys2Proof/Machine/Residency.lean ====
section
/-! DEFINITION. Residency handles, moves between the tiers, and L2 pins (R48 to R54, R328, R329). -/

namespace Sys2Proof.Machine

/-! ## Handles -/

/-- A context's handle. -/
def State.handle (s : State) (ctx : BitVec 12) (num : Nat) : Option Handle := s.handles.find? (fun h => h.ctx == ctx && h.num == num)

/-- A handle changed. -/
def State.updHandle (s : State) (seq : Nat) (f : Handle → Handle) : State :=
  { s with handles := s.handles.map (fun h => if h.seq = seq then f h else h) }

/-- The valid 64 KiB leaf of a page: its two words and the address of its entry. -/
def State.smallLeaf (s : State) (ctx : BitVec 12) (page : Nat) : Option (Word × Word × Nat) :=
  match s.leafAt (page * 65536) (s.rootOf ctx) 3 with
  | some (0, ea) =>
    let p := (s.devWord ea).2
    let c := (s.devWord (ea + 8)).2
    if flag p 0 && flag p 1 && s.leafOk 0 p c && (fld c 30 2 == 0 || fld c 30 2 == 2) then some (p, c, ea) else none
  | _ => none

/-- The pages of a handle. -/
def Handle.pageList (h : Handle) : List Nat := (List.range h.pages).map (fun i => h.base.toNat / 65536 + i)

/-- Some page has PIN = 1 (R52). -/
def State.pinned (s : State) (h : Handle) : Bool :=
  h.pageList.any (fun p => match s.smallLeaf h.ctx p with
    | some (w, _, _) => flag w 6
    | none => false)

/-! ## Pins (R54) -/

/-- The first ceil(e × L / 8) lines of a tensor. -/
def pinLines (e pages : Nat) : Nat := (e * (pages * 512) + 7) / 8

/-- How many of the first `n` lines are homed on a die: each page gives 128 consecutive lines to each. -/
def linesOn (d n : Nat) : Nat := n / 512 * 128 + min 128 (n % 512 - 128 * d)

/-- The largest number of eighths up to `e` that fits the limit of 256 MiB on every die. -/
def State.grantPin (s : State) (h : Handle) : Nat → Nat
  | 0 => 0
  | e + 1 =>
    let others (d : Nat) : Nat := ((s.handles.filter (fun x => x.seq != h.seq)).map (fun x => linesOn d (pinLines x.pinGot x.pages))).foldl (· + ·) 0
    if (List.range 4).all (fun d => decide (others d + linesOn d (pinLines (e + 1) h.pages) ≤ 2 ^ 21)) then e + 1
    else State.grantPin s h e

/-- The lines that a handle pins, by first line and number for each page: those of its pages' frames that are in use. -/
def State.pinRanges (s : State) (h : Handle) : List (Nat × Nat) :=
  let n := pinLines h.pinGot h.pages
  (List.range ((n + 511) / 512)).filterMap (fun i => (s.smallLeaf h.ctx (h.base.toNat / 65536 + i)).map (fun x =>
    (fld x.1 12 40 * 32, min (frameSize x.2.1 / 128) (n - 512 * i))))

/-- A handle's pin is as its PINGOT and its pages' frames have it. -/
def State.markPins (s : State) (seq : Nat) : State :=
  (s.updHandle seq (fun h => { h with pinned := s.pinRanges h })).repin

/-! ## RESID (R328, R329) -/

/-- The result word. -/
def residWord (status : Nat) (h : Option Handle) : Word :=
  match h with
  | some h =>
    let st := match h.st with
      | .idle => 0
      | .moving => 1
      | .noframes => 2
    wd (h.prio * 2 ^ 27 + (if h.second then 2 ^ 26 else 0) + st * 2 ^ 24 + h.pinGot * 2 ^ 20 + h.pinReq * 2 ^ 16 + h.num * 2 ^ 8 + status)
  | none => wd status

/-- The lowest free handle number of a context. -/
def State.freeHandle (s : State) (ctx : BitVec 12) : Option Nat :=
  if 1024 ≤ s.handles.length then none else (List.range 64).find? (fun i => (s.handle ctx i).isNone)

/-- CREATE. A tensor whose pages lie in both tiers has no tier that is stated: a free value. DESIGN CHOICE, log entry 86: one whose pages
lie in host memory, in neither tier, is accepted, and TIER says HBM. -/
def State.residCreate (s : State) (ctx : BitVec 12) (base arg : Word) : State × Word :=
  let pages := fld arg 0 25
  let pin := fld arg 36 4
  let range := (List.range pages).map (fun i => base.toNat / 65536 + i)
  let clash := s.handles.any (fun h => h.ctx == ctx && decide (h.base.toNat / 65536 < base.toNat / 65536 + pages)
    && decide (base.toNat / 65536 < h.base.toNat / 65536 + h.pages))
  let ok := decide (pin ≤ 8) && decide (1 ≤ pages) && decide (pages ≤ 2 ^ 24) && base.toNat % 65536 == 0
    && decide (base.toNat + pages * 65536 ≤ 2 ^ 57) && !clash && range.all (fun p => (s.smallLeaf ctx p).isSome)
  match ok, s.freeHandle ctx with
  | true, some n =>
    let tiers := range.map (fun p => match s.smallLeaf ctx p with
      | some (w, _, _) => inSecond (fld w 12 40 * 4096)
      | none => false)
    let second := if tiers.all id then true else if tiers.all (!·) then false else s.coin 0 3
    let h : Handle := { ctx := ctx, num := n, base := base, pages := pages, prio := fld arg 32 3, second := second, pinReq := pin,
                        pinGot := 0, st := .idle, seq := s.nextSeq, pinned := [] }
    let s := { s with handles := s.handles ++ [h], nextSeq := (s.nextSeq + 1) % 2 ^ 32 }
    let h := { h with pinGot := s.grantPin h pin }
    ((s.updHandle h.seq (fun _ => h)).markPins h.seq, residWord 0 (some h))
  | _, _ => (s, residWord 1 none)

/-- An operation on a handle that exists: none where it must wait. -/
def State.residOn (s : State) (h : Handle) (op : Nat) (arg : Word) : Option (State × Word) :=
  let done (s : State) : Option (State × Word) := some (s, residWord 0 (s.handle h.ctx h.num))
  match op with
  | 1 =>
    -- DESTROY waits for the handle's move
    if h.st == .moving then none
    else some (({ s with handles := s.handles.filter (fun x => x.seq != h.seq) }).repin, residWord 0 (some { h with pinGot := 0 }))
  | 2 => done (s.updHandle h.seq (fun x => { x with prio := fld arg 0 3 }))
  | 3 =>
    let p := fld arg 0 4
    if 8 < p then some (s, residWord 1 none)
    else done ((s.updHandle h.seq (fun x => { x with pinReq := p, pinGot := s.grantPin x p })).markPins h.seq)
  | 4 =>
    if !h.second && h.st != .moving then done s
    else done ({ s.updHandle h.seq (fun x => { x with st := .moving }) with moves := s.moves ++ [(h.seq, false)] })
  | 5 =>
    if s.pinned h then some (s, residWord 1 none)
    else if h.second && h.st != .moving then done s
    else done ({ s.updHandle h.seq (fun x => { x with st := .moving }) with moves := s.moves ++ [(h.seq, true)] })
  | _ => done s

/-- RESID in a lane: a helper issues none (R143). DESIGN CHOICE, log entry 87: its w[D] is left unchanged. -/
def residBody (o : OwnOp) (op : Nat) (l : Lane) (s : State) : LaneEnd :=
  let ctx := l.ctx s
  if l.helper s then .go s
  else if op = 0 then
    let r := s.residCreate ctx (l.reg s o.a) (l.reg s o.b)
    .go (l.put r.1 o.ctl.t o.d r.2)
  else
    match s.handle ctx (fld (l.reg s o.a) 0 6) with
    | none =>
      let s := l.put s o.ctl.t o.d (residWord 2 none)
      .go (if op = 6 then l.putN (l.putN s (o.d.toNat + 1) 0) (o.d.toNat + 2) 0 else s)
    | some h =>
      match s.residOn h op (l.reg s o.b) with
      | none => .stall
      | some (s, w) =>
        let s := l.put s o.ctl.t o.d w
        .go (if op = 6 then l.putN (l.putN s (o.d.toNat + 1) h.base) (o.d.toNat + 2) (wd (h.pages + h.seq * 2 ^ 32)) else s)

/-- Checks of RESID: READ names a block of three registers. -/
def residChecks (i : Instr) (o : OwnOp) (op : Nat) : Checks :=
  checksOf i o.ctl (if op = 6 then [o.d.toNat, o.d.toNat + 1, o.d.toNat + 2, o.a.toNat, o.b.toNat] else regsDAB o.d o.a o.b)

def execResidCreate (o : OwnOp) (s : State) : Host.Outcome State Fault Refusal :=
  issue (residChecks (.residCreate o) o 0) (residBody o 0) s
def execResidDestroy (o : OwnOp) (s : State) : Host.Outcome State Fault Refusal :=
  issue (residChecks (.residDestroy o) o 1) (residBody o 1) s
def execResidSetprio (o : OwnOp) (s : State) : Host.Outcome State Fault Refusal :=
  issue (residChecks (.residSetprio o) o 2) (residBody o 2) s
def execResidSetpin (o : OwnOp) (s : State) : Host.Outcome State Fault Refusal :=
  issue (residChecks (.residSetpin o) o 3) (residBody o 3) s
def execResidPromote (o : OwnOp) (s : State) : Host.Outcome State Fault Refusal :=
  issue (residChecks (.residPromote o) o 4) (residBody o 4) s
def execResidDemote (o : OwnOp) (s : State) : Host.Outcome State Fault Refusal :=
  issue (residChecks (.residDemote o) o 5) (residBody o 5) s
def execResidRead (o : OwnOp) (s : State) : Host.Outcome State Fault Refusal :=
  issue (residChecks (.residRead o) o 6) (residBody o 6) s

/-! ## Moves (R50, R53) -/

/-- A ring of the residency manager (R49): 0 HBM supply, 1 HBM release, 2 second-tier supply, 3 second-tier release. -/
def State.rmRing (s : State) (k : Nat) : Nat := fld s.plat.rmring 6 46 * 64 + 32 * k

/-- A frame of the destination tier. -/
def State.tierOk (s : State) (second : Bool) (f : Nat) : Bool := if second then inSecond f else s.inHbm f

/-- PAGES good frames from a supply ring; refused ones go to the release ring. None where the release ring has no room;
otherwise the frames taken, too few if the supply ran out. DESIGN CHOICE, log entry 86: no rule gives a fate to an entry with a non-zero bit in
[63:52]; it is refused as a misaligned frame is. -/
def State.takeFrames (s : State) (second : Bool) (have_ : List Nat) (need : Nat) : Nat → Option (State × List Nat)
  | 0 => some (s, have_)
  | n + 1 =>
    if need ≤ have_.length then some (s, have_)
    else
      match s.ringTake (s.rmRing (if second then 2 else 0)) with
      | (s, none) => some (s, have_)
      | (s, some w) =>
        if zeroBits w 0 16 && zeroBits w 52 12 && s.tierOk second (frameOf w) then State.takeFrames s second (have_ ++ [frameOf w]) need n
        else
          match s.ringPut (s.rmRing (if second then 3 else 1)) [wd (frameOf w + 1)] with
          | (s, true) => State.takeFrames s second have_ need n
          | (_, false) => none

/-- A move that cannot start or go on. A handle with another move accepted reads MOVING until that one ends (R328). -/
def State.noFrames (s : State) (h : Handle) : State :=
  let rest := s.moves.drop 1
  { s.updHandle h.seq (fun x => { x with st := if rest.any (fun m => m.1 == h.seq) then .moving else .noframes }) with moves := rest }

/-- A promotion has started or has ended. -/
def State.forgetTried (s : State) (h : Handle) : State := { s with autoTried := s.autoTried.filter (fun t => t.1 != h.seq) }

/-- The handle that an automatic demotion takes next for a promotion (R53), of those not tried for it yet. -/
def State.candidate (s : State) (h : Handle) : Option Handle :=
  let cs := s.handles.filter (fun x => !x.second && x.seq != h.seq && x.pinGot == 0 && decide (x.prio < h.prio) && !s.pinned x
    && decide ((h.seq, x.seq) ∉ s.autoTried))
  cs.foldl (fun (b : Option Handle) x => match b with
    | some y => if x.prio < y.prio ∨ (x.prio = y.prio ∧ x.seq < y.seq) then some x else b
    | none => some x) none

/-- A promotion lacks HBM supply: it waits for the driver to return what demotions have freed, or the next candidate is demoted,
or it ends NOFRAMES. DESIGN CHOICE, log entry 72: how long it waits is a free choice at every step. -/
def State.lackHbm (s : State) (h : Handle) : State :=
  if s.autoTried.any (fun t => t.1 == h.seq) && s.coin 0 4 then s
  else match s.candidate h with
    | some x => { s.updHandle x.seq (fun y => { y with st := .moving }) with
        moves := (x.seq, true) :: s.moves, autoTried := (h.seq, x.seq) :: s.autoTried }
    | none => (s.noFrames h).forgetTried h

/-- A move of a handle starts, ends NOFRAMES, or waits for the driver. A demotion first sets PINGOT to 0 (R54). DESIGN CHOICE, log entry 86:
R50 states a pause for its step 6 only; where the release ring has no room for refused frames, or for the frames of a move that ends NOFRAMES,
nothing is taken yet and the move waits. -/
def State.beginMove (s : State) (h : Handle) (second : Bool) : State :=
  let s := if second && h.pinGot != 0 then (s.updHandle h.seq (fun x => { x with pinGot := 0 })).markPins h.seq else s
  let r := s.ring (s.rmRing (if second then 2 else 0))
  if !r.2.on || decide (r.2.held < h.pages) then
    if second then r.1.noFrames h else r.1.lackHbm h
  else
    match r.1.takeFrames second [] h.pages 65537 with
    | none => s
    | some (t, fs) =>
      if fs.length < h.pages then
        let u := fs.foldl (fun (q : State × Bool) f =>
          let x := q.1.ringPut (q.1.rmRing (if second then 3 else 1)) [wd f]
          (x.1, q.2 && x.2)) (t, true)
        if u.2 then (u.1.noFrames h).forgetTried h else s
      else { (t.forgetTried h).updHandle h.seq (fun x => { x with st := .moving }) with
             moves := t.moves.drop 1, move := some { seq := h.seq, toSecond := second, frames := fs, done := 0, held := none, old := none } }

/-- MOVE_START: the next queued move. -/
def execMoveStart (s : State) : Host.Outcome State Fault Refusal :=
  match s.move, s.moves with
  | none, (seq, second) :: rest =>
    match s.handles.find? (fun h => h.seq == seq) with
    | none => .next { s with moves := rest }
    | some h =>
      if h.second = second then
        .next { s.updHandle seq (fun x => { x with st := if rest.any (fun m => m.1 == seq) then .moving else .idle }) with moves := rest }
      else .next (s.beginMove h second)
  | _, _ => .next s

/-- Every dirty word of the `n` bytes of a page's frame goes to its home from every L1 and L2, the L2s drop the lines, and remote
copies of a POD page go: the latest completion time. -/
def State.flushFrame (s : State) (pa n : Nat) : State × Word :=
  let mine (l : Nat) : Bool := decide (pa / 128 ≤ l) && decide (l < pa / 128 + n / 128)
  let r := s.cores.foldl (fun (r : State × Word) (k : Nat × Core) =>
    (k.2.l1.filter (fun (l : Nat × L1Line) => mine l.1)).foldl (fun (r : State × Word) l =>
      let x := r.1.pushWords k.1 (l.2.dirty l.1)
      (x.1, later r.2 x.2)) r) (s, s.gtb)
  let r := (List.range 4).foldl (fun (r : State × Word) d =>
    ((r.1.die d).l2.filter (fun (l : Nat × L2Line) => mine l.1)).foldl (fun (r : State × Word) l =>
      (r.1, l.2.words.foldl (fun (t : Word) (w : Nat × L2Word) => later t (later (r.1.tcOf d (32 * l.1 + w.1)) (r.1.tcOf (homeOf (32 * l.1)) (32 * l.1 + w.1))))
        (later r.2 (r.1.leaseTc d l.1 none)))) r) r
  ((List.range (n / 128)).foldl (fun (s : State) i => s.backInvalidate (pa / 128 + i)) (r.1.dropLinesOf mine), r.2)

/-- A page of the move: its translations are held and its dirty words written back. -/
def State.holdPage (s : State) (m : Move) (h : Handle) : State :=
  let p := h.base.toNat / 65536 + m.done
  match s.smallLeaf h.ctx p with
  | some (w, comp, _) =>
    let r := (s.discardPage h.ctx p).flushFrame (fld w 12 40 * 4096) (frameSize comp)
    { r.1 with move := some { m with held := some (p, r.2) } }
  | none => { s with move := some { m with held := some (p, s.gtb) } }

/-- The held page is copied, its leaf changed, and what waited for it goes on. A leaf that the driver has made invalid
still gets the manager's ADDR (R52). -/
def State.shiftPage (s : State) (m : Move) (h : Handle) (p : Nat) : State :=
  let new := m.frames.getD m.done 0
  let s := match s.leafAt (p * 65536) (s.rootOf h.ctx) 3 with
    | some (0, ea) =>
      let w := (s.devWord ea).2
      let c := (s.devWord (ea + 8)).2
      let old := fld w 12 40 * 4096
      let s := (s.copyWords .host old new (frameSize c / 4)).1
      let s := s.devWrite ea 8 (setFld w 12 40 (new / 4096)).toNat
      { s with move := some { m with held := none, done := m.done + 1, old := some old } }
    | _ => { s with move := some { m with held := none, done := m.done + 1, old := some new } }
  let s := if h.pinGot = 0 then s else s.markPins h.seq
  (List.range 4).foldl (fun s d =>
    ((s.die d).wait.filter (fun (e : Nat × WaitEntry) => e.2.kind == .move && e.2.ctx == h.ctx && e.2.key == wd (p * 65536))).foldl
      (fun (s : State) (e : Nat × WaitEntry) => s.wakeEntry d e.1 e.2) s) s

/-- The last page is done: TIER changes. A handle whose context has been torn down meanwhile ends (R48). -/
def State.endMove (s : State) (m : Move) (h : Handle) : State :=
  let t := { s.updHandle h.seq (fun x => { x with
    second := m.toSecond, st := if s.moves.any (fun y => y.1 == h.seq) then .moving else .idle }) with move := none }
  if (AMap.find s.records h.ctx.toNat).any (fun ws => !flag (ws.getD 0 0) 0) then t.endHandles h.ctx else t

/-- MOVE_PAGE: the old frame of the page before goes to the release ring; or the next page is held; or the held page is
moved once its write-backs have settled; or the move ends. -/
def execMovePage (s : State) : Host.Outcome State Fault Refusal :=
  match s.move with
  | none => .next s
  | some m =>
    match s.handles.find? (fun h => h.seq == m.seq) with
    | none => .next { s with move := none }
    | some h =>
      match m.old with
      | some f =>
        match s.ringPut (s.rmRing (if m.toSecond then 1 else 3)) [wd (f / 65536 * 65536)] with
        | (s, true) => .next { s with move := some { m with old := none } }
        | (s, false) => .next s
      | none =>
        match m.held with
        | some (p, tc) =>
          if tc.toNat < s.gtb.toNat ∧ s.fabric.biPending.isEmpty then .next (s.shiftPage m h p) else .next s
        | none =>
          if h.pages ≤ m.done then
            .next (s.endMove m h)
          else .next (s.holdPage m h)

end Sys2Proof.Machine
end

