-- ==== Sys2Proof/Machine/CacheSteps.lean ====
section
/-! DEFINITION. The steps that the memory hierarchy takes of its own accord: retention sleep, lease sweeps, bounce decay,
fills, write-backs, evictions, directory requests and failing expanders (R42, R44, R47, R60, R63, R64, R67, R70). -/

namespace Sys2Proof.Machine

/-! ## Retention sleep (R60) -/

/-- Nothing of a core is active: no ready fibre, no ferry, no stream that runs, no copy command. -/
def State.coreIdle (s : State) (c : Nat) : Bool :=
  (s.core c).ferries.isEmpty && (s.eligible c).isEmpty && !(s.core c).holding.any (fun h => s.isReady c h.place)
    && (s.core c).groups.all (fun (g : Nat × Group) =>
      g.2.stream.all (fun x => x.st != .running && x.st != .waitClaim) && (g.2.queues.take 4).all (fun q => q.isEmpty))

/-- RETENTION_ENTRY: a core idle for 2,048 ticks writes its L1 back and sleeps. -/
def execRetentionEntry (core : Nat) (s : State) : Host.Outcome State Fault Refusal :=
  if !(s.core core).asleep && s.coreIdle core && decide ((s.core core).idleSince.toNat + 2048 ≤ s.gtb.toNat) && decide (core < Config.allCores) then
    let r := s.l1WriteBack core
    .next (r.1.updCore core (fun k => { k with asleep := true, wakeAt := none, pushTc := later k.pushTc r.2 }))
  else .next s

/-- A sleeping core wakes for a ready fibre, for a stream or a copy command, for a group admitted or restored, or when a
pre-emption names it. -/
def State.mustWake (s : State) (c : Nat) : Bool :=
  (s.core c).wakeAt.isSome || !s.coreIdle c || (match s.preOp with
    | some o => o.covers c
    | none => false)

/-- Every L1 line, both TLBs and the instruction cache of a core go, and it is awake. -/
def State.awaken (s : State) (c : Nat) : State :=
  s.updCore c (fun k => { k with asleep := false, wakeAt := none, l1 := [], dtlb := [], itlb := [], icache := [], idleSince := s.gtb })

/-- RETENTION_EXIT, before any fibre issues. -/
def execRetentionExit (core : Nat) (s : State) : Host.Outcome State Fault Refusal :=
  if (s.core core).asleep && s.mustWake core then .next (s.awaken core) else .next s

/-- As a tick passes: the time of a waking event is noted, and an exit that has had its 200 ticks is over. -/
def State.wakeDue (s : State) : State :=
  s.cores.foldl (fun (s : State) (k : Nat × Core) =>
    if k.2.asleep && s.mustWake k.1 then
      match k.2.wakeAt with
      | some t => if t.toNat + 200 ≤ s.gtb.toNat then s.awaken k.1 else s
      | none => s.wakeCore k.1
    else s) s

/-! ## Periodic work -/

/-- A line without its clean words. -/
def L1Line.onlyDirty (l : L1Line) : L1Line := { l with words := l.words.filter (fun (w : Nat × CacheWord) => w.2.mask != 0) }

/-- A sweep of one L1: clean words of expired lines go (R63). -/
def State.sweepL1 (s : State) (c : Nat) : State :=
  s.updCore c (fun k => { k with
    l1 := (k.l1.map (fun (l : Nat × L1Line) => if leaseOk l.2.lease s.gtb then l else (l.1, l.2.onlyDirty))).filter
      (fun (l : Nat × L1Line) => !l.2.words.isEmpty) })

/-- LEASE_SWEEP: every 2^22 ticks. -/
def execLeaseSweep (core : Nat) (s : State) : Host.Outcome State Fault Refusal :=
  if s.gtb.toNat % 2 ^ 22 = 0 ∧ (AMap.find s.cores core).isSome then .next (s.sweepL1 core) else .next s

/-- The bounce counters of a die's lines and of its directory fall by 1. -/
def Die.decay (d : Die) : Die :=
  { d with
    l2 := d.l2.map (fun (l : Nat × L2Line) => (l.1, { l.2 with bounce := l.2.bounce - 1 })),
    dir := d.dir.map (fun (l : Nat × DirLine) => (l.1, { l.2 with bounce := l.2.bounce - 1 })) }

/-- Every non-zero bounce counter falls by 1 (R70). -/
def State.decayBounces (s : State) : State :=
  { s with decayed := s.gtb, dies := s.dies.map (fun (d : Nat × Die) => (d.1, d.2.decay)) }

/-- BOUNCE_DECAY: every 65,536 ticks, once. -/
def execBounceDecay (s : State) : Host.Outcome State Fault Refusal :=
  if s.gtb.toNat % 65536 = 0 ∧ s.decayed ≠ s.gtb then .next s.decayBounces else .next s

/-- What is due before the next tick. -/
def State.periodic (s : State) : State :=
  let s := if s.gtb.toNat % 65536 = 0 ∧ s.decayed ≠ s.gtb then s.decayBounces else s
  if s.gtb.toNat % 2 ^ 22 = 0 then s.cores.foldl (fun (s : State) (k : Nat × Core) => s.sweepL1 k.1) s else s

/-! ## Fills, write-backs and evictions -/

/-- A translation that holds a line under a domain. -/
def lineEntry (es : List TlbEntry) (line : Nat) (dom : Domain) : Option TlbEntry :=
  es.find? (fun e => e.dom == dom && e.kind != 1 && !e.uncached && decide (e.addr / 128 ≤ line)
    && decide (line < e.addr / 128 + (if e.big then 16384 else frameSize e.comp / 128)))

/-- A fibre of a core has still to perform a load or an atomic in a line. -/
def State.lineWanted (s : State) (c line : Nat) : Bool :=
  (s.core c).fibres.any (fun (f : Nat × Fibre) => f.2.lates.any (fun a => !a.isStore && a.words.any (fun w => w / 32 == line)))

/-- L1_FILL: the L1 of a core that is awake fills a line that an access of the core still to be performed needs, of a page that the core
has translated, where the die L2 has room. -/
def execL1Fill (core line : Nat) (dom : Domain) (s : State) : Host.Outcome State Fault Refusal :=
  match lineEntry (s.core core).dtlb line dom with
  | some e =>
    if (s.core core).asleep || !s.lineWanted core line || s.l2Full (dieOf core) line then .next s else .next (s.l1Fill core e.ctx dom line)
  | none => .next s

/-- WRITEBACK_ARRIVAL: the line used longest ago leaves a full set of an L1 (R41), and its dirty words arrive at the die L2. -/
def execWritebackArrival (core line : Nat) (s : State) : Host.Outcome State Fault Refusal :=
  if s.l1Victim core line = some line then .next (s.l1Evict core line) else .next s

/-- L2_EVICTION: a line that no pin and no lease keeps leaves a full set of a die L2 (R44). -/
def execL2Eviction (die line : Nat) (s : State) : Host.Outcome State Fault Refusal :=
  if s.linePinned die line || s.lineLent die line || decide ((s.l2SetOf die line).length < 16) then .next s else .next (s.l2Evict die line)

/-- DIRECTORY_REQUEST: a die that holds a line of a wide domain asks the home for one of its words, under a translation that it
holds, gives it up, or is asked to forward it. -/
def execDirectoryRequest (die word : Nat) (req : DirReq) (s : State) : Host.Outcome State Fault Refusal :=
  match AMap.find (s.die die).l2 (word / 32) with
  | none => .next s
  | some l =>
    if !l.dom.wide || homeOf word == die || (s.die die).dead then .next s
    else match req, lineEntry (s.die die).tlb (word / 32) l.dom with
      | .read, some e => .next (s.l2Read die e.ctx l.dom word).1
      | .own, some e => if s.poisonWord die word then .next s else .next (s.obtainM die l.dom e.ctx word).1
      | .read, none | .own, none => .next s
      | .invalidate, _ => .next (s.homeInvalidate none word).1
      | .forward, _ => .next (s.homeRead none word).1

/-- POISONED_READ: an expander begins to answer a line with poison, or a port is declared failed. -/
def execPoisonedRead (line : Nat) (port : Bool) (s : State) : Host.Outcome State Fault Refusal :=
  if !inSecond (line * 128) then .next s
  else if port then
    let p := (line * 128 - 0x010000000000) / 4096 % 16
    .next { s with plat := { s.plat with failedPorts := insertPlace s.plat.failedPorts p } }
  else .next { s with plat := { s.plat with poisoned := insertPlace s.plat.poisoned line } }

end Sys2Proof.Machine
end

