-- ==== Sys2Proof/Machine/Platform.lean ====
section
/-! DEFINITION. Host attachment, power, boot and attestation (R38, R39, R61, R336, R386 to R397). -/

namespace Sys2Proof.Machine

/-! ## Words and bytes of the package's own accesses -/

/-- `n` bytes copied, eight at a time, between two places that need no translation: at their homes. -/
def State.devCopy (s : State) (src dst n : Nat) : State :=
  (List.range (n / 8)).foldl (fun (s : State) i =>
    let r := s.devWord (src + 8 * i)
    r.1.devWrite (dst + 8 * i) 8 r.2.toNat) s

/-- `n` bytes read at their homes. -/
def State.devBytes (s : State) (pa n : Nat) : List Byte :=
  (List.range n).map (fun i => BitVec.ofNat 8 (s.devRead (pa + i) 1).2)

/-- Bytes written at their homes. -/
def State.devPutBytes (s : State) (pa : Nat) (bs : List Byte) : State :=
  (bs.foldl (fun (r : State × Nat) b => (r.1.devWrite r.2 1 b.toNat, r.2 + 1)) (s, pa)).1

/-! ## BSPART (R38, R39) -/

/-- What BSPART reads. -/
def Core.bspart (k : Core) : Word :=
  wd (k.spad + (if k.spadPend.isSome then 64 else 0) + (if k.spadErr then 128 else 0))

/-- A write of BSPART. -/
def State.writeBspart (s : State) (c : Nat) (v : Word) : State :=
  let n := fld v 0 6
  let s := if flag v 7 then s.updCore c (fun k => { k with spadErr := false }) else s
  if 31 < n then s.updCore c (fun k => { k with spadErr := true })
  else if (s.core c).resident.isEmpty then s.takeSpad c n
  else s.updCore c (fun k => { k with spadPend := some n })

def execBspartWrite (core : Nat) (value : Word) (s : State) : Host.Outcome State Fault Refusal :=
  if core < Config.mainCores then .next (s.writeBspart core value) else .next s

/-! ## PKG_CFG (R386, R387) -/

/-- The bits of PKG_CFG that can be written. -/
def pkgMask : Word := 0x8000_FFFF_0003_03FF

/-- A write of PKG_CFG. A SPARE of 11 is ignored. -/
def State.writePkg (s : State) (v : Word) : State :=
  let old := s.plat.pkgCfg
  if flag old 63 then s
  else
    let w := v &&& pkgMask
    let w := if fld v 16 2 = 3 then setFld w 16 2 (fld old 16 2) else w
    { s with plat := { s.plat with pkgCfg := w } }


/-! ## Power islands (R392, R393) -/

/-- What ISLAND_CTL of an island reads: on, and to stay so, after reset. -/
def State.island (s : State) (i : Nat) : Word := AMap.getD s.plat.islands i 0x101

def State.setIsland (s : State) (i : Nat) (v : Word) : State := { s with plat := { s.plat with islands := AMap.put s.plat.islands i v } }

/-- The cores of a core island. -/
def islandCores (i : Nat) : List Nat := (List.range 4).map (fun j => i / 40 * 160 + i % 40 * 4 + j)

/-- A request for admission enters the queue: the requests of one tick in ascending island number. -/
def enqueueIsland (q : List (Nat × Word)) (i : Nat) (now : Word) : List (Nat × Word) :=
  q.takeWhile (fun x => x.2 != now || decide (x.1 < i)) ++ (i, now) :: q.dropWhile (fun x => x.2 != now || decide (x.1 < i))

/-- A draining island whose cores hold no group powers off: its L1s are written back first, and what the cores held
besides their BSPART is gone. -/
def State.powerOff (s : State) (i : Nat) : State :=
  if fld (s.island i) 8 2 == 3 && (islandCores i).all (fun c => (s.core c).resident.isEmpty) then
    (islandCores i).foldl (fun (s : State) c =>
      let r := (s.l1WriteBack c).1
      if (AMap.find r.cores c).isSome then
        r.updCore c (fun k => { Core.reset with
        spad := k.spad, spadPend := k.spadPend, spadErr := k.spadErr, counters := k.counters,
        groups := k.groups.filter (fun (g : Nat × Group) => decide (256 ≤ g.1)) })
      else r) { s.setIsland i 0 with plat := { (s.setIsland i 0).plat with admitted := AMap.drop s.plat.admitted i } }
  else s

/-- A write of ISLAND_CTL. Only core islands take ON; any other island sets ERR, which a write of 1 to it clears. -/
def State.writeIsland (s : State) (i : Nat) (v : Word) : State :=
  let w := s.island i
  let queued : State :=
    { s.setIsland i 0x201 with plat := { (s.setIsland i 0x201).plat with wakeQueue := enqueueIsland s.plat.wakeQueue i s.gtb } }
  if 160 ≤ i then s.setIsland i (setFld w 1 1 (if flag v 1 then 0 else 1))
  else if flag v 0 then
    match fld w 8 2 with
    | 0 => queued
    | 3 => if (AMap.find s.plat.admitted i).isSome then s.setIsland i 0x101 else queued
    | _ => s
  else
    match fld w 8 2 with
    | 0 => s
    | _ => let t := s.setIsland i 0x300
           { t with plat := { t.plat with wakeQueue := t.plat.wakeQueue.filter (fun x => x.1 != i) } }

/-- ISLAND_OFF: a write of ON = 0, or the power-off that follows it. -/
def execIslandOff (island : Nat) (s : State) : Host.Outcome State Fault Refusal :=
  if 256 ≤ island then .next s
  else if fld (s.island island) 8 2 == 3 then .next (s.powerOff island)
  else .next (s.writeIsland island 0)

/-- ISLAND_ON: a write of ON = 1. -/
def execIslandOn (island : Nat) (s : State) : Host.Outcome State Fault Refusal :=
  if 256 ≤ island then .next s else .next (s.writeIsland island 1)

/-- ISLAND_ADMISSION: the sequencer admits the island at its head, one per STAGGER_NS. -/
def execIslandAdmission (s : State) : Host.Outcome State Fault Refusal :=
  match s.plat.wakeQueue with
  | [] => .next s
  | (i, _) :: q =>
    if s.plat.lastAdmit.toNat + s.regs.stagger ≤ s.gtb.toNat then
      let t := s.setIsland i 0x101
      .next { t with
        plat := { t.plat with wakeQueue := q, lastAdmit := s.gtb, admitted := AMap.put t.plat.admitted i s.gtb } }
    else .next s

/-- The matrix array of a core is up: the fourth quarter of its ramp, 200 ns after its island's admission. -/
def State.arrayUp (s : State) (c : Nat) : Bool :=
  match AMap.find s.plat.admitted (dieOf c * 40 + c % 160 / 4) with
  | some t => decide (t.toNat + 200 ≤ s.gtb.toNat)
  | none => false

/-! ## The host port (R388) -/

/-- UCIE_LINK_TRAINING: modules that are up; with two of them the link is up, and the islands being up after reset, STAGE
is 0x01. -/
def execUcieLinkTraining (up : BitVec 8) (s : State) : Host.Outcome State Fault Refusal :=
  if s.plat.trained then .next s
  else
    let n := ((List.range 8).filter (fun i => up.getLsbD i)).length
    .next { s with plat := { s.plat with linkUp := up, trained := true, stage := if s.plat.stage = 0 ∧ 2 ≤ n then 1 else s.plat.stage } }

/-- The link to the host is up. -/
def State.linkOk (s : State) : Bool := decide (2 ≤ ((List.range 8).filter (fun i => s.plat.linkUp.getLsbD i)).length)

/-- What the host does through BAR0, which the link carries (R388): nothing over a link that is down. -/
def throughLink (f : State → State) (s : State) : Host.Outcome State Fault Refusal := .next (if s.linkOk then f s else s)

/-- PKG_CFG_WRITE: the host's bring-up writes PKG_CFG through BAR0. -/
def execPkgCfgWrite (value : Word) (s : State) : Host.Outcome State Fault Refusal := throughLink (fun s => s.writePkg value) s

/-- The host writes the mask bits of its MSI-X table: a pending vector that is no longer masked sends its message (R388, R389). -/
def State.setMasks (s : State) (m : BitVec 8) : State :=
  let free := (List.range 8).filter (fun v => s.plat.msixPending.getLsbD v && !m.getLsbD v)
  { s with
    messages := s.messages ++ free.map (fun v => { vector := v, words := AMap.getD s.plat.msixHeld v [] }),
    plat := { s.plat with
      masked := m, msixPending := s.plat.msixPending &&& m,
      msixHeld := s.plat.msixHeld.filter (fun (x : Nat × List Word) => decide (x.1 ∉ free)) } }

/-- The host may write the table whenever the link is up: when, and what, is a free choice (log entry 85). -/
def State.hostMasks (s : State) : State :=
  if s.linkOk && s.coin 5 0 then s.setMasks (BitVec.ofNat 8 (Config.freeNat s.freeCtr (2 ^ 25))) else s

/-- A cache of the device holds the line of a word under the domain HOST. -/
def State.hostLine (s : State) (line : Nat) : Bool :=
  s.dies.any (fun (d : Nat × Die) => (AMap.find d.2.l2 line).any (fun (l : L2Line) => l.dom == .host))
    || s.cores.any (fun (k : Nat × Core) => (AMap.find k.2.l1 line).any (fun (l : L1Line) => l.dom == .host))

/-- One byte that the host writes: coherently in the HOST domain, else at the home alone, its die L2 or memory. -/
def State.hostPut (s : State) (pa : Nat) (b : Byte) : State :=
  if s.hostLine (pa / 128) then s.devWrite pa 1 b.toNat
  else
    let p := partOf pa 1 b.toNat (pa / 4)
    let s := s.setMemWord (pa / 4) (mergeWord p.2 (s.memWord (pa / 4)) p.1)
    let d := homeOf (pa / 4)
    match s.l2Word d (pa / 4) with
    | some x => if s.coin pa 0 then s.setL2Word d (pa / 4) (s.l2Line d (pa / 128) .die).dom { x with value := mergeWord p.2 x.value p.1 } else s
    | none => s

/-- What the host reaches: HBM through CXL.mem, while the link is up, and its own memory. -/
def State.hostReaches (s : State) (pa n : Nat) : Bool :=
  (s.linkOk && decide (pa + n ≤ 0x010000000000)) || (inHost pa && inHost (pa + n - 1))

/-- HOST_MEMORY_ACCESS: the host reads a 64-byte line, of which it may keep a copy, or writes bytes. -/
def execHostMemoryAccess (pa : Nat) (data : Option (List Byte)) (s : State) : Host.Outcome State Fault Refusal :=
  let n := match data with
    | some bs => bs.length
    | none => 64
  if !s.hostReaches pa n then .next s
  else match data with
    | some bs => .next (bs.foldl (fun (r : State × Nat) b => (r.1.hostPut r.2 b, r.2 + 1)) (s, pa)).1
    | none =>
      let t := if s.hostLine (pa / 128) then (s.devRead (pa / 64 * 64) 64).1 else s
      .next (if s.coin 4 0 then { t with plat := { t.plat with hostLines := insertPlace t.plat.hostLines (pa / 128) } } else t)

/-! ## Control threads (R214, R336) -/

/-- A control thread with its registers at zero: log entry 5. -/
def threadFibre (thread : Nat) : Fibre :=
  { Fibre.blank with window := List.replicate 256 0, gslot := thread, lane := thread, life := .stopped }

/-- A thread that does not run starts at a PC. Its start reads no translation record (R8, log entry 5). -/
def State.startThread (s : State) (c t : Nat) (pc : BitVec 48) : State :=
  let f := (AMap.find (s.core c).fibres t).getD (threadFibre t)
  if f.life = .stopped then
    let s := s.setFibre c t { f with life := .live, pc := pc, waitk := .none, due := [], after := none, resumed := false, view := [] }
    s.place c t
  else s

/-- CONTROL_THREAD_RESTART. -/
def execControlThreadRestart (core thread : Nat) (pc : BitVec 48) (s : State) : Host.Outcome State Fault Refusal :=
  if isControl core && decide (core < Config.allCores) && decide (thread < 8) && !(s.die (dieOf core)).dead then
    .next (s.startThread core thread pc)
  else .next s

/-! ## Boot images (R394, R396) -/

/-- Who writes a register: the host, a privileged fibre, or a privileged control-core thread. -/
inductive Writer where
  | host | fibre | thread
  deriving DecidableEq, Repr

/-- IMG_BASE and IMG_CTL take a write. -/
def State.imgOpen (s : State) (w : Writer) : Bool :=
  (w == .host && s.plat.stage == 1) || (w == .thread && s.plat.stage == 4)

def State.writeImgBase (s : State) (w : Writer) (v : Word) : State :=
  if s.imgOpen w then { s with plat := { s.plat with imgBase := v &&& 0x000F_FFFF_FFFF_F000 } } else s

/-- A write of IMG_CTL. A GO that finds BUSY is taken or not: a free choice. -/
def State.writeImgCtl (s : State) (w : Writer) (v : Word) : State :=
  if s.imgOpen w then
    let old := s.plat.imgCtl
    let err := if flag v 2 then 0 else fld old 2 1
    let busy := fld old 1 1
    if flag v 0 && (busy == 0 || s.coin 0 1) then
      { s with plat := { s.plat with
        imgCtl := wd (fld v 32 32 * 2 ^ 32 + err * 4 + 2), stage := if s.plat.stage = 1 then 2 else s.plat.stage } }
    else { s with plat := { s.plat with imgCtl := wd (fld v 32 32 * 2 ^ 32 + err * 4 + busy * 2) } }
  else s

/-- IMG_GO: the host writes IMG_CTL with GO. -/
def execImgGo (value : Word) (s : State) : Host.Outcome State Fault Refusal :=
  if flag value 0 then throughLink (fun s => s.writeImgCtl .host value) s else .next s

/-- A little-endian number in the header of the staged image. -/
def State.imgField (s : State) (off n : Nat) : Nat := numOf (s.devBytes (s.plat.imgBase.toNat + off) n)

/-- The staged image has the size that its header gives, at most 1 GiB. -/
def State.imgSizeOk (s : State) : Bool :=
  let size := fld s.plat.imgCtl 32 32
  size == 20480 + s.imgField 24 8 && decide (size ≤ 2 ^ 30)

/-- The header is one of R396. -/
def State.imgHeaderOk (s : State) : Bool :=
  let zero (off n : Nat) : Bool := (s.devBytes (s.plat.imgBase.toNat + off) n).all (· == 0)
  s.imgField 0 8 == 0x474945_4E4552494D && s.imgField 8 4 == 1 && decide (s.imgField 12 4 < 4) && zero 20 4
    && s.imgField 24 8 % 4096 == 0 && s.imgField 32 8 % 65536 == 0 && decide (s.imgField 32 8 < 0x008000000000)
    && s.imgField 40 8 % 8 == 0 && zero 864 3232 && zero 20320 160

/-- Both public keys that the staged image carries hash to the values of the slot that it names. -/
def State.imgKeysOk (s : State) : Bool :=
  let slot := s.imgField 12 4
  Config.sha384 (s.devBytes (s.plat.imgBase.toNat + 48) 384) == Config.keyHash slot 0
    && Config.sha384 (s.devBytes (s.plat.imgBase.toNat + 432) 48) == Config.keyHash slot 1

/-- What the checks of R394 find: the two signatures and the version as the OK bits, and whether the image is accepted. Both signatures
cover bytes 0 to 479 followed by the body (R396). -/
def State.imgChecks (s : State) : BitVec 3 × Bool :=
  let base := s.plat.imgBase.toNat
  let msg := s.devBytes base 480 ++ s.devBytes (base + 20480) (s.imgField 24 8)
  let svn := decide (s.plat.fusedSvn.toNat ≤ s.imgField 16 4)
  let pss := Config.rsaVerifies (s.devBytes (base + 48) 384) (s.devBytes (base + 480) 384) msg
  let slh := Config.slhVerifies (s.devBytes (base + 432) 48) (s.devBytes (base + 4096) 16224) msg
  let ok : BitVec 3 := (if pss then 1 else 0) ||| (if slh then 2 else 0) ||| (if svn then 4 else 0)
  (ok, pss && slh && svn && s.imgKeysOk && s.imgHeaderOk && !Config.keyRevoked.getD (s.imgField 12 4) true)

/-- An accepted image: its body is copied, its hash and version are kept, and it may raise the fused minimum. -/
def State.acceptImage (s : State) : State :=
  let p := s.plat
  let svn := BitVec.ofNat 32 (s.imgField 16 4)
  let hash := Config.sha384 (s.devBytes p.imgBase.toNat (fld p.imgCtl 32 32))
  let t := s.devCopy (p.imgBase.toNat + 20480) (s.imgField 32 8) (s.imgField 24 8)
  { t with plat := { t.plat with
    images := p.images ++ [hash], svn := svn, fusedSvn := if s.coin 1 0 && decide (p.fusedSvn.toNat < svn.toNat) then svn else p.fusedSvn } }

/-- BUSY clears, and ERR is set for a further image that failed. -/
def State.imgDone (s : State) (err : Bool) : State :=
  { s with plat := { s.plat with imgCtl := setFld (setFld s.plat.imgCtl 1 1 0) 2 1 (if err then 1 else fld s.plat.imgCtl 2 1) } }

/-- IMAGE_VERIFIED: the firmware finishes with the staged image; at STAGE 0x03 control core 0 of die 0 branches to it. -/
def execImageVerified (s : State) : Host.Outcome State Fault Refusal :=
  let p := s.plat
  if p.stage = 3 then
    let t := s.startThread 640 0 (s.fibre 640 0).pc
    .next { t with plat := { t.plat with stage := 4 } }
  else if !flag p.imgCtl 1 then .next s
  else if p.stage = 2 then
    let fail (s : State) : State := { s with plat := { s.plat with stage := 0xFF } }
    if !s.imgSizeOk then .next (fail (s.imgDone false))
    else
      let r := s.imgChecks
      let s := { s with plat := { s.plat with okBits := r.1 } }
      if r.2 then
        let pc := BitVec.ofNat 48 (s.imgField 32 8 + s.imgField 40 8)
        let t := s.acceptImage.imgDone false
        let t := t.setFibre 640 0 { threadFibre 0 with pc := pc }
        .next { t with plat := { t.plat with stage := 3 } }
      else .next (fail (s.imgDone false))
  else if p.images.length < 8 && s.imgSizeOk && s.imgChecks.2 then .next (s.acceptImage.imgDone false)
  else .next (s.imgDone true)

/-! ## Attestation (R395, R397) -/

/-- A write of ATT_CTL. -/
def State.writeAtt (s : State) (v : Word) : State :=
  if flag v 0 && !flag s.plat.attCtl 1 then { s with plat := { s.plat with attCtl := s.plat.attCtl ||| 2 } } else s

def execAttGo (value : Word) (s : State) : Host.Outcome State Fault Refusal :=
  if flag value 0 then throughLink (fun s => s.writeAtt value) s else .next s

/-- The lengths of the two device certificates: what fits the 32 KiB buffer. -/
def certLen (i : Nat) : Nat := Config.certLength i % 7825

/-- Bytes 0 to 511 of the report. -/
def State.reportHead (s : State) : List Byte :=
  let p := s.plat
  let hashes := (List.range 8).flatMap (fun i => bytesOf 48 (p.images.getD i 0).toNat)
  bytesOf 8 0x5450_4552_5441_5441 ++ bytesOf 4 1 ++ bytesOf 4 (17120 + certLen 0 + certLen 1) ++ bytesOf 4 p.svn.toNat
    ++ bytesOf 2 s.accid ++ bytesOf 1 (fld p.pkgCfg 16 2) ++ bytesOf 1 p.images.length
    ++ p.attNonce.flatMap (fun w => bytesOf 8 w.toNat) ++ bytesOf 8 s.gtb.toNat ++ hashes
    ++ bytesOf 4 (certLen 0) ++ bytesOf 4 (certLen 1) ++ bytesOf 56 0

/-- The whole report. -/
def State.report (s : State) : List Byte :=
  let h := s.reportHead
  h ++ (List.range 16608).map (fun i => Config.attestByte h i)
    ++ (List.range (certLen 0)).map (Config.certByte 0) ++ (List.range (certLen 1)).map (Config.certByte 1)

/-- ATTESTATION_REPORT_WRITTEN. -/
def execAttestationReportWritten (s : State) : Host.Outcome State Fault Refusal :=
  let p := s.plat
  if !flag p.attCtl 1 then .next s
  else
    let done (s : State) (st : Nat) : State := { s with plat := { s.plat with attCtl := wd (st * 256) } }
    if p.stage != 4 then .next (done s 2)
    else if !s.linkOk || !(inHost p.attBase.toNat && inHost (p.attBase.toNat + 32767)) then .next (done s 1)
    else .next (done (s.devPutBytes p.attBase.toNat s.report) 0)

/-! ## Radiance slots (R360, R362) -/

/-- The FP32 weights of a slot (R361): the hash grid, W1, Wd, b1, W2, b2, W3, b3. -/
def netWords : Nat := 16 * 2 ^ 17 * 2 + 64 * 32 + 64 * 3 + 64 + 64 * 64 + 64 + 3 * 64 + 3

/-- TSTATE of RC_SLOT. -/
def slotArea (w : Word) : Nat := fld w 16 36 * 65536

/-- The FP16 weight with a number, as the master weights give it (R360, R362). -/
def Net.publish (n : Net) (i : Nat) : BitVec 16 :=
  BitVec.ofNat 16 (cvtFF .f32 .f16 .rne false (AMap.getD n.master (Config.tstateIndex i % netWords) 0).toNat).1

/-- Every replica takes the master weights. -/
def Net.publishAll (n : Net) : Net :=
  let r : AMap (BitVec 16) := (List.range netWords).map (fun i => (i, n.publish i))
  { n with replicas := (List.range 4).map (fun d => (d, r)) }

def State.net (s : State) (n : Nat) : Net := s.nets.getD n Net.reset
def State.setNet (s : State) (n : Nat) (x : Net) : State := { s with nets := s.nets.set n x }

/-- An RCFLIP of a slot is accepted and not complete. -/
def State.flipping (s : State) (n : Nat) : Bool :=
  s.cores.any (fun (k : Nat × Core) => k.2.groups.any (fun (g : Nat × Group) => (g.2.queues.getD 6 []).any (fun (x : Command) => x.body == .flip n)))

/-- A write of RC_SLOT. -/
def State.writeSlot (s : State) (n : Nat) (v : Word) : State :=
  let x := s.net n
  let w := v &&& 0x000F_FFFF_FFFF_BFFF
  if flag v 15 || fld w 0 12 != fld x.reg 0 12 || fld w 16 36 != fld x.reg 16 36 then
    s.setNet n { x with reg := w, loaded := false, pend := some (x.pend.getD x.reg) }
  else s.setNet n { x with reg := w }

/-- The effect of such a write, once no flip is outstanding; what a dead home die held is lost (R82). -/
def State.settleSlot (s : State) (n : Nat) : State :=
  let x := s.net n
  match x.pend with
  | none => s
  | some old =>
    if s.flipping n then s
    else
      let back (s : State) (base : Nat) (m : AMap (BitVec 32)) (k : Nat) : State :=
        (List.range k).foldl (fun (s : State) i => s.devWrite (base + 4 * i) 4 (AMap.getD m i 0).toNat) s
      let s := if flag old 15 && !(s.die (fld old 12 2)).dead then back (back s (slotArea old) x.master netWords) (slotArea old + 4 * netWords) x.moments (2 * netWords) else s
      let y : Net := { x with pend := none, queue := [], master := [], moments := [], replicas := [], incoming := [], taken := 0, run := none }
      if flag x.reg 15 then
        let load (base k : Nat) : AMap (BitVec 32) := (List.range k).map (fun i => (i, BitVec.ofNat 32 (s.devRead (base + 4 * i) 4).2))
        let y := { y with master := load (slotArea x.reg) netWords, moments := load (slotArea x.reg + 4 * netWords) (2 * netWords) }
        s.setNet n { y.publishAll with loaded := true }
      else s.setNet n y

/-- RC_SLOT_WRITE. -/
def execRcSlotWrite (net : Nat) (value : Word) (s : State) : Host.Outcome State Fault Refusal :=
  if net < 2 then .next (s.writeSlot net value) else .next s

/-- A step begins on the first 16,384 samples, under the RC_ADAM then in force. Whether they leave the queue at its start or at its end
is a free choice (log entry 12). -/
def Net.beginStep (x : Net) (now : Bool) : Net :=
  { x with queue := if now then x.queue.drop 16384 else x.queue, run := some (x.adam, if now then x.queue.take 16384 else []) }

/-- The step under way, with its RC_ADAM and its samples, is whole. -/
def Net.endStep (x : Net) (adam : Word) (samples : List (List Word)) : Net :=
  let batch := if samples.isEmpty then x.queue.take 16384 else samples
  let ws := (List.range netWords).map (fun i => AMap.getD x.master i 0) ++ (List.range (2 * netWords)).map (fun i => AMap.getD x.moments i 0)
  let new (i : Nat) : BitVec 32 := Config.adamWord ws batch adam x.taken i
  { x with
    queue := if samples.isEmpty then x.queue.drop 16384 else x.queue, steps := x.steps + 1, taken := x.taken + 1, run := none,
    master := (List.range netWords).map (fun i => (i, new i)),
    moments := (List.range (2 * netWords)).map (fun i => (i, new (netWords + i))) }

/-- ADAM_STEP: the home engine begins a step, or ends the one that is under way. -/
def execAdamStep (net : Nat) (s : State) : Host.Outcome State Fault Refusal :=
  let x := s.net net
  if 2 ≤ net ∨ !flag x.reg 15 ∨ !x.loaded ∨ (s.die (fld x.reg 12 2)).dead then .next s
  else match x.run with
    | some (adam, samples) => .next (s.setNet net (x.endStep adam samples))
    | none => if x.queue.length < 16384 then .next s else .next (s.setNet net (x.beginStep (s.coin 703 (50 + net))))

/-! ## Package reset (R61, R79, R392) -/

/-- PACKAGE_RESET: every register and cache goes to its reset value; memory, and with it the save areas, the expanders and the fuses
stay. -/
def execPackageReset (s : State) : Host.Outcome State Fault Refusal :=
  .next { State.reset with
    mem := s.mem, turns := s.turns, freeCtr := s.freeCtr, messages := s.messages,
    plat := { Platform.reset with
      fusedSvn := s.plat.fusedSvn, expanders := s.plat.expanders, failedPorts := s.plat.failedPorts, poisoned := s.plat.poisoned } }

end Sys2Proof.Machine
end

