-- ==== Sys2Proof/Machine/Checkpoint.lean ====
section
/-! DEFINITION. Checkpoints: CKPT, the cut and the restore (R125, R337, R398, R399). -/

namespace Sys2Proof.Machine

/-! ## The manifest (R398) -/

/-- The frames that the spare part of HBM holds. -/
def State.spareFrames (s : State) : Nat := (0x010000000000 - s.spareFrom) / 65536

/-- The frames whose bit is set in the bitmap of a manifest, in ascending order. -/
def State.keptFrames (s : State) (man : Nat) : List Nat :=
  (List.range (2 ^ 24)).filter (fun i => bitsAt (s.devRead (man + 4096 + i / 8) 1).2 (i % 8) 1 == 1)

/-- SHAPE: the dies present, their stacks, and SPARE. -/
def State.shape (s : State) : Nat :=
  let live := (List.range 4).filter (fun d => !(s.die d).dead)
  live.foldl (fun n d => n + 2 ^ d + 15 * 2 ^ (4 + 4 * d)) 0 + fld s.plat.pkgCfg 16 2 * 2 ^ 20

/-- RANKS of a span. -/
def rankWords (ids : List Nat) : List Word :=
  (List.range 256).map (fun i => wd ((List.range 4).foldl (fun n j => n + ids.getD (4 * i + j) 0 * 2 ^ (16 * j)) 0))

/-- The manifest header. -/
def State.manifest (s : State) (ids : List Nat) (frames : Nat) : List Word :=
  [0x4B43_5052_4E49_4D00, wd (s.accid + ids.length * 2 ^ 16 + s.shape * 2 ^ 32), wd frames, s.gtb] ++ rankWords ids ++ List.replicate 252 0

/-! ## The cut -/

/-- Every dirty word of a die L2 goes to its memory and stays as a clean copy. -/
def State.cleanDie (s : State) (d : Nat) : State :=
  (s.die d).l2.foldl (fun (s : State) (l : Nat × L2Line) =>
    l.2.words.foldl (fun (s : State) (w : Nat × L2Word) =>
      let wn := 32 * l.1 + w.1
      if l.2.dom.wide then (s.homePush d wn).1
      else if w.2.mask != 0 then
        (s.setMemWord wn (mergeWord w.2.mask (s.memWord wn) w.2.value)).setL2Word d wn l.2.dom { w.2 with mask := 0 }
      else s) s) s

/-- Step 2: every dirty word of every L1 and L2. -/
def State.writeBackAll (s : State) : State :=
  let s := s.cores.foldl (fun (s : State) (k : Nat × Core) => (s.l1WriteBack k.1).1) s
  (List.range 4).foldl (fun s d => s.cleanDie d) s

/-- A group is resident on a main core. -/
def State.anyResident (s : State) : Bool := s.cores.any (fun (k : Nat × Core) => !isControl k.1 && !k.2.resident.isEmpty)

/-- What prevents a cut: a resident main-core group, a region that is not idle, a node whose LOCK a copy holds (R125), or a handle
that is MOVING. -/
def State.cutBusy (s : State) : Bool :=
  s.anyResident || s.dies.any (fun (d : Nat × Die) => d.2.wait.any (fun (e : Nat × WaitEntry) => e.2.till.isSome))
    || s.dies.any (fun (d : Nat × Die) => !d.2.snaps.isEmpty) || s.handles.any (fun h => h.st == .moving)

/-- The members of the span of the latest gang launch with a SPANID (R337). -/
def State.gangOf (s : State) (id : BitVec 16) : Option (List Nat) := (s.spans.find? (fun x => x.1 == id)).map (·.2)

/-- STATUS of a cut, and the members by rank. Another member of the span may refuse its own cut: a free choice. -/
def State.cutStatus (s : State) (man : Nat) (span : Option (BitVec 16)) : Nat × List Nat :=
  let ids := match span with
    | some id => (s.gangOf id).getD []
    | none => [s.accid]
  let others := ids.filter (· != s.accid)
  if span.isSome && ids.isEmpty then (4, ids)
  else if others.any (fun i => flag (s.peerEntry i) 17) then (0x0C, ids)
  else if s.spareFrames = 0 then (1, ids)
  else if s.cutBusy then (2, ids)
  else if s.spareFrames < (s.keptFrames man).length then (3, ids)
  else if !others.isEmpty && s.coin 0 0 then (1 + Config.freeNat s.freeCtr 0 % 3, ids)
  else (0, ids)

/-- Step 2; step 3 begins. -/
def State.startCut (s : State) (man : Nat) (ids : List Nat) : State :=
  let t := s.writeBackAll
  { t with plat := { t.plat with cutRun := some { man := man, ids := ids, frames := t.keptFrames man, pos := [] } } }

/-- The stacks that have still words to copy: 1,024 of each frame. -/
def CutRun.left (x : CutRun) : List Nat := (List.range 16).filter (fun k => decide (AMap.getD x.pos k 0 < 1024 * x.frames.length))

/-- A stack copies the next word of its granules into its spare part: frames in ascending order (R45, R398). Which stack goes on is a free
choice, and what other threads store meanwhile is copied or not, word by word. -/
def State.copyCut (s : State) (x : CutRun) : State :=
  let k := x.left.getD (Config.freeNat s.freeCtr (2 ^ 26) % x.left.length) 0
  let n := AMap.getD x.pos k 0
  let off := 4096 * k + 4 * (n % 1024)
  let r := s.devRead (x.frames.getD (n / 1024) 0 * 65536 + off) 4
  let t := r.1.devWrite (s.spareFrom + n / 1024 * 65536 + off) 4 r.2
  { t with plat := { t.plat with cutRun := some { x with pos := AMap.put x.pos k (n + 1) } } }

/-- Checks of CKPT: control cores only, privileged. -/
def ckptChecks (o : OwnOp) : Checks :=
  { checksOf (.ckpt o) o.ctl (regsDAB o.d o.a o.b) with main := false, priv := true }

/-- The manifest that CKPT names. -/
def ckptManifest (w : Word) : Nat := fld w 12 40 * 4096

/-- What CKPT finds when its cut begins: the status, and the members by rank. -/
def ckptStatus (o : OwnOp) (l : Lane) (s : State) : Nat × List Nat :=
  s.cutStatus (ckptManifest (l.reg s o.a)) (if o.mod.getLsbD 0 then some ((l.reg s o.b).setWidth 16) else none)

/-- What CKPT does when the cut is over: the status in w[D]. -/
def ckptBody (o : OwnOp) (status : Nat) (l : Lane) (s : State) : LaneEnd := .go (l.put s o.ctl.t o.d (wd status))

/-- CKPT: dispatch freezes, and the thread waits until the cut is complete. A second one waits until the first is. -/
def execCkpt (o : OwnOp) (s : State) : Host.Outcome State Fault Refusal :=
  match s.cur with
  | .ferry c n =>
    let fy := s.ferry c n
    let act := s.activeLanes fy c n (ckptChecks o)
    if (AMap.find (s.core c).ferries n).isNone then .fault .noIssuer
    else if (s.ferryTrap c n (ckptChecks o)).isSome || act.any (fun p => ((s.fibre c p).missing (ckptChecks o).regs).isSome) || act.isEmpty then
      issue (ckptChecks o) (ckptBody o 0) s
    else if s.plat.ckptCut.isSome then .next s
    else
      let t := s.updFerry c n (fun x => { x with hold := .accept 0 (.ckpt o) act })
      .next { t with plat := { t.plat with ckptCut := some (c, n, act.headD 0) } }
  | _ => .fault .noIssuer

/-- Step 5: dispatch is released, and the thread goes on with the status. -/
def State.endCut (s : State) (c n p : Nat) (o : OwnOp) (status : Nat) : State :=
  let t := s.acceptLane c n p (ckptChecks o) (ckptBody o status)
  { t with plat := { t.plat with ckptCut := none, cutRun := none } }

/-- CHECKPOINT_CUT_COMPLETE: a cut that may not be taken ends with its status; else its write-backs are made, then a word is copied at a
time, and at last the manifest is written, dispatch is released, and the thread goes on. -/
def execCheckpointCutComplete (s : State) : Host.Outcome State Fault Refusal :=
  match s.plat.ckptCut with
  | none => .next s
  | some (c, n, p) =>
    match (s.ferry c n).hold with
    | .accept _ (.ckpt o) _ =>
      match s.plat.cutRun with
      | none =>
        let l : Lane := { c := c, p := p, n := n, pos := (s.ferry c n).pos, pc := (s.ferry c n).pc }
        let r := ckptStatus o l s
        .next (if r.1 = 0 then s.startCut (ckptManifest (l.reg s o.a)) r.2 else s.endCut c n p o r.1)
      | some x =>
        if x.left.isEmpty then .next ((s.devPut x.man (s.manifest x.ids x.frames.length)).endCut c n p o 0)
        else .next (s.copyCut x)
    | _ => .next { s with plat := { s.plat with ckptCut := none, cutRun := none } }

/-! ## Restore (R399) -/

/-- A write of CKPT_CTL. -/
def State.writeCkpt (s : State) (v : Word) : State :=
  let busy := flag s.plat.ckptCtl 3
  let w := (v &&& 0x000F_FFFF_FFFF_F000) ||| (s.plat.ckptCtl &&& 0xFF8)
  if flag v 0 && !busy && flag s.plat.pkgCfg 63 then { s with plat := { s.plat with ckptCtl := w ||| 8, ckptRestore := true } }
  else { s with plat := { s.plat with ckptCtl := w } }

def execCkptRestore (value : Word) (s : State) : Host.Outcome State Fault Refusal :=
  if flag value 0 then .next (s.writeCkpt value) else .next s

/-- The manifest is one of this package in this shape. -/
def State.manifestOk (s : State) (man : Nat) : Bool :=
  let w (i : Nat) : Word := (s.devWord (man + 8 * i)).2
  let size := fld (w 1) 16 16
  let ranks := (List.range 1024).map (fun i => fld (w (4 + i / 4)) (16 * (i % 4)) 16)
  w 0 == 0x4B43_5052_4E49_4D00 && fld (w 1) 0 16 == s.accid && fld (w 1) 32 32 == s.shape
    && decide (1 ≤ size) && decide (size ≤ 1024) && decide (s.accid ∈ ranks.take size) && (ranks.drop size).all (· == 0)

/-- CHECKPOINT_RESTORE_COMPLETE. A restore begins with no residency handles. -/
def execCheckpointRestoreComplete (s : State) : Host.Outcome State Fault Refusal :=
  if !s.plat.ckptRestore then .next s
  else
    let man := fld s.plat.ckptCtl 12 40 * 4096
    let done (s : State) (st : Nat) : State :=
      ({ s with plat := { s.plat with ckptCtl := wd (man + st * 16), ckptRestore := false } } : State).sendHost 5 []
    if s.anyResident || !s.manifestOk man then .next (done { s with plat := { s.plat with bootCode := 0x19 } } 0x19)
    else
      let t := ((s.keptFrames man).foldl (fun (r : State × Nat) k =>
        (r.1.devCopy (s.spareFrom + r.2 * 65536) (k * 65536) 65536, r.2 + 1)) (s, 0)).1
      .next (done { t with handles := [], moves := [], move := none, autoTried := [] } 0)

end Sys2Proof.Machine
end

