-- ==== Sys2Proof/Machine/Control.lean ====
section
/-! DEFINITION. The device control block: reads and writes of its registers by offset (R5, R386). -/

namespace Sys2Proof.Machine

/-- The bits of a base register that names 64-byte aligned memory. -/
def base64Mask : Word := 0x000F_FFFF_FFFF_FFC0
/-- The bits of a register that names a 4 KiB aligned address. -/
def base4kMask : Word := 0x000F_FFFF_FFFF_F000
/-- The bits of a register that names a page's VA. -/
def pageMask : Word := 0x01FF_FFFF_FFFF_0000

/-- PLANE_CTL as it reads. -/
def State.planeCtl (s : State) : Word :=
  let drained := (List.range 16).foldl (fun n p => if s.drained p then n + 2 ^ p else n) 0
  wd (s.fabric.quiesce.toNat + drained * 2 ^ 16 + s.fabric.down.toNat * 2 ^ 32)

/-- BOOT_ST as it reads. -/
def State.bootSt (s : State) : Word :=
  wd (s.plat.stage.toNat + s.plat.okBits.toNat * 2 ^ 8 + s.plat.bootCode.toNat * 2 ^ 16)

/-- A read of the register at an offset; an unlisted offset reads zero. -/
def State.ctlRead (s : State) (off : Nat) : Word :=
  let p := s.plat
  match off with
  | 0x000 => p.devid
  | 0x008 => s.bootSt
  | 0x010 => p.pkgCfg
  | 0x018 => p.ckptCtl
  | 0x020 => p.imgBase
  | 0x028 => p.imgCtl
  | 0x030 => p.attBase
  | 0x038 => p.attCtl
  | 0x040 => p.attNonce.getD 0 0
  | 0x048 => p.attNonce.getD 1 0
  | 0x050 => p.attNonce.getD 2 0
  | 0x058 => p.attNonce.getD 3 0
  | 0x100 => p.ctxtab
  | 0x108 => p.traptab
  | 0x110 => p.fbuf
  | 0x118 => p.rmring
  | 0x200 => p.shootVa
  | 0x208 => p.shootCtl
  | 0x210 => p.replayVa
  | 0x218 => p.replayCtl
  | 0x220 => p.faultWd.setWidth 64
  | 0x300 => if s.preOp.isSome then p.preCtl ||| 0x40 else p.preCtl
  | 0x308 => p.preBase
  | 0x310 => p.preSize.setWidth 64
  | 0x400 => s.fabric.steer
  | 0x408 => s.planeCtl
  | 0x410 => s.fabric.rto.setWidth 64 ||| (if s.fabric.rtoErr then wd (2 ^ 63) else 0)
  | 0x420 => s.fabric.staleDrops
  | 0x428 => s.fabric.dupDrops
  | 0x430 => s.fabric.resends
  | 0x438 => s.fabric.biSent
  | 0x500 => (s.net 0).reg
  | 0x508 => (s.net 1).reg
  | _ =>
    if off % 8 ≠ 0 then 0
    else if 0x10000 ≤ off ∧ off < 0x10000 + 8 * 640 then (s.core ((off - 0x10000) / 8)).bspart
    else if 0x20000 ≤ off ∧ off < 0x20000 + 8 * 1024 then s.peerEntry ((off - 0x20000) / 8)
    else if 0x30000 ≤ off ∧ off < 0x30000 + 8 * 256 then s.island ((off - 0x30000) / 8)
    else 0

/-- A write of the register at an offset; an unlisted or read-only one takes nothing. -/
def State.ctlWrite (s : State) (by_ : Writer) (off : Nat) (v : Word) : State :=
  let p := s.plat
  match off with
  | 0x010 => s.writePkg v
  | 0x018 => s.writeCkpt v
  | 0x020 => s.writeImgBase by_ v
  | 0x028 => s.writeImgCtl by_ v
  | 0x030 => { s with plat := { p with attBase := v &&& base4kMask } }
  | 0x038 => s.writeAtt v
  | 0x040 => { s with plat := { p with attNonce := p.attNonce.set 0 v } }
  | 0x048 => { s with plat := { p with attNonce := p.attNonce.set 1 v } }
  | 0x050 => { s with plat := { p with attNonce := p.attNonce.set 2 v } }
  | 0x058 => { s with plat := { p with attNonce := p.attNonce.set 3 v } }
  | 0x100 => { s with plat := { p with ctxtab := v &&& base64Mask } }
  | 0x108 => { s with plat := { p with traptab := v &&& base64Mask } }
  | 0x110 => { s with plat := { p with fbuf := v &&& base64Mask } }
  | 0x118 => { s with plat := { p with rmring := v &&& base64Mask } }
  | 0x200 => { s with plat := { p with shootVa := v &&& pageMask } }
  | 0x208 => s.writeShoot v
  | 0x210 => { s with plat := { p with replayVa := v &&& pageMask } }
  | 0x218 => s.writeReplay v
  | 0x220 => { s with plat := { p with faultWd := v.setWidth 32 } }
  | 0x300 => s.writePre v
  | 0x308 => { s with plat := { p with preBase := v &&& base4kMask } }
  | 0x310 => { s with plat := { p with preSize := v.setWidth 32 } }
  | 0x400 => s.writeSteer v
  | 0x408 => s.writeQuiesce v
  | 0x410 => s.writeRto v
  | 0x420 => s.clearCounter 0
  | 0x428 => s.clearCounter 1
  | 0x430 => s.clearCounter 2
  | 0x438 => s.clearCounter 3
  | 0x500 => s.writeSlot 0 v
  | 0x508 => s.writeSlot 1 v
  | _ =>
    if off % 8 ≠ 0 then s
    else if 0x10000 ≤ off ∧ off < 0x10000 + 8 * 640 then s.writeBspart ((off - 0x10000) / 8) v
    else if 0x20000 ≤ off ∧ off < 0x20000 + 8 * 1024 then s.writePeer ((off - 0x20000) / 8) v
    else if 0x30000 ≤ off ∧ off < 0x30000 + 8 * 256 then s.writeIsland ((off - 0x30000) / 8) v
    else s

/-- CONTROL_REGISTER_WRITE: the host writes a register through BAR0. -/
def execControlRegisterWrite (offset : Nat) (value : Word) (s : State) : Host.Outcome State Fault Refusal :=
  throughLink (fun s => s.ctlWrite .host offset value) s

end Sys2Proof.Machine
end

