-- ==== Sys2Proof/Machine/Mem.lean ====
section
/-! DEFINITION. Loads, stores and prefetches of global memory, scratchpad, the window aperture and peers (R22 to R27,
R257 to R264). -/

namespace Sys2Proof.Machine

/-! ## Addresses and values -/

/-- The address of a memory-class word (R258). -/
def memAddr (o : MemOp) (l : Lane) (s : State) : Word :=
  let z : Int := o.sz.bytes
  let off := if o.nf then 0 else signedField 7 o.imm7.toNat
  addrSum (l.greg s o.a) (ext32 o.os (l.reg s o.b) * z + off * z)

/-- A loaded value as registers (R258). -/
def loadRegs (z : Sz) (sx : Bool) (d : BitVec 8) (v : Nat) : List (Nat × Word) :=
  let bits := 8 * z.bytes
  match z with
  | .b16 => [(d.toNat, wd v), (d.toNat + 1, wd (v / 2 ^ 64))]
  | .b8 => [(d.toNat, wd v)]
  | _ => [(d.toNat, if sx then ofInt (signedField bits (v % 2 ^ bits)) else wd (v % 2 ^ bits))]

/-- The data of a store: the low bytes of wD, or all of wD and wD+1. -/
def storeData (z : Sz) (d : BitVec 8) (l : Lane) (s : State) : Nat :=
  match z with
  | .b16 => (l.reg s d).toNat + 2 ^ 64 * (l.regN s (d.toNat + 1)).toNat
  | _ => (l.reg s d).toNat % 2 ^ (8 * z.bytes)

/-- The registers of a memory-class word. -/
def memRegs (o : MemOp) : List Nat := pairRegs (o.sz == .b16) o.d ++ [o.b.toNat]

/-! ## Global loads -/

/-- A lane has loaded a value: the settle mark and the pending notices (R95). -/
def Lane.noteLoad (l : Lane) (s : State) (p : Place) (t : Word) : State := s.noteLoad l.c l.p p.dom p.pa t

/-- A resolved load: from the device control block, or from memory. -/
def Lane.loadAt (l : Lane) (s : State) (p : Place) (va : Word) (n : Nat) (acq : Bool) : State × Nat :=
  if p.control then (s, (s.ctlRead (p.pa - 0x200000000000)).toNat)
  else
    let r := s.readPlace l.c (l.ctx s) p va.toNat n acq
    (l.noteLoad r.1 p r.2.2, r.2.1)

/-- A load with NF gives zero for this stop (R260): an address form, a page that is not present, a malformed entry, a
permission, a version lookup or a version gone. -/
def State.nfZero (s : State) (v : Via) (ctx : BitVec 12) (va : Word) (ver : Option (BitVec 16)) (x : AccessStop) : Bool :=
  match x with
  | .park .fault _ _ => true
  | .park _ _ _ | .wait => false
  | .trap t =>
    match t.code with
    | .pageFault | .versionGone => true
    | .protection =>
      if fld va 57 7 ≠ 0 then true
      else match s.translateVia v ctx va.toNat false with
        | (_, .error _) => true
        | (s, .ok e) =>
          if !permits (s.user ctx) .read e then true
          else if e.kind = 1 then
            match s.versionPlace v.die ctx va e false ver with
            | (_, .error _) => true
            | (_, .ok _) => false
          else false
    | _ => false

/-- The result predicate of an NF load: IMM7[3:0]. -/
def nfPred (o : MemOp) (b : Bool) : List (Nat × Bool) := if o.nf then [(o.imm7.toNat % 16, b)] else []

/-- A plain access that need not be performed in the step of its instruction (R90): of ordinary memory, through the caches. One that is
uncached keeps the program order of its fibre (R41). -/
def Place.lax (p : Place) : Bool := !p.control && !p.e.uncached

/-- The accesses of a lane that are to be performed later, each of 8 bytes or less: a 16-byte access is two (R85). The lanes of an
instruction share the stamps. -/
def Lane.latesOf (l : Lane) (s : State) (kind : LateKind) (x : LatePlace) (sz : Sz) (d : BitVec 8) (sx acq : Bool) (data : Nat) :
    List LateAccess :=
  let one (i n v : Nat) : LateAccess :=
    { kind := kind, stamp := 2 * s.freeCtr + i, ctx := l.ctx s, at_ := x.shift (8 * i), n := n, data := v % 2 ^ (8 * n),
      reg := d.toNat + i, sz := sz, sx := sx && n < 8, acq := acq }
  if sz = .b16 then [one 0 8 data, one 1 8 (data / 2 ^ 64)] else [one 0 sz.bytes data]

/-- The same of a memory-class word. -/
def Lane.lates (l : Lane) (s : State) (kind : LateKind) (x : LatePlace) (o : MemOp) (sx : Bool) (data : Nat) : List LateAccess :=
  l.latesOf s kind x o.sz o.d sx (o.ord == .acq) data

/-- A load of a lane that is performed later: before its result lands, in no fixed order (R85, R90). -/
def Lane.loadLater (l : Lane) (s : State) (x : LatePlace) (line : Option Nat) (o : MemOp) (sx : Bool) : State :=
  l.defer s o.ctl.fl [] (nfPred o true) 0 line none o.sz (l.lates s .load x o sx 0)

/-- Accesses of a lane without a result that are performed later (R85, R90). -/
def Lane.putLater (l : Lane) (s : State) (sz : Sz) (as : List LateAccess) : State :=
  s.updFibre l.c l.p (fun f => { f with pending := f.pending ++ as.map (fun x =>
    { flag := none, regs := [], preds := [], fp := 0, line := none, await := none, peerSz := sz, late := [x], unit := false }) })

/-- A store of a lane that is performed later: a plain one, or the own store of a release (R90). -/
def Lane.storeLater (l : Lane) (s : State) (x : LatePlace) (o : MemOp) : State :=
  l.putLater s o.sz (l.lates s (if o.ord == .rel then .release else .store) x o false (storeData o.sz o.d l s))

/-- A load that is not performed in the step of its instruction: an acquire of a value whose back-invalidations are in progress (R92),
or of 16 bytes, whose two halves have no order (R85). -/
def Place.waitsLoad (p : Place) (s : State) (n : Nat) (acq : Bool) : Bool := acq && !p.control && (s.podBusy p.dom p.pa || n == 16)

/-- One lane of LD or LDV. -/
def loadBody (o : MemOp) (ver : Lane → State → Option (BitVec 16)) (l : Lane) (s : State) : LaneEnd :=
  let a := memAddr o l s
  let n := o.sz.bytes
  let ctx := l.ctx s
  let v := ver l s
  match s.resolve l.c ctx a n .read v true with
  | (s, .error x) =>
    if o.nf && s.nfZero (Via.of l.c) ctx a v x then
      .go (l.defer s o.ctl.fl (loadRegs o.sz false o.d 0) (nfPred o false) 0 none none o.sz)
    else .stop s x .read
  | (s, .ok p) =>
    let acq := o.ord == .acq
    let sx := o.sx && p.e.kind != 2
    let done (s : State) (x : Nat) : LaneEnd :=
      .go (l.defer s o.ctl.fl (loadRegs o.sz sx o.d x) (nfPred o true) 0 (some (p.pa / 128)) none o.sz)
    match s.takeEarly l.c l.p p a n acq with
    | some r => done r.1 r.2
    | none =>
      let s := s.beforeLoad l.c l.p p a.toNat n acq
      if p.waitsLoad s n acq || !acq && p.lax && s.coin l.p 4098 then .go (l.loadLater s (p.late a) (some (p.pa / 128)) o sx)
      else
        let r := l.loadAt s p a n acq
        done r.1 r.2

def ldBody (o : MemOp) : Lane → State → LaneEnd := loadBody o (fun _ _ => none)

def execLd (o : MemOp) (s : State) : Host.Outcome State Fault Refusal :=
  issue (checksOf (.ld o) o.ctl (memRegs o)) (ldBody o) s

/-- LDV names the version in w[C][15:0] (R261). -/
def ldvBody (o : MemOp) : Lane → State → LaneEnd := loadBody o (fun l s => some ((l.reg s o.c).setWidth 16))

def execLdv (o : MemOp) (s : State) : Host.Outcome State Fault Refusal :=
  issue (checksOf (.ldv o) o.ctl (memRegs o ++ [o.c.toNat])) (ldvBody o) s

/-! ## Global stores -/

/-- A lane has stored to a place (R105). -/
def Lane.noteStore (l : Lane) (s : State) (p : Place) (va : Word) (n : Nat) : State :=
  s.noteStore l.c l.p s.freeCtr p.dom ((p.e.parts va.toNat p.pa n).flatMap (fun x => wordsOf x.1 x.2))

/-- A resolved store: to the device control block, or to memory; a release's own store at its point of coherence. -/
def Lane.storeAt (l : Lane) (s : State) (p : Place) (va : Word) (n v : Nat) (rel : Bool) : State :=
  if p.control then s.ctlWrite (if isControl l.c then .thread else .fibre) (p.pa - 0x200000000000) (wd v)
  else if rel then
    let r := s.writePoint l.c (l.ctx s) p va.toNat n v
    (l.noteStore r.1 p va n).updFibre l.c l.p (fun f => { f.addFp r.2.2 with pushTc := later f.pushTc r.2.1 })
  else
    let r := s.writePlace l.c (l.ctx s) p va.toNat n v
    l.addFp (l.noteStore r.1 p va n) r.2

/-- One lane of ST. A plain store, or the own store of a release (R91, step 4), may be performed in this step, after those of lower lanes
that go before it, or later. -/
def stBody (o : MemOp) (l : Lane) (s : State) : LaneEnd :=
  let a := memAddr o l s
  let n := o.sz.bytes
  if l.helper s then .go s
  else match s.resolve l.c (l.ctx s) a n .write none true with
    | (s, .error x) => .stop s x .write
    | (s, .ok p) =>
      let s := s.settleAt l.c l.p (p.e.parts a.toNat p.pa n)
      if p.lax && s.coin l.p 4099 then .go (l.storeLater s (p.late a) o)
      else
        let s := s.lanesFirst l.c l.p s.freeCtr ((p.e.parts a.toNat p.pa n).flatMap (fun x => wordsOf x.1 x.2))
        .go (l.storeAt s p a n (storeData o.sz o.d l s) (o.ord == .rel))

def execSt (o : MemOp) (s : State) : Host.Outcome State Fault Refusal :=
  let k := checksOf (.st o) o.ctl (memRegs o)
  if o.ord == .rel then issueRelease (.st o) k (stBody o) s else issue k (stBody o) s

/-! ## Scratchpad and the window aperture -/

/-- A segment's address, in a group of a core. -/
def State.segment (s : State) (c g : Nat) (a : Word) : Option ScrTarget :=
  let x := a.toNat
  if x < 0x100000 then (if x < (s.group c g).scratchSize then some (.group x) else none)
  else if x < 0x200000 then
    (if x - 0x100000 < (s.cluster c (s.group c g).cluster).scratchSize then some (.cluster (x - 0x100000)) else none)
  else none

/-- The checks on a scratchpad access of `n` bytes (R7, R22, R25, R33). -/
def Lane.scrTarget (l : Lane) (s : State) (a : Word) (n : Nat) : Except Trap ScrTarget :=
  let x := a.toNat
  let f := l.fibre s
  if x % n ≠ 0 then .error { code := .misaligned, info0 := a, info1 := 0 }
  else match s.segment l.c f.gslot a with
    | some t => .ok t
    | none =>
      if 0xFFF00000 ≤ x ∧ x < 0xFFF00800 then
        let r := (x - 0xFFF00000) / 8
        match f.missing (if n = 16 then [r, r + 1] else [r]) with
        | some k => .error { code := .window, info0 := wd k, info1 := 0 }
        | none => .ok (.window r (x % 8))
      else .error { code := .protection, info0 := a, info1 := 0 }

/-- A register as the aperture reads it: in program order with the word's other registers, so a transient result is seen inside
the forwarding window, and may be outside it (R25, R148). -/
def Lane.aperture (l : Lane) (s : State) (r : Nat) : Word := (l.fibre s).read (s.coin l.p) l.pos r

/-- An aperture read of `n` bytes. -/
def Lane.apertureRead (l : Lane) (s : State) (r b n : Nat) : Nat :=
  if n = 16 then (l.aperture s r).toNat + 2 ^ 64 * (l.aperture s (r + 1)).toNat else bitsAt (l.aperture s r).toNat (8 * b) (8 * n)

/-- An aperture write of `n` bytes: only the named bytes of the register change. -/
def Lane.apertureWrite (l : Lane) (s : State) (r b n v : Nat) : State :=
  if n = 16 then l.putN (l.putN s r (wd v)) (r + 1) (wd (v / 2 ^ 64))
  else l.putN s r (setFld (l.aperture s r) (8 * b) (8 * n) v)

/-- The 8-byte words of its segment that a lane's access touches, each with the segment it lies in: that of a group slot, or of a
cluster of the core (R23). -/
def ScrTarget.words (t : ScrTarget) (slot cluster n : Nat) : List (Nat × Nat) :=
  match t with
  | .group off => (List.range ((n + 7) / 8)).map (fun i => (2 * slot, off / 8 + i))
  | .cluster off => (List.range ((n + 7) / 8)).map (fun i => (2 * cluster + 1, off / 8 + i))
  | .window _ _ => []

/-- The lane makes an access to scratchpad: a store or an atomic of a helper is not performed (R143). -/
def Lane.touches (l : Lane) (s : State) (stores : Bool) : Bool := !(stores && l.helper s)

/-- The lane is the first of its ferry that performs the word, of those that make an access. -/
def Lane.leads (l : Lane) (s : State) (k : Checks) (stores : Bool) : Bool :=
  ((s.activeLanes (s.ferry l.c l.n) l.c l.n k).find? (fun p => ((s.fibre l.c p).missing k.regs).isNone
    && ({ l with p := p } : Lane).touches s stores)) == some l.p

/-- Cycles of a scratchpad access (R23): the fullest bank's distinct words, and for atomics the further lanes on a word. -/
def bankCycles (atomic : Bool) (ws : List (Nat × Nat)) : Nat :=
  (List.range 64).foldl (fun m b =>
    let mine := ws.filter (fun w => w.2 % 64 == b)
    max m (if atomic then mine.length else mine.eraseDups.length)) 1

/-- The leading lane counts the word's cycles beyond one (R333, event 0x05). -/
def Lane.countBanks (l : Lane) (s : State) (k : Checks) (addr : Lane → State → Word) (n : Nat) (atomic stores : Bool) : State :=
  if l.leads s k stores then
    let fy := s.ferry l.c l.n
    let ls := (fy.toLanes l.c l.n).filter (fun x => x.guard s k && x.touches s stores)
    let ws := ls.flatMap (fun x => match x.scrTarget s (addr x s) n with
      | .ok t => t.words (x.fibre s).gslot (s.groupOf x.c x.p).cluster n
      | .error _ => [])
    s.count l.c fy.ctx (fun x => { x with bankcyc := x.bankcyc + (bankCycles atomic ws - 1) })
  else s

/-- Checks of LDS and STS: main cores only. -/
def scrChecks (i : Instr) (o : MemOp) : Checks := mainChecks i o.ctl (memRegs o)

/-- One lane of LDS. -/
def ldsBody (o : MemOp) (l : Lane) (s : State) : LaneEnd :=
  let a := memAddr o l s
  let n := o.sz.bytes
  let s := l.countBanks s (scrChecks (.lds o) o) (memAddr o) n false false
  match l.scrTarget s a n with
  | .error t =>
    if o.nf && t.code == .protection then
      .go (l.defer s o.ctl.fl (loadRegs o.sz false o.d 0) (nfPred o false) 0 none none o.sz)
    else .trap s t
  | .ok t =>
    let s := if o.ord == .acq then s.noEarly l.c l.p else s
    if o.ord != .acq && t.banked && s.coin l.p 4098 then .go (l.loadLater (s.settleScr l.c l.p t n) (.scratch t) none o o.sx)
    else
      let s := s.settleScr l.c l.p t n
      let v := match t with
        | .window r b => l.apertureRead s r b n
        | t => s.scrRead l.c (l.fibre s).gslot t n
      .go (l.defer s o.ctl.fl (loadRegs o.sz o.sx o.d v) (nfPred o true) 0 none none o.sz)

def execLds (o : MemOp) (s : State) : Host.Outcome State Fault Refusal := issue (scrChecks (.lds o) o) (ldsBody o) s

/-- An address of the window aperture (R25). -/
def inAperture (a : Word) : Bool := decide (0xFFF00000 ≤ a.toNat) && decide (a.toNat < 0xFFF00800)

/-- One lane of STS. A helper's store to a segment is not performed; one to the aperture is (R143). DESIGN CHOICE, log entry 70: a
store of a helper that is not performed makes no check either. -/
def stsBody (o : MemOp) (l : Lane) (s : State) : LaneEnd :=
  let a := memAddr o l s
  let n := o.sz.bytes
  let s := l.countBanks s (scrChecks (.sts o) o) (memAddr o) n false true
  if l.helper s && !inAperture a then .go s
  else match l.scrTarget s a n with
    | .error t => .trap s t
    | .ok (.window r b) => .go (l.apertureWrite s r b n (storeData o.sz o.d l s))
    | .ok t =>
      let s := s.settleScr l.c l.p t n
      if s.coin l.p 4099 then .go (l.storeLater s (.scratch t) o)
      else
        let s := s.lanesFirst l.c l.p s.freeCtr (t.wordsOf n)
        .go (s.scrWrite l.c (l.fibre s).gslot t n (storeData o.sz o.d l s))

def execSts (o : MemOp) (s : State) : Host.Outcome State Fault Refusal :=
  if o.ord == .rel then issueRelease (.sts o) (scrChecks (.sts o) o) (stsBody o) s
  else issue (scrChecks (.sts o) o) (stsBody o) s

/-! ## Prefetch (R262) -/

/-- The die L2 takes the words of a line. -/
def State.l2Fill (s : State) (d : Nat) (ctx : BitVec 12) (dom : Domain) (line : Nat) : State :=
  (List.range 32).foldl (fun (s : State) i => (s.l2Read d ctx dom (32 * line + i)).1) (s.l2Hold d dom line)

/-- One lane of PREF: a request that may be dropped, and that does nothing where a check fails. -/
def prefBody (o : MemOp) (l : Lane) (s : State) : LaneEnd :=
  let a := memAddr o l s
  if s.coin l.p 4096 then .go s
  else match s.resolve l.c (l.ctx s) a o.sz.bytes .read none true with
    | (s, .error _) => .go s
    | (s, .ok p) =>
      if p.e.uncached then .go s
      else
        let pa := if p.e.kind = 2 then p.e.addr + (elemBits p.e.efmt (a.toNat % 65536 / 4)).1 / 8 else p.pa
        if o.d.getLsbD 0 then .go (s.l2Fill (dieOf l.c) (l.ctx s) p.dom (pa / 128)) else .go (s.l1Fill l.c (l.ctx s) p.dom (pa / 128))

def execPref (o : MemOp) (s : State) : Host.Outcome State Fault Refusal :=
  issue (checksOf (.pref o) o.ctl [o.b.toNat]) (prefBody o) s

/-! ## Peers (R27, R264) -/

/-- The address of a peer-class word. -/
def peerAddr (o : PeerOp) (l : Lane) (s : State) : Word :=
  addrSum (l.reg s o.a) (signedField 4 o.imm4.toNat * (o.sz.bytes : Int))

/-- Accelerator IDs of the span of a lane's grid; a control thread has none. -/
def Lane.members (l : Lane) (s : State) : List Nat :=
  if isControl l.c then [] else match s.grid (s.groupOf l.c l.p).grid with
    | some g => g.members
    | none => []

/-- An L1 of a core has an unexpired lease on a copy (R63, R74). -/
def PeerCopy.leased (x : PeerCopy) (c : Nat) (now : Word) : Bool := decide (now.toNat + 2 < (AMap.getD x.leases c 0).toNat)

/-- A copy of a remote line that this package keeps, or that the L1 of core `c` may still use after a BISnp (R73, R74). -/
def State.peerCopy (s : State) (c id : Nat) (va : Word) (n : Nat) : Option PeerCopy :=
  s.fabric.copies.find? (fun x => x.home == id && decide (x.va.toNat ≤ va.toNat) && decide (va.toNat + n ≤ x.va.toNat + x.bytes.length)
    && x.inc.toNat == fld (s.peerEntry id) 0 16 && (x.inL2 || x.leased c s.gtb))

/-- The L1 of a core takes a copy, where it has none under an unexpired lease: the lease is one of class 7, since nothing of the line is
written back (R62). -/
def PeerCopy.fill (x : PeerCopy) (c : Nat) (now : Word) : PeerCopy :=
  if x.leased c now then x else { x with leases := AMap.put x.leases c (now + 4096) }

/-- A core reads a copy. -/
def State.useCopy (s : State) (c : Nat) (x : PeerCopy) : State :=
  { s with fabric := { s.fabric with copies := s.fabric.copies.map (fun y => if y = x then y.fill c s.gtb else y) } }

/-- A read of a fibre from a remote line is on its way: a later one takes no copy, so that the two keep their order (R87). -/
def State.readsLine (s : State) (c p id : Nat) (va : Word) : Bool :=
  (s.sendWindow id (planeOf va.toNat)).sent.any (fun r => r.value && r.waiter == .fibre c p && (opVa r.op).toNat / 128 == va.toNat / 128)

/-- The ferry waits until its acquires of peer memory are performed (R90). -/
def State.holdAcquire (s : State) (c n : Nat) (acq : Bool) : State :=
  if acq then s.updFerry c n (fun fy => { fy with hold := .acquire }) else s

/-- A peer access whose result this lane awaits is sent. -/
def Lane.sendLoad (l : Lane) (s : State) (fl : Fl) (d : BitVec 8) (sz : Sz) (id : Nat) (op : FabricOp) (acq : Bool) : LaneEnd :=
  match s.sendPeer id op (.fibre l.c l.p) true l.pc with
  | none => .stall
  | some (s, tag) =>
    .go ((l.defer s fl (loadRegs sz false d 0) [] 0 none (some (id, planeOf (opVa op).toNat, tag)) sz).holdAcquire l.c l.n acq)

/-- One lane of LDP that names its own package: it is performed at the home, in this step or later (R27, R90). -/
def ldpOwn (o : PeerOp) (a : Word) (l : Lane) (s : State) : LaneEnd :=
  let n := o.sz.bytes
  let acq := o.ord == .acq
  match s.peerPlace (l.ctx s) a (min n 8) .read with
  | (s, .error x) => .stop s x .read
  | (s, .ok p) =>
    let s := s.beforeLoad l.c l.p p a.toNat n acq
    if p.waitsLoad s n acq || !acq && s.coin l.p 4098 then
      .go (l.defer s o.ctl.fl [] [] 0 none none o.sz (l.latesOf s .peerLoad (p.late a) o.sz o.d false acq 0))
    else
      let s := s.atHome l.c p a.toNat n
      match s.peerRead (l.ctx s) a (min n 8) (n / min n 8) with
      | (s, .error x) => .stop s x .read
      | (s, .ok bs) =>
        let s := l.noteLoad s p (s.settleParts l.c p.dom (p.e.parts a.toNat p.pa n))
        .go (l.defer s o.ctl.fl (loadRegs o.sz false o.d (numOf bs)) [] 0 none none o.sz)

/-- One lane of LDP. -/
def ldpBody (o : PeerOp) (l : Lane) (s : State) : LaneEnd :=
  let a := peerAddr o l s
  let n := o.sz.bytes
  let peer := l.reg s o.b
  let id := fld peer 0 10
  match s.peerTrap (l.ctx s) (l.members s) peer a n with
  | some t => .trap s t
  | none =>
    if id = s.accid then ldpOwn o a l s
    else
      let keep := if o.ord == .acq || s.readsLine l.c l.p id a then none else s.peerCopy l.c id a n
      match keep with
      | some x =>
        .go (l.defer (s.useCopy l.c x) o.ctl.fl (loadRegs o.sz false o.d (numOf ((x.bytes.drop (a.toNat - x.va.toNat)).take n))) [] 0 none none o.sz)
      | none => l.sendLoad (if o.ord == .acq then s.noEarly l.c l.p else s) o.ctl.fl o.d o.sz id (.read a n) (o.ord == .acq)

def execLdp (o : PeerOp) (s : State) : Host.Outcome State Fault Refusal :=
  issue (checksOf (.ldp o) o.ctl (pairRegs (o.sz == .b16) o.d ++ [o.a.toNat, o.b.toNat])) (ldpBody o) s

/-- A store's completion time is kept for the fibre's next release or fence. -/
def Lane.noteTc (l : Lane) (s : State) (t : Word) : State :=
  s.updFibre l.c l.p (fun f => { f with pushTc := later f.pushTc t })

/-- A peer access without a result is sent; its acknowledgement counts for the fibre's releases. -/
def Lane.sendStore (l : Lane) (s : State) (id : Nat) (op : FabricOp) : LaneEnd :=
  match s.sendPeer id op (.fibre l.c l.p) false l.pc with
  | none => .stall
  | some (s, _) => .go s

/-- One lane of STP that names its own package: it is performed at the home, in this step or later (R27, R90). -/
def stpOwn (o : PeerOp) (a : Word) (data : List Byte) (l : Lane) (s : State) : LaneEnd :=
  let n := o.sz.bytes
  match s.peerPlace (l.ctx s) a (min n 8) .write with
  | (s, .error x) => .stop s x .write
  | (s, .ok p) =>
    let ws := (p.e.parts a.toNat p.pa n).flatMap (fun x => wordsOf x.1 x.2)
    let s := s.settleWords l.c l.p ws
    if s.coin l.p 4099 then
      .go (l.putLater s o.sz (l.latesOf s .peerStore (p.late a) o.sz o.d false false (numOf data)))
    else
      let s := (s.lanesFirst l.c l.p s.freeCtr ws).atHome l.c p a.toNat n
      match s.peerWrite (l.ctx s) a (min n 8) data (n / min n 8) with
      | (s, .error x) => .stop s x .write
      | (s, .ok t) => .go (l.noteTc (s.noteSentAll l.c p.dom ws) t)

/-- One lane of STP. -/
def stpBody (o : PeerOp) (l : Lane) (s : State) : LaneEnd :=
  let a := peerAddr o l s
  let n := o.sz.bytes
  let peer := l.reg s o.b
  let id := fld peer 0 10
  let data := bytesOf n (storeData o.sz o.d l s)
  if l.helper s then .go s
  else match s.peerTrap (l.ctx s) (l.members s) peer a n with
    | some t => .trap s t
    | none =>
      if id = s.accid then
        stpOwn o a data l s
      else l.sendStore s id (.write a data (List.replicate n true))

def execStp (o : PeerOp) (s : State) : Host.Outcome State Fault Refusal :=
  let k := checksOf (.stp o) o.ctl (pairRegs (o.sz == .b16) o.d ++ [o.a.toNat, o.b.toNat])
  if o.ord == .rel then issueRelease (.stp o) k (stpBody o) s else issue k (stpBody o) s

end Sys2Proof.Machine
end

