-- ==== Sys2Proof/Machine/Atomic.lean ====
section
/-! DEFINITION. Atomics and reductions (R69, R203, R265 to R268). -/

namespace Sys2Proof.Machine

/-- The address of an atomic-class word. -/
def atomAddr (o : AtomOp) (l : Lane) (s : State) : Word :=
  let z : Int := o.sz.bytes
  addrSum (l.greg s o.a) (ext32 o.os (l.reg s o.b) * z + signedField 4 o.imm4.toNat * z)

/-- The word orders as an acquire; as a release. -/
def ordAcq : Sys2Proof.Ord → Bool
  | .acq | .ar => true
  | _ => false
def ordRel : Sys2Proof.Ord → Bool
  | .rel | .ar => true
  | _ => false

/-- The old value that a lane receives: none for a reduction. -/
def Lane.oldValue (l : Lane) (s : State) (fl : Fl) (d : Option (BitVec 8)) (sz : Sz) (v : Nat) (line : Option Nat) : State :=
  match d with
  | some d => l.defer s fl (loadRegs sz false d v) [] 0 line none sz
  | none => s

/-- An atomic at its place has read `m`: where it stores, the page's DD bit shows it, and a reduction may be lost with a die
(R16, R105). -/
def Lane.rmwStored (l : Lane) (s : State) (p : Place) (a : Word) (n : Nat) (red stored : Bool) : State :=
  if !stored then s
  else
    let s := s.markWritten (dieOf l.c) p.e
    if red then l.noteStore s p a n else s

/-- An atomic of a lane that is performed later (R90): its kind, its operand or the value compared, and the line it reads. -/
def Lane.rmwLater (l : Lane) (s : State) (x : LatePlace) (fl : Fl) (sz : Sz) (acq : Bool) (d : Option (BitVec 8)) (kind : LateKind)
    (data : Nat) (line : Option Nat) : State :=
  let a : LateAccess :=
    { kind := kind, stamp := 2 * s.freeCtr, ctx := l.ctx s, at_ := x, n := sz.bytes, data := data % 2 ^ (8 * sz.bytes),
      reg := (d.getD 0).toNat, sz := sz, sx := false, acq := acq }
  match d with
  | some _ => l.defer s fl [] [] 0 line none sz [a]
  | none => l.putLater s sz [a]

/-- An atomic that is no acquire may be performed later (R85, R90). -/
def Lane.putsOff (l : Lane) (s : State) (ord : Ord) : Bool := !ordAcq ord && s.coin l.p 4100

/-- An atomic that cannot be performed in its step: it must obtain its word first (R66, R69), or is an acquire of a value whose
back-invalidations are in progress (R92). -/
def Place.waitsRmw (p : Place) (s : State) (c n : Nat) (acq : Bool) : Bool := acq && s.podBusy p.dom p.pa || s.atomicWaits c p.dom p.pa n

/-- The host is asked to give up its copy of a line that an atomic needs (R69, R71). -/
def State.askHost (s : State) (dom : Domain) (line : Nat) : State :=
  if dom = .host ∧ line ∈ s.plat.hostLines then s.hostInvalidate line else s

/-- What an atomic does: the new value, whether it is stored, and the two as data. -/
structure Rmw where
  f      : Nat → Nat
  stores : Nat → Bool
  kind   : LateKind
  data   : Nat

/-- One lane of an atomic at a place of memory: the accesses of its fibre to its words come first (R87). -/
def rmwAt (fl : Fl) (sz : Sz) (ord : Ord) (d : Option (BitVec 8)) (x : Rmw) (a : Word) (p : Place) (l : Lane) (s : State) : LaneEnd :=
  let n := sz.bytes
  let s := (s.beforeLoad l.c l.p p a.toNat n (ordAcq ord)).askHost p.dom (p.pa / 128)
  if p.waitsRmw s l.c n (ordAcq ord) || l.putsOff s ord then
    .go (l.rmwLater s (p.late a) fl sz (ordAcq ord) d x.kind x.data (some (p.pa / 128)))
  else
    let s := s.lanesFirst l.c l.p s.freeCtr (wordsOf p.pa n)
    let s := l.noteLoad s p (s.settleParts l.c p.dom [(p.pa, n)])
    let r := s.atomicBytes l.c (l.ctx s) p.dom p.pa n x.f
    let t := l.rmwStored r.1 p a n d.isNone (x.stores r.2.1)
    .go (l.oldValue (l.noteTc t r.2.2) fl d sz r.2.1 (some (p.pa / 128)))

/-- One lane of an atomic in global memory. -/
def globalRmw (o : AtomOp) (d : Option (BitVec 8)) (x : Rmw) (l : Lane) (s : State) : LaneEnd :=
  let a := atomAddr o l s
  match s.resolve l.c (l.ctx s) a o.sz.bytes .atomic none false with
  | (s, .error x) => .stop s x .atomic
  | (s, .ok p) => rmwAt o.ctl.fl o.sz o.ord d x a p l s

/-- One lane of an atomic in scratchpad: the aperture raises PROTECTION (R25). -/
def scrRmw (o : AtomOp) (d : Option (BitVec 8)) (x : Rmw) (l : Lane) (s : State) : LaneEnd :=
  let a := atomAddr o l s
  let n := o.sz.bytes
  match l.scrTarget s a n with
  | .error t => .trap s (if t.code = .window then { code := .protection, info0 := a, info1 := 0 } else t)
  | .ok (.window _ _) => .trap s { code := .protection, info0 := a, info1 := 0 }
  | .ok t =>
    let s := s.settleScr l.c l.p t n
    let s := if ordAcq o.ord then s.noEarly l.c l.p else s
    if l.putsOff s o.ord then .go (l.rmwLater s (.scratch t) o.ctl.fl o.sz false d x.kind x.data none) else
    let s := s.lanesFirst l.c l.p s.freeCtr (t.wordsOf n)
    let m := s.scrRead l.c (l.fibre s).gslot t n
    .go (l.oldValue (s.scrWrite l.c (l.fibre s).gslot t n (x.f m)) o.ctl.fl d o.sz m none)

/-- The registers of an atomic-class word. -/
def atomRegs (o : AtomOp) (d pair : Bool) : List Nat :=
  (if d then [o.d.toNat] else []) ++ [o.b.toNat] ++ pairRegs pair o.c

/-- Checks of an atomic-class word: on a control core SPACE must be 0 (R265). -/
def atomChecks (i : Instr) (o : AtomOp) (regs : List Nat) : Checks := { checksOf i o.ctl regs with ctl := !o.scr }

/-- One lane of ATOM, ACAS or RED. A helper performs nothing, and receives zero. -/
def atomBody (i : Instr) (o : AtomOp) (d : Option (BitVec 8)) (regs : List Nat) (x : Lane → State → Rmw) (l : Lane) (s : State) : LaneEnd :=
  if l.helper s then .go (l.oldValue s o.ctl.fl d o.sz 0 none)
  else if o.scr then
    scrRmw o d (x l s) l (l.countBanks s (atomChecks i o regs) (atomAddr o) o.sz.bytes true true)
  else globalRmw o d (x l s) l s

/-- The new value of ATOM and RED: the operation of AOP on the operand w[C]. -/
def aopOf (o : AtomOp) (l : Lane) (s : State) (m : Nat) : Nat := aopVal o.sz.bytes o.aop m (l.reg s o.c).toNat
/-- The new value of ACAS: w[C] compared, w[C + 1] new. -/
def casOf (o : AtomOp) (l : Lane) (s : State) (m : Nat) : Nat :=
  casVal o.sz.bytes (l.reg s o.c).toNat (l.regN s (o.c.toNat + 1)).toNat m

/-- ATOM and RED always store; ACAS where its compare holds (R266). -/
def aopStores (_ : Lane) (_ : State) (_ : Nat) : Bool := true
def acasStores (o : AtomOp) (l : Lane) (s : State) (m : Nat) : Bool := casStores o.sz.bytes (l.reg s o.c).toNat m

/-- ATOM and RED, and ACAS, as they act in a lane; `old` where D takes the old value. -/
def aopRmw (o : AtomOp) (old : Bool) (l : Lane) (s : State) : Rmw :=
  { f := aopOf o l s, stores := aopStores l s, kind := .aop o.aop old, data := (l.reg s o.c).toNat }
def casRmw (o : AtomOp) (l : Lane) (s : State) : Rmw :=
  { f := casOf o l s, stores := acasStores o l s, kind := .cas (l.regN s (o.c.toNat + 1)).toNat, data := (l.reg s o.c).toNat }

/-- An atomic that is a release waits for its push first. -/
def issueOrdered (ord : Ord) (i : Instr) (k : Checks) (body : Lane → State → LaneEnd) (s : State) : Host.Outcome State Fault Refusal :=
  if ordRel ord then issueRelease i k body s else issue k body s

def atomKb (o : AtomOp) : Checks × (Lane → State → LaneEnd) :=
  let regs := atomRegs o true false
  (atomChecks (.atom o) o regs, atomBody (.atom o) o (some o.d) regs (aopRmw o true))
def acasKb (o : AtomOp) : Checks × (Lane → State → LaneEnd) :=
  let regs := atomRegs o true true
  (atomChecks (.acas o) o regs, atomBody (.acas o) o (some o.d) regs (casRmw o))
def redKb (o : AtomOp) : Checks × (Lane → State → LaneEnd) :=
  let regs := atomRegs o false false
  (atomChecks (.red o) o regs, atomBody (.red o) o none regs (aopRmw o false))

def execAtom (o : AtomOp) (s : State) : Host.Outcome State Fault Refusal :=
  issueOrdered o.ord (.atom o) (atomKb o).1 (atomKb o).2 s
def execAcas (o : AtomOp) (s : State) : Host.Outcome State Fault Refusal :=
  issueOrdered o.ord (.acas o) (acasKb o).1 (acasKb o).2 s
def execRed (o : AtomOp) (s : State) : Host.Outcome State Fault Refusal :=
  issueOrdered o.ord (.red o) (redKb o).1 (redKb o).2 s

/-! ## Peer forms (R268) -/

/-- One lane of ATOMP, ACASP or REDP that names its own package: the atomic is one of a POD word at its home (R27, R69). -/
def rmwOwn (o : PeerOp) (d : Option (BitVec 8)) (x : Rmw) (a : Word) (l : Lane) (s : State) : LaneEnd :=
  match s.peerPlace (l.ctx s) a o.sz.bytes .atomic with
  | (s, .error x) => .stop s x .atomic
  | (s, .ok p) => if p.e.kind = 2 then .stop s (trap0 .formatSize a) .atomic else rmwAt o.ctl.fl o.sz o.ord d x a p l s

/-- One lane of ATOMP, ACASP or REDP. -/
def peerRmwBody (o : PeerOp) (d : Option (BitVec 8)) (x : Lane → State → Rmw)
    (op : Lane → State → Word → FabricOp) (l : Lane) (s : State) : LaneEnd :=
  let a := peerAddr o l s
  let n := o.sz.bytes
  let peer := l.reg s o.b
  let id := fld peer 0 10
  if l.helper s then .go (l.oldValue s o.ctl.fl d o.sz 0 none)
  else match s.peerTrap (l.ctx s) (l.members s) peer a n with
    | some t => .trap s t
    | none =>
      if id = s.accid then rmwOwn o d (x l s) a l s
      else
        let s := if ordAcq o.ord then s.noEarly l.c l.p else s
        match d with
        | some d => l.sendLoad s o.ctl.fl d o.sz id (op l s a) (ordAcq o.ord)
        | none => l.sendStore s id (op l s a)

/-- The operation a peer atomic asks for. -/
def peerAtomic (o : PeerOp) (value : Bool) (l : Lane) (s : State) (a : Word) : FabricOp := .atomic a o.sz o.aop (l.reg s o.c) value
/-- The compare and swap a peer is asked for. -/
def peerCas (o : PeerOp) (l : Lane) (s : State) (a : Word) : FabricOp := .cas a o.sz (l.reg s o.c) (l.regN s (o.c.toNat + 1))

/-- The registers of a peer atomic. -/
def peerRegs (o : PeerOp) (d pair : Bool) : List Nat :=
  (if d then [o.d.toNat] else []) ++ [o.a.toNat, o.b.toNat] ++ pairRegs pair o.c

def peerAopOf (o : PeerOp) (l : Lane) (s : State) (m : Nat) : Nat := aopVal o.sz.bytes o.aop m (l.reg s o.c).toNat
def peerCasStores (o : PeerOp) (l : Lane) (s : State) (m : Nat) : Bool := casStores o.sz.bytes (l.reg s o.c).toNat m
def peerCasOf (o : PeerOp) (l : Lane) (s : State) (m : Nat) : Nat :=
  casVal o.sz.bytes (l.reg s o.c).toNat (l.regN s (o.c.toNat + 1)).toNat m

/-- ATOMP and REDP, and ACASP, as they act in a lane; `old` where D takes the old value. -/
def peerAopRmw (o : PeerOp) (old : Bool) (l : Lane) (s : State) : Rmw :=
  { f := peerAopOf o l s, stores := aopStores l s, kind := .aop o.aop old, data := (l.reg s o.c).toNat }
def peerCasRmw (o : PeerOp) (l : Lane) (s : State) : Rmw :=
  { f := peerCasOf o l s, stores := peerCasStores o l s, kind := .cas (l.regN s (o.c.toNat + 1)).toNat, data := (l.reg s o.c).toNat }

def atompKb (o : PeerOp) : Checks × (Lane → State → LaneEnd) :=
  (checksOf (.atomp o) o.ctl (peerRegs o true false), peerRmwBody o (some o.d) (peerAopRmw o true) (peerAtomic o true))
def acaspKb (o : PeerOp) : Checks × (Lane → State → LaneEnd) :=
  (checksOf (.acasp o) o.ctl (peerRegs o true true), peerRmwBody o (some o.d) (peerCasRmw o) (peerCas o))
def redpKb (o : PeerOp) : Checks × (Lane → State → LaneEnd) :=
  (checksOf (.redp o) o.ctl (peerRegs o false false), peerRmwBody o none (peerAopRmw o false) (peerAtomic o false))

def execAtomp (o : PeerOp) (s : State) : Host.Outcome State Fault Refusal :=
  issueOrdered o.ord (.atomp o) (atompKb o).1 (atompKb o).2 s
def execAcasp (o : PeerOp) (s : State) : Host.Outcome State Fault Refusal :=
  issueOrdered o.ord (.acasp o) (acaspKb o).1 (acaspKb o).2 s
def execRedp (o : PeerOp) (s : State) : Host.Outcome State Fault Refusal :=
  issueOrdered o.ord (.redp o) (redpKb o).1 (redpKb o).2 s

end Sys2Proof.Machine
end

