-- ==== Sys2Proof/Machine/Sync.lean ====
section
/-! DEFINITION. Fences, barriers, copy batches, phase objects, joins and pauses (R99 to R105, R145 to R147, R269 to R278). -/

namespace Sys2Proof.Machine

/-! ## Fences (R104, R269, R270) -/

/-- The status word of a fence. -/
def fenceStatus (f : Fibre) : Word :=
  if f.lossCount = 0 then 0
  else wd (1 + 2 * min 32767 f.lossCount + 2 ^ 16 * (f.lossId.getD 0 % 1024))

/-- A fence's kind: 1 ACQ, 2 REL, 3 AR. -/
def fenceKind (o : OwnOp) : Nat := bitsAt o.mod.toNat 8 2

/-- The engine queues of a class of the fence mask (R102, R103). -/
def classQueues : Nat → List Nat
  | 0 => [0, 1, 2, 3]
  | 2 => [5]
  | 3 => [4]
  | 4 => [6]
  | _ => []

/-- A command of a fibre in a class is not complete. -/
def State.classBusy (s : State) (c p cls : Nat) : Bool :=
  let g := s.groupOf c p
  if cls = 1 then g.stream.any (fun x => match x.st with
    | .parked _ => true
    | _ => false)
  else (classQueues cls).any (fun q => (g.queues.getD q []).any (fun (x : Command) => x.place == p &&
    (match x.body with
     | .join _ _ => false
     | _ => true)))

/-- A fabric operation is an atomic or a reduction. -/
def isAtomicOp : FabricOp → Bool
  | .atomic _ _ _ _ _ | .cas _ _ _ _ => true
  | .read _ _ | .write _ _ _ | .unsupported => false

/-- A fence of a lane can be performed: its loads and atomics are, for AR the settle mark has passed and every notice is
answered, and the commands of its classes are complete. -/
def State.fenceReady (s : State) (c p : Nat) (o : OwnOp) : Bool :=
  let f := s.fibre c p
  f.pending.all (fun x => x.await.isNone) && !s.unacked (.fibre c p) isAtomicOp
    && (fenceKind o != 3 || (decide (f.settle.toNat < s.gtb.toNat) || f.settle == 0) && f.notices.isEmpty)
    && (List.range 6).all (fun k => !o.mod.getLsbD k || !s.classBusy c p k)

/-- What a fence does once it is performed. -/
def fenceBody (o : OwnOp) (l : Lane) (s : State) : LaneEnd :=
  let s := l.put s o.ctl.t o.d (fenceStatus (l.fibre s))
  let s := if fenceKind o = 2 ∧ o.mod.toNat % 64 = 0 then s else s.noEarly l.c l.p
  .go (s.updFibre l.c l.p (fun f => { f with
    lossCount := 0, lossId := none,
    settle := if fenceKind o = 3 then 0 else f.settle, notices := if fenceKind o = 3 then [] else f.notices }))

def fenceChecks (o : OwnOp) : Checks := checksOf (.fence o) o.ctl [o.d.toNat]

/-- FENCE: the ferry waits in flight; REL and AR push as a release first. -/
def execFence (o : OwnOp) (s : State) : Host.Outcome State Fault Refusal :=
  if fenceKind o = 1 then
    match s.cur with
    | .ferry c n =>
      match AMap.find (s.core c).ferries n with
      | none => .fault .noIssuer
      | some fy =>
        if (s.ferryTrap c n (fenceChecks o)).isSome || (s.activeLanes fy c n (fenceChecks o)).isEmpty then
          issue (fenceChecks o) (fenceBody o) s
        else
          let t := (s.activeLanes fy c n (fenceChecks o)).foldl (fun (s : State) p => s.settleLoads c p) s
          .next (t.updFerry c n (fun x => { x with hold := .release 0 (.fence o) }))
    | _ => .fault .noIssuer
  else issueRelease (.fence o) (fenceChecks o) (fenceBody o) s

/-! ## Barriers (R145, R271, R272) -/

/-- A fibre waits at an entry of the next block. -/
def Lane.waitNext (l : Lane) (s : State) (kind : WaitKind) (n : Nat) : State :=
  ((s.noEarly l.c l.p).updFibre l.c l.p (fun f => { f with waitk := kind, barn := n })).leaveTo l.c l.p (l.pc + 8)

/-- A fibre arrives at a barrier, or on a phase, as a release among those that share its core: its earlier accesses are performed
first, those at peers among them (R91, R99, R100). -/
def Lane.arrive (l : Lane) (s : State) (done : State → LaneEnd) : LaneEnd :=
  if s.owesAck l.c l.p then .stall else done (s.settleFibre l.c l.p)

def barBody (o : OwnOp) (l : Lane) (s : State) : LaneEnd :=
  let n := o.mod.toNat % 16
  l.arrive s (fun s => .gone ((l.waitNext s .groupBarrier n).arriveGroup l.c l.p n))

def execBar (o : OwnOp) (s : State) : Host.Outcome State Fault Refusal :=
  issue { termChecks (.bar o) o.ctl [] with ctl := false } (barBody o) s

def baraBody (o : OwnOp) (l : Lane) (s : State) : LaneEnd :=
  l.arrive s (fun s => .go (s.arriveGroup l.c l.p (o.mod.toNat % 16)))

def execBara (o : OwnOp) (s : State) : Host.Outcome State Fault Refusal :=
  issue (mainChecks (.bara o) o.ctl []) (baraBody o) s

def barcBody (l : Lane) (s : State) : LaneEnd :=
  l.arrive s (fun s => .gone ((l.waitNext s .clusterBarrier 0).arriveCluster l.c l.p))

def execBarc (o : OwnOp) (s : State) : Host.Outcome State Fault Refusal :=
  issue { termChecks (.barc o) o.ctl [] with ctl := false } barcBody s

/-! ## Copy batches (R273) -/

/-- A batch of commands of a group is not complete. -/
def State.batchOpen (s : State) (c g : Nat) (ids : List Nat) : Bool := ids.any (fun i => (s.commandOf c g i).isSome)

/-- The closed batches of a fibre that are outstanding, its open batch closed among them. -/
def State.closed (s : State) (c p : Nat) : List (List Nat) :=
  let f := s.fibre c p
  (f.closedBatches ++ (if f.openBatch.isEmpty then [] else [f.openBatch])).filter (fun b => s.batchOpen c f.gslot b)

/-- The open batch closes: at most `n` batches may then be outstanding. -/
def closeBody (n : Nat) (l : Lane) (s : State) : LaneEnd :=
  let bs := s.closed l.c l.p
  if n < bs.length then .stall
  else .go ((s.noEarly l.c l.p).updFibre l.c l.p (fun f => { f with openBatch := [], closedBatches := bs }))

def execCclose (o : OwnOp) (s : State) : Host.Outcome State Fault Refusal :=
  issue (mainChecks (.cclose o) o.ctl []) (closeBody 32) s

def execCwait (o : OwnOp) (s : State) : Host.Outcome State Fault Refusal :=
  issue (mainChecks (.cwait o) o.ctl []) (closeBody (o.mod.toNat % 32)) s

/-! ## Phase objects (R274 to R276) -/

/-- The group declares the scratch of phase object `n`. -/
def State.hasPhase (s : State) (c g n : Nat) : Bool := decide (8 * n + 8 ≤ (s.group c g).scratchSize)

/-- Phase object `n`. -/
def State.phaseWord (s : State) (c g n : Nat) : Word := wd (Memory.read (s.group c g).scratch (8 * n) 8)

/-- An arrival on a phase object, and whether it completes the phase (R275). -/
def arrivePhase (w : Word) : Word × Bool :=
  if 1 < fld w 16 16 then (setFld w 16 16 (fld w 16 16 - 1), false)
  else (setFld (setFld w 32 1 (1 - fld w 32 1)) 16 16 (fld w 0 16), true)

/-- An arrival at object `n` of a group: a phase that completes wakes fibres and the stream. -/
def State.arriveAt (s : State) (c g n : Nat) : State :=
  let r := arrivePhase (s.phaseWord c g n)
  let s := s.updGroup c g (fun x => { x with scratch := Memory.write x.scratch (8 * n) 8 r.1.toNat })
  if r.2 then
    let s := s.updGroup c g (fun x => { x with stream := x.stream.map (fun y =>
      if y.st = .waitPhase n then { y with st := .running, pc := y.pc + 8, held := none } else y) })
    s.releaseWaiters c (s.liveOf c g) .phase n
  else s

/-- The trap of a phase object that is not declared (R274). -/
def phaseTrap (n : Nat) : Trap := { code := .protection, info0 := wd (8 * n), info1 := 0 }

def mbarrBody (o : OwnOp) (l : Lane) (s : State) : LaneEnd :=
  let n := o.mod.toNat % 16
  let g := (l.fibre s).gslot
  if s.hasPhase l.c g n then l.arrive s (fun s => .go (s.arriveAt l.c g n)) else .trap s (phaseTrap n)

def execMbarr (o : OwnOp) (s : State) : Host.Outcome State Fault Refusal :=
  issue (mainChecks (.mbarr o) o.ctl []) (mbarrBody o) s

def mbwaitBody (o : OwnOp) (l : Lane) (s : State) : LaneEnd :=
  let n := o.mod.toNat % 16
  let g := (l.fibre s).gslot
  if !s.hasPhase l.c g n then .trap s (phaseTrap n)
  else
    -- the fibre's own accesses to the object's word come first (R87)
    let s := (s.settleScr l.c l.p (.group (8 * n)) 8).noEarly l.c l.p
    if fld (s.phaseWord l.c g n) 32 1 != fld (l.reg s o.a) 0 1 then .jump s (l.pc + 8)
    else .gone (l.waitNext s .phase n)

def execMbwait (o : OwnOp) (s : State) : Host.Outcome State Fault Refusal :=
  issue { termChecks (.mbwait o) o.ctl [o.a.toNat] with ctl := false } (mbwaitBody o) s

/-! ## Joins and pauses (R277, R278) -/

/-- A join entry enters every queue of a mask, as one command. -/
def State.enqueueJoin (s : State) (c g p : Nat) (mask : BitVec 7) (tc : Word) : State :=
  let id := (s.group c g).nextCmd
  let s := (List.range 7).foldl (fun (s : State) q =>
    if mask.getLsbD q then
      s.updGroup c g (fun x => { x with queues := x.queues.modify q (fun l => l ++
        [Command.fresh id p (.join id mask) tc (s.fibre c p).biLines]) })
    else s) s
  s.updGroup c g (fun x => { x with nextCmd := id + 1 })

def qjoinBody (o : OwnOp) (l : Lane) (s : State) : LaneEnd :=
  if l.helper s then .go s
  else
    let r := s.pushFor l.c [l.p]
    .go (r.1.enqueueJoin l.c (l.fibre s).gslot l.p (o.mod.setWidth 7) r.2)

def execQjoin (o : OwnOp) (s : State) : Host.Outcome State Fault Refusal :=
  issue (mainChecks (.qjoin o) o.ctl []) (qjoinBody o) s

/-- The ferry issues nothing more until the GTB has come so far. -/
def nanoBody (o : OwnOp) (l : Lane) (s : State) : LaneEnd :=
  .go (s.updFerry l.c l.n (fun x => { x with hold := .nano (s.gtb + wd o.mod.toNat) }))

def execNano (o : OwnOp) (s : State) : Host.Outcome State Fault Refusal :=
  issue (checksOf (.nano o) o.ctl []) (nanoBody o) s

end Sys2Proof.Machine
end

