-- ==== Sys2Proof/Machine/Branch.lean ====
section
/-! DEFINITION. Control transfers, TRAP and BKPT (R129, R132, R279 to R281). -/

namespace Sys2Proof.Machine

/-- A transfer to a target (R280). -/
def transfer (s s' : State) (t : Word) (computed : Bool) : LaneEnd :=
  if fld t 48 16 ≠ 0 then .trap s { code := .protection, info0 := t, info1 := 0 }
  else if computed && fld t 0 3 != 0 then .trap s { code := .illegalTarget, info0 := t, info1 := 0 }
  else .jump s' (t.setWidth 48)

/-- The PC of a lane's word as an address. -/
def Lane.pcWord (l : Lane) : Word := l.pc.setWidth 64

/-- The target of BR and CALL. -/
def brTarget (l : Lane) (imm : BitVec 31) : Word := addrSum l.pcWord (8 * signedField 31 imm.toNat)

/-- The link: the first word of the next block. It always reaches the banks. -/
def Lane.link (l : Lane) (s : State) (d : BitVec 8) : State := l.putN s d.toNat (l.pcWord + 8)

def brBody (o : ImmOp) (l : Lane) (s : State) : LaneEnd := transfer s s (brTarget l o.imm) false

def execBr (o : ImmOp) (s : State) : Host.Outcome State Fault Refusal := issue (termChecks (.br o) o.ctl []) (brBody o) s

/-- The target of BRX: none where the index is past the table. -/
def brxTarget (l : Lane) (imm : BitVec 31) (i : Nat) : Option Word :=
  let n := bitsAt imm.toNat 16 11 + 1
  let k := bitsAt imm.toNat 27 4 + 4
  if i < n then some (addrSum l.pcWord (8 * signedField 16 (bitsAt imm.toNat 0 16) + (i * 2 ^ k : Nat))) else none

def brxBody (o : ImmOp) (l : Lane) (s : State) : LaneEnd :=
  match brxTarget l o.imm (lo32 (l.reg s o.a)) with
  | some t => transfer s s t true
  | none => .jump s (l.pc + 8)

def execBrx (o : ImmOp) (s : State) : Host.Outcome State Fault Refusal :=
  issue (termChecks (.brx o) o.ctl [o.a.toNat]) (brxBody o) s

/-- JMPR and RET. -/
def jumpBody (o : OwnOp) (l : Lane) (s : State) : LaneEnd := transfer s s (l.reg s o.a) true

def execJmpr (o : OwnOp) (s : State) : Host.Outcome State Fault Refusal :=
  issue (termChecks (.jmpr o) o.ctl [o.a.toNat]) (jumpBody o) s

def execRet (o : OwnOp) (s : State) : Host.Outcome State Fault Refusal :=
  issue (termChecks (.ret o) o.ctl [o.a.toNat]) (jumpBody o) s

def callBody (o : ImmOp) (l : Lane) (s : State) : LaneEnd := transfer s (l.link s o.d) (brTarget l o.imm) false

def execCall (o : ImmOp) (s : State) : Host.Outcome State Fault Refusal :=
  issue (termChecks (.call o) o.ctl [o.d.toNat]) (callBody o) s

def callrBody (o : OwnOp) (l : Lane) (s : State) : LaneEnd := transfer s (l.link s o.d) (l.reg s o.a) true

def execCallr (o : OwnOp) (s : State) : Host.Outcome State Fault Refusal :=
  issue (termChecks (.callr o) o.ctl (regsDA o.d o.a)) (callrBody o) s

def exitBody (l : Lane) (s : State) : LaneEnd := .gone (s.endFibre l.c l.p)

def execExit (o : OwnOp) (s : State) : Host.Outcome State Fault Refusal := issue (termChecks (.exit o) o.ctl []) exitBody s

def yieldBody (l : Lane) (s : State) : LaneEnd := .jump s (l.pc + 8)

def execYield (o : OwnOp) (s : State) : Host.Outcome State Fault Refusal := issue (termChecks (.yield o) o.ctl []) yieldBody s

/-- SWTRAP with a value and a code, its PC after the word (R281). -/
def Lane.swTrap (l : Lane) (s : State) (v : Word) (code : Nat) : State :=
  s.takeTrap l.c l.p (l.pc + 8) { code := .swtrap, info0 := v, info1 := wd code }

def trapBody (o : OwnOp) (l : Lane) (s : State) : LaneEnd :=
  if l.helper s then .go s else .gone (l.swTrap s (l.reg s o.a) (o.mod.toNat % 2 ^ 12))

def execTrap (o : OwnOp) (s : State) : Host.Outcome State Fault Refusal :=
  issue (checksOf (.trap o) o.ctl [o.a.toNat]) (trapBody o) s

def bkptBody (l : Lane) (s : State) : LaneEnd :=
  if l.helper s then .go s else .trap s { code := .bkpt, info0 := 0, info1 := 0 }

def execBkpt (o : OwnOp) (s : State) : Host.Outcome State Fault Refusal :=
  issue (checksOf (.bkpt o) o.ctl []) bkptBody s

end Sys2Proof.Machine
end

