-- ==== Sys2Proof/Machine/Slots.lean ====
section
/-! DEFINITION. Operand slots of the matrix array: the rows that fills read, and the slot contents they make (R19, R187, R191,
R286, R293, R302). -/

namespace Sys2Proof.Machine

/-! ## Reads by an engine -/

/-- A read of `n` bytes at an address of a space. -/
abbrev EngineRead := State → Word → Nat → State × Except AccessStop Nat

/-- Scratchpad, from the banks; the aperture is not reached (R26, R293, R300). -/
def scrReader (c g : Nat) : EngineRead := fun s a n =>
  if a.toNat % n ≠ 0 then (s, .error (trap0 .misaligned a))
  else match s.segment c g a with
    | some t => (s, .ok (s.scrRead c g t n))
    | none => (s, .error (trap0 .protection a))

/-- A place of global memory that an engine may access: no device control register. -/
def State.enginePlace (s : State) (v : Via) (ctx : BitVec 12) (a : Word) (n : Nat) (k : AccessKind) (fmt : Bool) :
    State × Except AccessStop Place :=
  match s.resolveVia v ctx a n k none fmt with
  | (s, .error x) => (s, .error x)
  | (s, .ok p) => if p.control then (s, .error (trap0 .protection a)) else (s, .ok p)

/-- Plain and versioned global memory, at its point of coherence; a formatted page raises PROTECTION (R293). -/
def plainReader (v : Via) (ctx : BitVec 12) : EngineRead := fun s a n =>
  match s.enginePlace v ctx a n .read false with
  | (s, .error (.trap t)) => (s, .error (.trap (if t.code = .formatSize then { t with code := .protection } else t)))
  | (s, .error x) => (s, .error x)
  | (s, .ok p) =>
    let r := s.viaRead v ctx p n
    (r.1, .ok r.2)

/-- The values at a list of addresses. -/
def readAll (rd : EngineRead) (n : Nat) : List Word → State → State × Except AccessStop (List Nat)
  | [], s => (s, .ok [])
  | a :: as, s =>
    match rd s a n with
    | (s, .error x) => (s, .error x)
    | (s, .ok v) =>
      match readAll rd n as s with
      | (s, .error x) => (s, .error x)
      | (s, .ok vs) => (s, .ok (v :: vs))

/-- `k` addresses a distance apart. -/
def addrsFrom (a : Word) (d k : Nat) : List Word := (List.range k).map (fun i => a + wd (d * i))

/-! ## Rows -/

/-- A row of a tile as a slot holds it: the bits of each element, and the scale bytes of a B4 row. -/
structure TileRow where
  codes  : List Nat
  scales : List Nat
  deriving DecidableEq, Repr

/-- The two codes of a byte. -/
def nibbles (b : Nat) : List Nat := [b % 16, b / 16 % 16]

/-- A packed row. -/
def packedRow (rd : EngineRead) (ty : Ty) (a : Word) (s : State) : State × Except AccessStop TileRow :=
  if ty = .b4 then
    match readAll rd 1 (addrsFrom a 1 272) s with
    | (s, .error x) => (s, .error x)
    | (s, .ok bs) => (s, .ok { codes := (bs.take 256).flatMap nibbles, scales := bs.drop 256 })
  else
    match readAll rd (elemSize ty) (addrsFrom a (elemSize ty) (tileK ty)) s with
    | (s, .error x) => (s, .error x)
    | (s, .ok vs) => (s, .ok { codes := vs, scales := [] })

/-- An element of a formatted page: its entry, its packed bits and its FP32 pattern. -/
structure FmtElem where
  efmt  : Nat
  geom  : Nat
  bits  : Nat
  scale : Nat
  f32   : Nat
  deriving DecidableEq, Repr

/-- A read of an element of a formatted page; a page of another kind raises PROTECTION (R293). -/
def State.fmtElem (s : State) (v : Via) (ctx : BitVec 12) (a : Word) : State × Except AccessStop FmtElem :=
  match s.enginePlace v ctx a 4 .read true with
  | (s, .error x) => (s, .error x)
  | (s, .ok p) =>
    if p.e.kind ≠ 2 then (s, .error (trap0 .protection a))
    else
      let rd (s : State) (pa n : Nat) : State × Nat := s.viaRead v ctx { p with pa := pa } n
      let e := a.toNat % 65536 / 4
      let b := elemBits p.e.efmt e
      let x := rd s (p.e.addr + b.1 / 8) ((b.2 + 7) / 8)
      let y := if p.e.efmt = 7 then rd x.1 (p.e.addr + scaleByte p.e.geom e) 1 else (x.1, 0)
      let f := fmtLoad rd y.1 p.e a.toNat
      (f.1, .ok { efmt := p.e.efmt, geom := p.e.geom, bits := bitsAt x.2 (b.1 % 8) b.2, scale := y.2, f32 := f.2 })

/-- The elements at a list of addresses. -/
def fmtElems (v : Via) (ctx : BitVec 12) : List Word → State → State × Except AccessStop (List FmtElem)
  | [], s => (s, .ok [])
  | a :: as, s =>
    match s.fmtElem v ctx a with
    | (s, .error x) => (s, .error x)
    | (s, .ok e) =>
      match fmtElems v ctx as s with
      | (s, .error x) => (s, .error x)
      | (s, .ok es) => (s, .ok (e :: es))

/-- An FP32 pattern encoded into a slot format other than B4: RNE with saturation (R183, R184). -/
def encodeElem (ty : Ty) (x : Nat) : Nat :=
  match ty with
  | .f64 => (cvtFF .f32 .f64 .rne true x).1
  | t => (f32ToNarrow t x).1

/-- A block of 32 elements for a B4 slot: copied unchanged, or encoded whole. -/
def b4Elems (aligned : Bool) (b4ty : Nat) (es : List FmtElem) : List Nat × Nat :=
  if aligned && es.all (fun e => e.efmt == 7 && e.geom == 0) then (es.map (fun e => e.bits), (es.map (fun e => e.scale)).headD 0)
  else
    let r := b4Block b4ty false (es.map (fun e => decodeF .f32 e.f32))
    (r.2.1, r.1)

/-- A row of formatted pages. -/
def fmtRow (v : Via) (ctx : BitVec 12) (ty : Ty) (b4ty : Nat) (a : Word) (s : State) : State × Except AccessStop TileRow :=
  if a.toNat % 4 ≠ 0 then (s, .error (trap0 .misaligned a))
  else match fmtElems v ctx (addrsFrom a 4 (tileK ty)) s with
    | (s, .error x) => (s, .error x)
    | (s, .ok es) =>
      if ty = .b4 then
        let bs := (List.range 16).map (fun j => b4Elems (a.toNat / 4 % 32 == 0) b4ty ((es.drop (32 * j)).take 32))
        (s, .ok { codes := bs.flatMap (fun b => b.1), scales := bs.map (fun b => b.2) })
      else (s, .ok { codes := es.map (fun e => if efmtTy e.efmt = ty then e.bits else encodeElem ty e.f32), scales := [] })

/-- A row of global memory: the kind of the page that holds its first element decides how it is read (R293). -/
def globalRow (v : Via) (ctx : BitVec 12) (ty : Ty) (b4ty : Nat) (a : Word) (s : State) : State × Except AccessStop TileRow :=
  if fld a 57 7 ≠ 0 then (s, .error (trap0 .protection a))
  else match s.translateVia v ctx a.toNat false with
    | (s, .error x) => (s, .error (s.xstop a x))
    | (s, .ok e) => if e.kind = 2 then fmtRow v ctx ty b4ty a s else packedRow (plainReader v ctx) ty a s

/-- The 16 rows of a tile. -/
def tileRows (row : Word → State → State × Except AccessStop TileRow) : List Word → State → State × Except AccessStop (List TileRow)
  | [], s => (s, .ok [])
  | a :: as, s =>
    match row a s with
    | (s, .error x) => (s, .error x)
    | (s, .ok r) =>
      match tileRows row as s with
      | (s, .error x) => (s, .error x)
      | (s, .ok rs) => (s, .ok (r :: rs))

/-- The rows of a fill of format `ty` from `a` with a row stride. -/
def State.readTile (s : State) (c g : Nat) (ty : Ty) (b4ty : Nat) (scr : Bool) (a stride : Word) :
    State × Except AccessStop (List TileRow) :=
  let as := (List.range 16).map (fun r => a + stride * wd r)
  let ctx := (s.group c g).ctx
  if scr then tileRows (packedRow (scrReader c g) ty) as s else tileRows (globalRow (Via.of c) ctx ty b4ty) as s

/-! ## Slots (R286) -/

/-- The physical slot to which a group's logical slot is bound. -/
def State.slotOf (s : State) (c g logical : Nat) : Option (Nat × OperandSlot) :=
  (s.core c).slots.find? (fun (x : Nat × OperandSlot) => x.2.group == g && x.2.logical == logical)

/-- A slot's bytes with a row written. -/
def putRow (ty : Ty) (r : Nat) (row : TileRow) (m : Memory) : Memory :=
  if ty = .b4 then
    let m := (List.range 256).foldl (fun m i =>
      Memory.write m (256 * r + i) 1 (row.codes.getD (2 * i) 0 + 16 * row.codes.getD (2 * i + 1) 0)) m
    (List.range 16).foldl (fun m j => Memory.write m (4096 + 16 * r + j) 1 (row.scales.getD j 0)) m
  else
    let k := tileK ty
    let z := elemSize ty
    (List.range k).foldl (fun m i => Memory.write m ((r * k + i) * z) z (row.codes.getD i 0)) m

/-- A slot filled with rows and tagged. -/
def State.fillSlot (s : State) (c phys : Nat) (x : OperandSlot) (isB : Bool) (ty : Ty) (rows : List TileRow) : State :=
  let m := (rows.foldl (fun (r : Memory × Nat) row => (putRow ty r.2 row r.1, r.2 + 1)) (x.bytes, 0)).1
  s.updCore c (fun k => { k with slots := AMap.put k.slots phys { x with tag := some { isB := isB, ty := ty }, bytes := m } })

/-- SLOT_FAULT with a slot or unit number (R346). -/
def slotTrap (n : Word) : Trap := { code := .slotFault, info0 := n, info1 := 0 }

/-- A command fills an operand slot of its group: paths GM and SM name it in d1 (R298, R299). -/
def CommandBody.fills (b : CommandBody) (slot : Nat) : Bool :=
  match b with
  | .copy _ path desc _ => decide (4 ≤ path) && fld (desc.getD 1 0) 0 6 == slot
  | _ => false

/-! ## Fills by the copy engine, one element at a time (R297, R300, R302) -/

/-- TY of a slot fill. -/
def fillTy (d : List Word) : Option Ty := (Ty.ofCode (fld (d.getD 2 0) 0 4)).filter Ty.slotTy

/-- A row or plane stride of a descriptor. -/
def strideOf (d : List Word) (w lo : Nat) : Int := signedField 32 (fld (d.getD w 0) lo 32)

/-- Elements that a row of a fill may have to read: a packed B4 row has 272 bytes, a formatted one 512 elements. -/
def rowUnits (ty : Ty) : Nat := if ty = .b4 then 512 else tileK ty

/-- What a fill keeps of an element of a formatted page: its code in the slot's format; for a B4 slot, an odd number that holds its
FP32 pattern, and its code and scale where they are copied unchanged. -/
def FmtElem.kept (ty : Ty) (aligned : Bool) (x : FmtElem) : Nat :=
  if ty = .b4 then
    1 + 2 * (x.f32 + 2 ^ 32 * (if aligned && x.efmt == 7 && x.geom == 0 then 1 + 2 * (x.bits + 16 * x.scale) else 0))
  else 2 * (if efmtTy x.efmt = ty then x.bits else encodeElem ty x.f32)

/-- The element of a formatted page that a fill of a B4 slot has kept. -/
def keptElem (v : Nat) : FmtElem :=
  { efmt := if bitsAt v 33 1 = 1 then 7 else 0, geom := 0, bits := bitsAt v 34 4, scale := bitsAt v 38 8, f32 := bitsAt v 1 32 }

/-- Element `j` of the row at `a`, read for a slot fill. -/
def State.fillUnit (s : State) (c g : Nat) (ty : Ty) (scr : Bool) (a : Word) (j : Nat) : State × Except AccessStop Nat :=
  let ctx := (s.group c g).ctx
  let packed (rd : EngineRead) (s : State) : State × Except AccessStop Nat :=
    if ty = .b4 ∧ 272 ≤ j then (s, .ok 0)
    else match rd s (a + wd (elemSize ty * j)) (elemSize ty) with
      | (s, .ok v) => (s, .ok (2 * v))
      | (s, .error x) => (s, .error x)
  if scr then packed (scrReader c g) s
  else if fld a 57 7 ≠ 0 then (s, .error (trap0 .protection a))
  else match s.translateVia (Via.of c) ctx a.toNat false with
    | (s, .error x) => (s, .error (s.xstop a x))
    | (s, .ok e) =>
      if e.kind ≠ 2 then packed (plainReader (Via.of c) ctx) s
      else if a.toNat % 4 ≠ 0 then (s, .error (trap0 .misaligned a))
      else match s.fmtElem (Via.of c) ctx (a + wd (4 * j)) with
        | (s, .ok x) => (s, .ok (x.kept ty (a.toNat / 4 % 32 == 0)))
        | (s, .error x) => (s, .error x)

/-- Row `r` as the elements that a fill has read make it. -/
def filledRow (ty : Ty) (b4ty : Nat) (vals : AMap Nat) (r : Nat) : TileRow :=
  let vs := (List.range (rowUnits ty)).map (fun j => AMap.getD vals (r * rowUnits ty + j) 0)
  if ty ≠ .b4 then { codes := vs.map (· / 2), scales := [] }
  else if vs.any (fun v => v % 2 == 1) then
    let bs := (List.range 16).map (fun j => b4Elems true b4ty (((vs.drop (32 * j)).take 32).map keptElem))
    { codes := bs.flatMap (fun b => b.1), scales := bs.map (fun b => b.2) }
  else { codes := (vs.take 256).flatMap (fun v => nibbles (v / 2)), scales := ((vs.drop 256).take 16).map (· / 2) }

/-- The slot's bytes with the rows of a fill. -/
def filledSlot (ty : Ty) (b4ty : Nat) (vals : AMap Nat) (m : Memory) : Memory :=
  (List.range 16).foldl (fun m r => putRow ty r (filledRow ty b4ty vals r) m) m

/-- What a fill that is not complete makes known: its tag, its type of B4 blocks and the elements that it has read. -/
structure FillView where
  isB  : Bool
  ty   : Ty
  b4ty : Nat
  vals : AMap Nat

/-- The fills of a slot that have begun. -/
def State.fillsOf (s : State) (c g slot : Nat) : List FillView :=
  (s.group c g).queues.flatMap (fun q => q.filterMap (fun (x : Command) =>
    match x.body with
    | .copy _ _ desc _ =>
      if x.body.fills slot && !x.vals.isEmpty then
        some { isB := flag (desc.getD 1 0) 6, ty := (fillTy desc).getD .f32, b4ty := fld (desc.getD 2 0) 4 2, vals := x.vals }
      else none
    | _ => none))

/-- A fill of a B4 slot knows the code and the scale of element k of row r: those of a packed row by themselves, an unchanged element
at once, and a block that is encoded whole when all its elements are read. -/
def FillView.knowsB4 (f : FillView) (r k : Nat) : Bool :=
  let v (j : Nat) : Option Nat := AMap.find f.vals (r * 512 + j)
  let odd (x : Option Nat) : Bool := x.any (fun n => n % 2 == 1)
  if odd (v k) then
    (v k).any (fun n => bitsAt n 33 1 == 1) || (List.range 32).all (fun j => odd (v (k / 32 * 32 + j)))
  else (List.range 512).all (fun j => !odd (v j)) && (v (k / 2)).isSome && (v (256 + k / 32)).isSome

/-- A fill knows a byte of the slot. -/
def FillView.knowsByte (f : FillView) (i : Nat) : Bool :=
  if f.ty ≠ .b4 then (AMap.find f.vals (i / elemSize f.ty)).isSome
  else if i < 4096 then f.knowsB4 (i / 256) (i % 256 * 2) && f.knowsB4 (i / 256) (i % 256 * 2 + 1)
  else f.knowsB4 ((i - 4096) / 16) ((i - 4096) % 16 * 32)

/-- A fill knows element `e` of a slot that is read in a format. -/
def FillView.knows (f : FillView) (ty : Ty) (e : Nat) : Bool :=
  if ty ≠ .b4 then (List.range (elemSize ty)).all (fun i => f.knowsByte (e * elemSize ty + i))
  else if f.ty = .b4 then f.knowsB4 (e / 512) (e % 512)
  else f.knowsByte (e / 2) && f.knowsByte (4096 + e / 32)

/-- An operand as an MMA reads it while fills go on: each element is the slot's old one, or one that a fill knows (R297). -/
def mixedSlot (pick : Nat → Nat) (ty : Ty) (fs : List FillView) (old : Memory) : Memory :=
  let news := fs.map (fun f => (f, filledSlot f.ty f.b4ty f.vals old))
  if fs.isEmpty then old
  else (List.range (16 * tileK ty)).foldl (fun m e =>
    let ms := news.filter (fun x => x.1.knows ty e)
    match ms[pick e % (ms.length + 1)]? with
    | none => m
    | some x =>
      if ty = .b4 then Memory.write m (8192 + 2 * e) 2 (1 + (b4ElemAt x.2 e).1 + 16 * (b4ElemAt x.2 e).2)
      else Memory.write m (e * elemSize ty) (elemSize ty) (Memory.read x.2 (e * elemSize ty) (elemSize ty))) old

/-- A fill of a slot is accepted and not complete. -/
def State.fillPending (s : State) (c g slot : Nat) : Bool :=
  (s.group c g).queues.any (fun q => q.any (fun (x : Command) => x.body.fills slot))

end Sys2Proof.Machine
end

