-- ==== Sys2Proof/Machine/Matrix.lean ====
section
/-! DEFINITION. The matrix sequencer: streams, claims, fills, accumulators, chains and phase signals (R191 to R194,
R282 to R297). -/

namespace Sys2Proof.Machine

/-! ## Stream steps -/

/-- How a stream instruction ends. -/
inductive StreamEnd where
  /-- Done: the stream goes on at the next word, with these registers and flags. -/
  | next (s : State)
  /-- It goes on elsewhere. -/
  | goto (s : State) (pc : Word)
  /-- It waits at this word. -/
  | wait (s : State) (st : StreamState)
  /-- A sequencer trap. -/
  | trap (s : State) (t : Trap)
  /-- An access stops. -/
  | stop (s : State) (x : AccessStop)

/-- The stream of a group, changed. -/
def State.updStream (s : State) (c g : Nat) (f : Stream → Stream) : State :=
  s.updGroup c g (fun x => { x with stream := x.stream.map f })

/-- A stop of a stream's access (R285): a sequencer trap, or a park under a token; or it tries again (R44). -/
def State.stopStream (s : State) (c g : Nat) (x : AccessStop) (pc : BitVec 48) (k : AccessKind) : State :=
  match x with
  | .trap t => s.sequencerTrap c g t
  | .park kind key va =>
    match s.joinWait (dieOf c) kind (s.group c g).ctx key va (.stream c g) true k pc.toNat with
    | some (s, i) => s.updStream c g (fun y => { y with st := .parked i })
    | none => s
  | .wait => s

/-- The stream of `cur` executes one instruction. -/
def issueStream (body : Nat → Nat → Stream → State → StreamEnd) (s : State) : Host.Outcome State Fault Refusal :=
  match s.cur with
  | .stream c g =>
    match (s.group c g).stream with
    | none => .fault .noIssuer
    | some x =>
      if x.st = .running ∨ x.st = .waitClaim then
        match body c g x s with
        | .next s => .next (s.updStream c g (fun y => { y with pc := x.pc + 8, held := none, st := if y.st = .ended then .ended else .running }))
        | .goto s pc =>
          if fld pc 48 16 ≠ 0 then .next (s.sequencerTrap c g { code := .protection, info0 := pc, info1 := 0 })
          else .next (s.updStream c g (fun y => { y with pc := pc.setWidth 48, held := none }))
        | .wait s st => .next (s.updStream c g (fun y => { y with st := st }))
        | .trap s t => .next (s.sequencerTrap c g t)
        | .stop s y => .next (s.stopStream c g y x.pc .read)
      else .next s
  | _ => .fault .noIssuer

/-- Register m[k]. -/
def Stream.reg (x : Stream) (k : BitVec 8) : Word := x.m.getD k.toNat 0
/-- A write of m[k]. -/
def State.putM (s : State) (c g : Nat) (k : BitVec 8) (v : Word) : State :=
  s.updStream c g (fun y => { y with m := y.m.set k.toNat v })

/-- An operand that may be indirect (R290). -/
def Stream.operand (x : Stream) (ind : Bool) (k : BitVec 8) : Except Trap Nat :=
  if ind then (if 63 < (x.reg k).toNat then .error (slotTrap (x.reg k)) else .ok (x.reg k).toNat) else .ok k.toNat

/-- TY at a bit of MOD. -/
def OwnOp.tyOf (o : OwnOp) (k : Nat) : Ty := (Ty.ofCode (o.mod.toNat / 2 ^ k % 16)).getD .f32

/-- The number that a chain's SLOT_FAULT gives: no slot or unit is concerned, and the value is open. Log entry 7. -/
def chainTrap (s : State) : Trap := slotTrap (wd (Config.freeNat s.freeCtr 77))

/-! ## Registers and control (R291) -/

def mmoviVal (imm : BitVec 31) (old : Word) : Word :=
  let v := imm.toNat % 2 ^ 16
  let k := bitsAt imm.toNat 16 2
  if imm.getLsbD 18 then wd (v * 2 ^ (16 * k)) else setFld old (16 * k) 16 v

def execMmovi (o : ImmOp) (s : State) : Host.Outcome State Fault Refusal :=
  issueStream (fun c g x s => .next (s.putM c g o.d (mmoviVal o.imm (x.reg o.d)))) s

def maddVal (o : OwnOp) (x : Stream) : Word :=
  x.reg o.a + (if o.mod.getLsbD 14 then ofInt (signedField 14 (o.mod.toNat % 2 ^ 14)) else x.reg o.b)

def execMadd (o : OwnOp) (s : State) : Host.Outcome State Fault Refusal :=
  issueStream (fun c g x s => .next (s.putM c g o.d (maddVal o x))) s

def execMloop (o : ImmOp) (s : State) : Host.Outcome State Fault Refusal :=
  issueStream (fun c g x s =>
    let v := x.reg o.a - 1
    let s := s.putM c g o.a v
    if v = 0 then .next s else .goto s (addrSum (x.pc.setWidth 64) (8 * signedField 31 o.imm.toNat))) s

/-- The slots of a group in a range of logical numbers are unbound. -/
def State.freeLogical (s : State) (c g : Nat) (mine : Nat → Bool) : State :=
  s.updCore c (fun k => { k with slots := k.slots.filter (fun (x : Nat × OperandSlot) => !(x.2.group == g && mine x.2.logical)) })

def execMstop (_o : OwnOp) (s : State) : Host.Outcome State Fault Refusal :=
  issueStream (fun c g x s =>
    if x.chain.isSome then .trap s (chainTrap s)
    else .next ((s.freeLogical c g (fun _ => true)).updStream c g (fun y => { y with st := .ended }))) s

/-! ## Claims (R288, R289, R292) -/

/-- n of MCLAIM and MREL, and the count c. -/
def claimRange (o : OwnOp) : List Nat := (List.range (o.mod.toNat / 64 + 1)).map (fun i => o.mod.toNat % 64 + i)

/-- The free physical slots of a core, ascending. -/
def State.freeSlotsOf (s : State) (c : Nat) : List Nat := (List.range 64).filter (fun i => (AMap.find (s.core c).slots i).isNone)

/-- Logical slots bound to physical ones, zeroed and tagged NONE. -/
def State.bindSlots (s : State) (c g : Nat) (ps : List (Nat × Nat)) : State :=
  s.updCore c (fun k => { k with slots := ps.foldl (fun (m : AMap OperandSlot) p =>
    AMap.put m p.1 { group := g, logical := p.2, tag := none, bytes := [] }) k.slots })

def mclaimBody (o : OwnOp) (c g : Nat) (_x : Stream) (s : State) : StreamEnd :=
  let ns := claimRange o
  match ns.find? (fun i => (s.slotOf c g i).isSome) with
  | some i => .trap s (slotTrap (wd i))
  | none =>
    let s := if g ∈ (s.core c).claims then s else s.updCore c (fun k => { k with claims := k.claims ++ [g] })
    if (s.core c).claims.head? = some g ∧ ns.length ≤ (s.freeSlotsOf c).length then
      .next ((s.bindSlots c g ((s.freeSlotsOf c).zip ns)).updCore c (fun k => { k with claims := k.claims.filter (· != g) }))
    else .wait s .waitClaim

def execMclaim (o : OwnOp) (s : State) : Host.Outcome State Fault Refusal := issueStream (mclaimBody o) s

def mrelBody (o : OwnOp) (c g : Nat) (_x : Stream) (s : State) : StreamEnd :=
  let ns := claimRange o
  match ns.find? (fun i => (s.slotOf c g i).isNone) with
  | some i => .trap s (slotTrap (wd i))
  | none =>
    if ns.any (fun i => s.fillPending c g i) then .wait s .running
    else .next (s.freeLogical c g (fun i => decide (i ∈ ns)))

def execMrel (o : OwnOp) (s : State) : Host.Outcome State Fault Refusal := issueStream (mrelBody o) s

/-! ## Fills (R293) -/

def fillBody (o : OwnOp) (isB : Bool) (c g : Nat) (x : Stream) (s : State) : StreamEnd :=
  match x.operand (o.mod.getLsbD 0) o.d with
  | .error t => .trap s t
  | .ok n =>
    match s.slotOf c g n with
    | none => .trap s (slotTrap (wd n))
    | some (phys, sl) =>
      let ty := OwnOp.tyOf o 11
      match s.readTile c g ty (bitsAt o.mod.toNat 8 2) (o.mod.getLsbD 10) (x.reg o.a) (x.reg o.b) with
      | (s, .error y) => .stop s y
      | (s, .ok rows) => .next (s.fillSlot c phys sl isB ty rows)

def execMlda (o : OwnOp) (s : State) : Host.Outcome State Fault Refusal := issueStream (fillBody o false) s
def execMldb (o : OwnOp) (s : State) : Host.Outcome State Fault Refusal := issueStream (fillBody o true) s

/-! ## Accumulator units (R287) -/

/-- A unit of the tile has been written by an MMA of the open chain. -/
def Stream.inChain (x : Stream) (us : List Nat) : Bool := x.chain.any (fun k => us.any (fun u => decide (u ∈ k.written)))

/-- The tile that MZERO or MLDC names, or its SLOT_FAULT (R288). -/
def Stream.newTile (x : Stream) (ty : Ty) (ind : Bool) (d : BitVec 8) : Except Trap Nat :=
  match x.operand ind d with
  | .error t => .error t
  | .ok t =>
    if ty = .f64 ∧ t % 2 = 1 then .error (slotTrap (wd t))
    else if x.inChain (tileUnits ty t) then .error (slotTrap (wd t))
    else .ok t

/-- A tile all of whose units are zero. -/
def Stream.clearTile (x : Stream) (ty : Ty) (t : Nat) : Stream :=
  { x with units := (tileUnits ty t).foldl (fun (m : AMap (AMap (BitVec 32))) u => AMap.drop m u) x.units }

def execMzero (o : OwnOp) (s : State) : Host.Outcome State Fault Refusal :=
  issueStream (fun c g x s =>
    let ty := OwnOp.tyOf o 11
    match x.newTile ty (o.mod.getLsbD 0) o.d with
    | .error t => .trap s t
    | .ok t => .next (s.updStream c g (fun y => (y.clearTile ty t).tagTile ty t))) s

/-- MLDC loads a tile from scratchpad (R294). -/
def mldcBody (o : OwnOp) (c g : Nat) (x : Stream) (s : State) : StreamEnd :=
  let ty := OwnOp.tyOf o 11
  match x.newTile ty (o.mod.getLsbD 0) o.d with
  | .error t => .trap s t
  | .ok t =>
    let z := elemSize ty
    let as := (List.range 256).map (fun e => x.reg o.a + x.reg o.b * wd (e / 16) + wd (e % 16 * z))
    match readAll (scrReader c g) z as s with
    | (s, .error y) => .stop s y
    | (s, .ok vs) => .next (s.updStream c g (fun y =>
        (vs.foldl (fun (r : Stream × Nat) v => (r.1.putElem ty t r.2 v, r.2 + 1)) (y, 0)).1.tagTile ty t))

def execMldc (o : OwnOp) (s : State) : Host.Outcome State Fault Refusal := issueStream (mldcBody o) s

/-! ## Drain (R194, R295) -/

/-- The accumulator type of a tag, where a tile may start there. -/
def tagTy : UnitTag → Option Ty
  | .f32 => some .f32
  | .i32 => some .i32
  | .f64Low => some .f64
  | _ => none

/-- The drain types of an accumulator type. -/
def drainOk (acc ty : Ty) : Bool :=
  match acc with
  | .f64 => ty == .f64 || ty == .f32
  | .i32 => ty == .i32 || ty == .i8
  | _ => ty == .f32 || ty == .f64 || ty == .f16 || ty == .bf16 || ty == .e5m2 || ty == .e4m3 || ty == .b4

/-- INT32 saturated to INT8. -/
def satI8 (x : Nat) : Nat :=
  let v := s32 x
  ((if v < -128 then -128 else if 127 < v then 127 else v) + 256).toNat % 256

/-- An element as its drain type holds it. -/
def drainVal (acc ty : Ty) (x : Nat) : Nat :=
  if acc = .i32 then (if ty = .i32 then x else satI8 x)
  else drainF (fmtOf acc) (fmtOf ty) x

/-- The bytes of row `i` of a tile. -/
def drainRow (x : Stream) (acc ty : Ty) (b4ty t i : Nat) : List Byte :=
  let es := (List.range 16).map (fun n => x.elem acc t (16 * i + n))
  if ty = .b4 then
    let r := b4Block b4ty true (es.map (fun e => decodeF .f32 e))
    (List.range 8).flatMap (fun j => bytesOf 1 (r.2.1.getD (2 * j) 0 + 16 * r.2.1.getD (2 * j + 1) 0)) ++ bytesOf 1 r.1
  else es.flatMap (fun e => bytesOf (elemSize ty) (drainVal acc ty e))

/-- The address at which an access of a drain fails its checks. -/
def State.drainStop (s : State) (c g z : Nat) (as : List Word) (bytes : Nat) : Option Trap :=
  as.findSome? (fun a =>
    if a.toNat % z ≠ 0 then some { code := .misaligned, info0 := a, info1 := 0 }
    else ((List.range bytes).map (fun i => a + wd i)).findSome? (fun b =>
      if (s.segment c g b).isNone then some { code := .protection, info0 := b, info1 := 0 } else none))

/-- Bytes written to scratchpad from an address on. -/
def State.scrPut (s : State) (c g : Nat) (a : Word) (bs : List Byte) : State :=
  (bs.foldl (fun (r : State × Word) b => (match r.1.segment c g r.2 with
    | some t => r.1.scrWrite c g t 1 b.toNat
    | none => r.1, r.2 + 1)) (s, a)).1

def mdrainBody (o : OwnOp) (c g : Nat) (x : Stream) (s : State) : StreamEnd :=
  let ty := OwnOp.tyOf o 11
  match x.operand (o.mod.getLsbD 0) o.d with
  | .error t => .trap s t
  | .ok t =>
    match tagTy (x.tag t) with
    | none => .trap s (slotTrap (wd t))
    | some acc =>
      if !drainOk acc ty || x.inChain (tileUnits acc t) then .trap s (slotTrap (wd t))
      else
        let as := (List.range 16).map (fun i => x.reg o.a + x.reg o.b * wd i)
        let n := if ty = .b4 then 9 else 16 * elemSize ty
        match s.drainStop c g (elemSize ty) as n with
        | some t => .trap s t
        | none => .next (((List.range 16).zip as).foldl (fun s p => s.scrPut c g p.2 (drainRow x acc ty (bitsAt o.mod.toNat 9 2) t p.1)) s)

def execMdrain (o : OwnOp) (s : State) : Host.Outcome State Fault Refusal := issueStream (mdrainBody o) s

/-! ## MMA and chains (R191 to R193, R296) -/

/-- The slot that an MMA names, with the role and format it needs (R288). While fills of it go on, its tag and each element are the
old ones or a fill's, in a free choice (R297). -/
def State.mmaSlot (s : State) (c g n : Nat) (isB : Bool) (ty : Ty) : Except Trap Memory :=
  match s.slotOf c g n with
  | some (_, x) =>
    let fs := s.fillsOf c g n
    let pick (i : Nat) : Nat := Config.freeNat s.freeCtr (2 ^ 20 + 2 ^ 14 * (2 * n + isB.toNat) + i)
    let tags := x.tag :: fs.map (fun f => some { isB := f.isB, ty := f.ty })
    if tags.getD (pick 8192 % tags.length) x.tag = some { isB := isB, ty := ty } then .ok (mixedSlot pick ty fs x.bytes)
    else .error (slotTrap (wd n))
  | none => .error (slotTrap (wd n))

def mmaBody (o : OwnOp) (c g : Nat) (x : Stream) (s : State) : StreamEnd :=
  let tya := OwnOp.tyOf o 11
  let tyb := OwnOp.tyOf o 7
  match x.operand (o.mod.getLsbD 0) o.d, x.operand (o.mod.getLsbD 1) o.a, x.operand (o.mod.getLsbD 2) o.b with
  | .error t, _, _ => .trap s t
  | _, .error t, _ => .trap s t
  | _, _, .error t => .trap s t
  | .ok t, .ok sa, .ok sb =>
    match s.mmaSlot c g sa false tya, s.mmaSlot c g sb true tyb with
    | .error t, _ => .trap s t
    | _, .error t => .trap s t
    | .ok a, .ok b =>
      let acc := accTy tya
      let us := tileUnits acc t
      if acc = .f64 ∧ t % 2 = 1 then .trap s (slotTrap (wd t))
      else if us.map (fun u => x.tag u) ≠ tileTags acc then .trap s (slotTrap (wd t))
      else match x.chain with
        | none => .trap s (chainTrap s)
        | some k =>
          if !s.arrayUp c then .wait s .running
          else
            let k := { k with written := (us.filter (fun u => decide (u ∉ k.written))) ++ k.written }
            if k.any then
              .next (s.updStream c g (fun y => { y with chain := some { k with later := k.later ++ [{ tile := t, tya := tya, tyb := tyb, a := a, b := b }] } }))
            else .next (s.updStream c g (fun y => { y.mmaNow t tya tyb a b with chain := some k }))

def execMma (o : OwnOp) (s : State) : Host.Outcome State Fault Refusal := issueStream (mmaBody o) s

def execMbegin (o : OwnOp) (s : State) : Host.Outcome State Fault Refusal :=
  issueStream (fun c g x s =>
    if x.chain.isSome then .trap s (chainTrap s)
    else .next (s.updStream c g (fun y => { y with chain := some { any := o.mod.getLsbD 0, written := [], later := [] } }))) s

def execMend (_o : OwnOp) (s : State) : Host.Outcome State Fault Refusal :=
  issueStream (fun c g x s =>
    match x.chain with
    | none => .trap s (chainTrap s)
    | some k => .next (s.updStream c g (fun y => { y.mmaAny (Config.freeNat s.freeCtr) k.later with chain := none }))) s

/-! ## Phase objects (R297) -/

def execMsig (o : OwnOp) (s : State) : Host.Outcome State Fault Refusal :=
  issueStream (fun c g _ s =>
    let n := o.mod.toNat % 16
    if s.hasPhase c g n then .next (s.arriveAt c g n) else .trap s (phaseTrap n)) s

def execMwait (o : OwnOp) (s : State) : Host.Outcome State Fault Refusal :=
  issueStream (fun c g x s =>
    let n := o.mod.toNat % 16
    if !s.hasPhase c g n then .trap s (phaseTrap n)
    else if fld (s.phaseWord c g n) 32 1 != fld (x.reg o.a) 0 1 then .next s
    else .wait s (.waitPhase n)) s

end Sys2Proof.Machine
end

