-- ==== Sys2Proof/Machine/Copy.lean ====
section
/-! DEFINITION. Issuing commands to the copy engine and to the collective engine (R298 to R309): their descriptors, the traps
at the instruction, and the queue a command enters. -/

namespace Sys2Proof.Machine

/-! ## Descriptors (R298) -/

/-- Bytes of an element. -/
def eszBytes (z : Nat) : Nat := 2 ^ z

/-- The object of the completion arrival: ARR and n. -/
def arriveOf (o : OwnOp) : Option Nat := if o.mod.getLsbD 6 then some (o.mod.toNat / 4 % 16) else none

/-- The copy queue that MOD[8:7] names. -/
def copyQueue (o : OwnOp) : Nat := o.mod.toNat / 128 % 4

/-- The registers of a descriptor. -/
def descRegs (a : BitVec 8) : List Nat := (List.range 5).map (fun i => a.toNat + i)

/-- The words of a descriptor. -/
def Lane.desc (l : Lane) (s : State) (a : BitVec 8) : List Word := (descRegs a).map (fun k => l.regN s k)

/-- A descriptor of a box: no count of zero, and no reserved bit. -/
def boxOk (d : List Word) : Bool :=
  let n := d.getD 2 0
  fld n 0 16 != 0 && fld n 16 16 != 0 && fld n 32 16 != 0 && zeroBits n 48 16

/-- A descriptor of a slot fill. -/
def slotDescOk (d : List Word) : Bool :=
  zeroBits (d.getD 1 0) 7 57 && zeroBits (d.getD 2 0) 6 58 && d.getD 4 0 == 0 && (fillTy d).isSome

/-- A value out of range (R305): no address is concerned. -/
def rangeTrap : Trap := { code := .protection, info0 := 0, info1 := 0 }

/-! ## Issue (R101, R102, R273, R300) -/

/-- A command of a lane: its push, and its place at the end of a queue; a copy command joins the open batch. -/
def Lane.command (l : Lane) (s : State) (q : Nat) (batch : Bool) (body : CommandBody) : State :=
  let r := s.pushFor l.c [l.p]
  let g := (l.fibre s).gslot
  let id := (s.group l.c g).nextCmd
  let s := r.1.enqueue l.c g q l.p body r.2
  if batch then s.updFibre l.c l.p (fun f => { f with openBatch := f.openBatch ++ [id] }) else s

/-- One lane of TCOPY (R300, R305). -/
def tcopyBody (o : OwnOp) (l : Lane) (s : State) : LaneEnd :=
  let d := l.desc s o.a
  let path := o.mod.toNat / 512 % 8
  let slot := fld (d.getD 1 0) 0 6
  if l.helper s then .go s
  else if !(if path < 4 then boxOk d else slotDescOk d) then .trap s rangeTrap
  else if decide (4 ≤ path) && (s.slotOf l.c (l.fibre s).gslot slot).isNone then .trap s (slotTrap (wd slot))
  else .go (l.command s (copyQueue o) true (.copy (o.mod.toNat / 4096) path d (arriveOf o)))

def execTcopy (o : OwnOp) (s : State) : Host.Outcome State Fault Refusal :=
  issue (mainChecks (.tcopy o) o.ctl (descRegs o.a)) (tcopyBody o) s

/-- One lane of TCOPYP (R304). -/
def tcopypBody (o : OwnOp) (l : Lane) (s : State) : LaneEnd :=
  let d := l.desc s o.a
  if l.helper s then .go s
  else if !boxOk d then .trap s rangeTrap
  else .go (l.command s (copyQueue o) true
    (.copyPeer (o.mod.toNat / 4096) (o.mod.toNat / 512 % 8) d (l.reg s o.b) (arriveOf o)))

def execTcopyp (o : OwnOp) (s : State) : Host.Outcome State Fault Refusal :=
  issue (mainChecks (.tcopyp o) o.ctl (descRegs o.a ++ [o.b.toNat])) (tcopypBody o) s

/-- One lane of TFILL (R303). -/
def tfillBody (o : OwnOp) (l : Lane) (s : State) : LaneEnd :=
  let z := o.mod.toNat / 4096
  if l.helper s then .go s
  else if (l.reg s o.b).toNat % eszBytes z ≠ 0 then .trap s rangeTrap
  else .go (l.command s (copyQueue o) true
    (.fill z (o.mod.toNat / 512 % 8 == 1) (l.reg s o.d) (l.reg s o.a) (l.reg s o.b) (arriveOf o)))

def execTfill (o : OwnOp) (s : State) : Host.Outcome State Fault Refusal :=
  issue (mainChecks (.tfill o) o.ctl (regsDAB o.d o.a o.b)) (tfillBody o) s

/-! ## The collective engine (R306 to R309) -/

/-- One lane of HALO. -/
def haloBody (o : OwnOp) (l : Lane) (s : State) : LaneEnd :=
  let d := l.desc s o.a
  if l.helper s then .go s
  else if !boxOk d then .trap s rangeTrap
  else .go (l.command s 4 false (.halo (o.mod.toNat / 4096) (o.mod.getLsbD 11) d (l.reg s o.b) (l.reg s o.c)))

def execHalo (o : OwnOp) (s : State) : Host.Outcome State Fault Refusal :=
  issue (mainChecks (.halo o) o.ctl (descRegs o.a ++ [o.b.toNat, o.c.toNat])) (haloBody o) s

/-- The collective engine numbers the collectives of a span (R307). -/
def State.countCollective (s : State) (grid : Nat) : State :=
  match s.grid grid with
  | some g =>
    let k := fld (g.rcd.getD 8 0) 48 16
    { s with collSeq := AMap.put s.collSeq k (AMap.getD s.collSeq k 0 + 1) }
  | none => s

/-- The trap of a collective at issue: its address, alignment and range (R27, R307). -/
def State.collTrap (s : State) (ctx : BitVec 12) (va : Word) (align n : Nat) : Option Trap :=
  if va.toNat % align ≠ 0 then some { code := .misaligned, info0 := va, info1 := 0 }
  else if !s.inHeap ctx va.toNat n then some { code := .protection, info0 := va, info1 := 0 }
  else none

/-- Two ranges of `n` bytes that overlap in part. -/
def partOverlap (a b n : Nat) : Bool := a != b && decide (a < b + n) && decide (b < a + n)

/-- Bytes of an element of ARED. -/
def aredSize : Ty → Nat
  | .f64 => 8
  | .f32 => 4
  | _ => 2

/-- One lane of ARED. -/
def aredBody (o : OwnOp) (l : Lane) (s : State) : LaneEnd :=
  let ty := OwnOp.tyOf o 11
  let z := aredSize ty
  let src := l.reg s o.a
  let dst := l.reg s o.b
  let n := (l.reg s o.c).toNat
  let g := (l.fibre s).gslot
  if l.helper s then .go s
  else if n = 0 ∨ 2 ^ 32 ≤ n then .trap s rangeTrap
  else match s.collTrap (l.ctx s) src z (z * n), s.collTrap (l.ctx s) dst z (z * n) with
    | some t, _ => .trap s t
    | none, some t => .trap s t
    | none, none =>
      if partOverlap src.toNat dst.toNat (z * n) then .trap s rangeTrap
      else .go (l.command (s.countCollective (s.group l.c g).grid) 4 false
        (.ared ty (o.mod.toNat / 512 % 4) (o.mod.getLsbD 8) src dst (l.reg s o.c)))

def execAred (o : OwnOp) (s : State) : Host.Outcome State Fault Refusal :=
  issue (mainChecks (.ared o) o.ctl [o.a.toNat, o.b.toNat, o.c.toNat]) (aredBody o) s

/-- One lane of BCAST. -/
def bcastBody (o : OwnOp) (l : Lane) (s : State) : LaneEnd :=
  let va := l.reg s o.a
  let n := (l.reg s o.b).toNat
  let root := l.reg s o.c
  let g := (l.fibre s).gslot
  if l.helper s then .go s
  else if n = 0 ∨ 2 ^ 40 < n ∨ (l.members s).length ≤ root.toNat then .trap s rangeTrap
  else match s.collTrap (l.ctx s) va 1 n with
    | some t => .trap s t
    | none => .go (l.command (s.countCollective (s.group l.c g).grid) 4 false (.bcast va (l.reg s o.b) root))

def execBcast (o : OwnOp) (s : State) : Host.Outcome State Fault Refusal :=
  issue (mainChecks (.bcast o) o.ctl [o.a.toNat, o.b.toNat, o.c.toNat]) (bcastBody o) s

end Sys2Proof.Machine
end

