-- ==== Sys2Proof/Machine/Engine.lean ====
section
/-! DEFINITION. What the copy engine and the collective engine do with a command, one access of one element at a time (R298 to
R309). -/

namespace Sys2Proof.Machine

/-! ## Elements -/

/-- Where the value of an element comes from, or goes to. -/
inductive Side where
  | global  (a : Word)
  | scratch (a : Word)
  /-- Peer register and address. -/
  | peer    (reg a : Word)
  /-- This package's copy of the symmetric heap. -/
  | heap    (a : Word)
  | const   (v : Nat)
  /-- A value that only another package knows. -/
  | free

/-- A command as single elements: their size, number and sides, and the strides that must be multiples of the size. -/
structure Job where
  size    : Nat
  total   : Nat
  src     : Nat → Side
  dst     : Nat → Side
  strides : List Nat

/-- Accesses of an element: one of 16 bytes is two of 8, in no fixed order (R85, R300). Access `u` belongs to element
`u / j.halves`. -/
def Job.halves (j : Job) : Nat := if j.size = 16 then 2 else 1
/-- Accesses on either side of a command. -/
def Job.units (j : Job) : Nat := j.total * j.halves
/-- Bytes of one access. -/
def Job.width (j : Job) : Nat := if j.size = 16 then 8 else j.size
/-- The byte of its element at which an access begins. -/
def Job.off (j : Job) (u : Nat) : Word := wd (u % j.halves * 8)

/-- Elements of a box. -/
def boxTotal (d : List Word) : Nat := fld (d.getD 2 0) 0 16 * fld (d.getD 2 0) 16 16 * fld (d.getD 2 0) 32 16

/-- Address of element `e` of a box (R298): the word of its base, the word of its strides. -/
def boxAddr (d : List Word) (base strides z e : Nat) : Word :=
  let nx := fld (d.getD 2 0) 0 16
  let ny := fld (d.getD 2 0) 16 16
  addrSum (d.getD base 0)
    ((e % nx * z : Nat) + (e / nx % ny : Nat) * strideOf d strides 0 + (e / (nx * ny) : Nat) * strideOf d strides 32)

def boxSrc (d : List Word) (z e : Nat) : Word := boxAddr d 0 3 z e
def boxDst (d : List Word) (z e : Nat) : Word := boxAddr d 1 4 z e

/-- Magnitudes of the four strides. -/
def boxStrides (d : List Word) : List Nat :=
  [(strideOf d 3 0).natAbs, (strideOf d 3 32).natAbs, (strideOf d 4 0).natAbs, (strideOf d 4 32).natAbs]

/-- Global or scratch. -/
def sideOf (scratch : Bool) (a : Word) : Side := if scratch then .scratch a else .global a

/-- A box copied between two sides. -/
def boxJob (z : Nat) (d : List Word) (src dst : Word → Side) : Job :=
  { size := z, total := boxTotal d, src := fun e => src (boxSrc d z e), dst := fun e => dst (boxDst d z e), strides := boxStrides d }

/-- Members of the span of a group's grid, by rank. -/
def State.membersOf (s : State) (c g : Nat) : List Nat :=
  match s.grid (s.group c g).grid with
  | some x => x.members
  | none => []

/-- A broadcast: the root sends to every other member, and another member receives (R309). -/
def State.bcastJob (s : State) (c g : Nat) (va count root : Word) : Job :=
  let ms := s.membersOf c g
  let z := chunkOf va.toNat count.toNat
  let others := ms.filter (· != s.accid)
  let k := count.toNat / z
  if ms.getD root.toNat s.accid = s.accid then
    { size := z, total := k * others.length, src := fun e => .heap (va + wd (z * (e / others.length))),
      dst := fun e => .peer (wd (others.getD (e % others.length) 0)) (va + wd (z * (e / others.length))), strides := [] }
  else { size := z, total := k, src := fun _ => .free, dst := fun e => .heap (va + wd (z * e)), strides := [] }

/-- The elements of a command; none for a slot fill and for commands of other engines. -/
def State.jobOf (s : State) (c g : Nat) (b : CommandBody) : Option Job :=
  match b with
  | .copy z path d _ =>
    if path < 4 then some (boxJob (eszBytes z) d (sideOf (path / 2 == 1)) (sideOf (path % 2 == 1))) else none
  | .copyPeer z path d peer _ =>
    let near := sideOf (path / 2 == 1)
    some (if path % 2 = 0 then boxJob (eszBytes z) d near (.peer peer) else boxJob (eszBytes z) d (.peer peer) near)
  | .fill z scratch pattern start count _ =>
    let n := eszBytes z
    some { size := n, total := count.toNat / n, src := fun _ => .const (pattern.toNat % 2 ^ (8 * n)),
           dst := fun e => sideOf scratch (start + wd (n * e)), strides := [] }
  | .halo z scratch d peer _ => some (boxJob (eszBytes z) d (sideOf scratch) (.peer peer))
  | .ared ty _ _ src dst count =>
    let n := aredSize ty
    some { size := n, total := count.toNat, src := fun e => .heap (src + wd (n * e)), dst := fun e => .heap (dst + wd (n * e)),
           strides := [] }
  | .bcast va count root => some (s.bcastJob c g va count root)
  | _ => none

/-! ## The command in its queue -/

/-- A command changes. -/
def State.updCommand (s : State) (c g id : Nat) (f : Command → Command) : State :=
  s.updGroup c g (fun x => { x with queues := x.queues.map (fun q => q.map (fun (y : Command) => if y.id = id then f y else y)) })

/-- An element is performed. -/
def Command.performed (x : Command) (e : Nat) : Bool := decide (e < x.progress) || decide (e ∈ x.ahead)
/-- An element is read, or its value asked for. -/
def Command.seen (x : Command) (e : Nat) : Bool := x.performed e || (AMap.find x.vals e).isSome || x.asked == some e

/-- The numbers below which everything is performed move up. -/
def Command.settle (x : Command) : Nat → Command
  | 0 => x
  | n + 1 =>
    if x.progress ∈ x.ahead then
      Command.settle { x with progress := x.progress + 1, ahead := x.ahead.filter (· != x.progress) } n
    else x

/-- Elements are performed. -/
def Command.finish (x : Command) (es : List Nat) : Command :=
  let y := { x with ahead := x.ahead ++ es, vals := x.vals.filter (fun v => decide (v.1 ∉ es)) }
  y.settle (y.ahead.length + 1)

/-- An element not yet read, in no fixed order (R300). -/
def Command.nextRead (x : Command) (total pick : Nat) : Option Nat :=
  let e := x.progress + pick % (total - x.progress)
  if x.progress < total ∧ !x.seen e then some e
  else ((List.range (x.ahead.length + x.vals.length + 2)).map (· + x.progress)).find? (fun e => decide (e < total) && !x.seen e)

/-- A command's access stops (R305): it fails, or pauses at a page; or it tries again (R44). -/
def State.stopCommand (s : State) (c g id : Nat) (x : AccessStop) (k : AccessKind) : State :=
  match x with
  | .trap t => s.failCommand c g id t
  | .park kind key va =>
    match s.joinWait (dieOf c) kind (s.group c g).ctx key va (.command c g id) true k 0 with
    | some (s, i) => s.updCommand c g id (fun y => { y with paused := some i })
    | none => s
  | .wait => s

/-- The write of element `e` stops: a command that pauses at it goes on with it. -/
def State.stopWrite (s : State) (c g id e : Nat) (x : AccessStop) (k : AccessKind) : State :=
  (s.stopCommand c g id x k).updCommand c g id (fun y => { y with retry := if y.paused.isSome then some e else y.retry })

/-- A peer access that R27 turns away: a dead peer ends the command lost (R304, R306). -/
def State.turnAway (s : State) (c g id : Nat) (peer : Word) (t : Trap) : State :=
  if t.code = .peerLost then s.loseCommand c g id (fld peer 0 10) else s.failCommand c g id t

/-! ## Local accesses -/

/-- A read of at most 8 bytes of global memory at its point of coherence. -/
def State.engineGet (s : State) (c : Nat) (ctx : BitVec 12) (a : Word) (n : Nat) : State × Except AccessStop Nat :=
  match s.enginePlace (Via.of c) ctx a n .read true with
  | (s, .error x) => (s, .error x)
  | (s, .ok p) =>
    let r := if p.e.kind = 2 then fmtLoad (fun s pa n => s.pointBytes c ctx p.dom pa n) s p.e a.toNat else s.viaRead (Via.of c) ctx p n
    (r.1, .ok r.2)

/-- A write of at most 8 bytes, pushed to its point of coherence: the completion time. -/
def State.enginePut (s : State) (c : Nat) (ctx : BitVec 12) (a : Word) (n v : Nat) : State × Except AccessStop Word :=
  match s.enginePlace (Via.of c) ctx a n .write true with
  | (s, .error x) => (s, .error x)
  | (s, .ok p) =>
    let r := s.writePoint c ctx p a.toNat n v
    (r.1, .ok r.2.1)

/-- MISALIGNED. -/
def misaligned (a : Word) : AccessStop := trap0 .misaligned a

/-- The value that access `u` reads on a local side. -/
def State.readSide (s : State) (c g : Nat) (j : Job) (u : Nat) : State × Except AccessStop Nat :=
  let ctx := (s.group c g).ctx
  match j.src (u / j.halves) with
  | .global a => if a.toNat % j.size ≠ 0 then (s, .error (misaligned a)) else s.engineGet c ctx (a + j.off u) j.width
  | .scratch a => if a.toNat % j.size ≠ 0 then (s, .error (misaligned a)) else scrReader c g s (a + j.off u) j.width
  | .heap a | .peer _ a =>
    match s.peerRead ctx (a + j.off u) j.width 1 with
    | (s, .error x) => (s, .error x)
    | (s, .ok bs) => (s, .ok (numOf bs))
  | .const v => (s, .ok (v / 2 ^ (8 * (j.off u).toNat) % 2 ^ (8 * j.width)))
  | .free => (s, .ok (Config.freeNat s.freeCtr 2 % 2 ^ (8 * j.width)))

/-- Access `u` writes on a local side: the completion time. -/
def State.writeSide (s : State) (c g : Nat) (j : Job) (u v : Nat) : State × Except AccessStop Word :=
  let ctx := (s.group c g).ctx
  match j.dst (u / j.halves) with
  | .global a => if a.toNat % j.size ≠ 0 then (s, .error (misaligned a)) else s.enginePut c ctx (a + j.off u) j.width v
  | .scratch a =>
    if a.toNat % j.size ≠ 0 then (s, .error (misaligned a))
    else match s.segment c g (a + j.off u) with
      | some t => (s.scrWrite c g t j.width v, .ok 0)
      | none => (s, .error (trap0 .protection a))
  | .heap a | .peer _ a => s.peerWrite ctx (a + j.off u) j.width (bytesOf j.width v) 1
  | .const _ | .free => (s, .ok 0)

/-! ## Blocks of B4 pages (R302) -/

/-- A destination in this package's memory: its address, and whether it is named as one of the symmetric heap. -/
def State.ownDst (s : State) (x : Side) : Option (Word × Bool) :=
  match x with
  | .global a => some (a, false)
  | .heap a => some (a, true)
  | .peer reg a => if fld reg 0 10 = s.accid then some (a, true) else none
  | .scratch _ | .const _ | .free => none

/-- The first address of a destination's block and the elements of a block, where the destination lies in a B4 page. -/
def State.blockAt (s : State) (c : Nat) (ctx : BitVec 12) (x : Side) : State × Option (Place × Word × Nat) :=
  match s.ownDst x with
  | none => (s, none)
  | some (a, heap) =>
    match if heap then s.peerPlace ctx a 4 .claim else s.enginePlace (Via.of c) ctx a 4 .claim true with
    | (s, .ok p) =>
      let n := if p.e.geom = 1 then 16 else 32
      (s, if p.e.kind = 2 ∧ p.e.efmt = 7 then some (p, a - wd (4 * (a.toNat % 65536 / 4 % n)), n) else none)
    | (s, .error _) => (s, none)

/-- The elements of a command that write element `i` of a block at `base`. -/
def Job.writersAt (j : Job) (s : State) (base : Word) (i : Nat) : List Nat :=
  (List.range j.total).filter (fun e => (s.ownDst (j.dst e)).any (fun x => x.1 == base + wd (4 * i)))

/-- A block encoded whole (R187): one type, a new scale. DESIGN CHOICE, log entry 30: R187 chooses e and R302 says that a new scale is set;
which type T the block gets is not given, and the type bits of its old scale byte stay. -/
def State.writeBlock (s : State) (c : Nat) (ctx : BitVec 12) (heap : Bool) (p : Place) (base : Word) (vs : List Nat) : State × Word :=
  let s := s.markWritten (if heap then s.liveDie else dieOf c) p.e
  let e := base.toNat % 65536 / 4
  let sb := p.e.addr + scaleByte p.e.geom e
  let home := heap || p.e.uncached
  let y := if home then s.devRead sb 1 else s.pointBytes c ctx p.dom sb 1
  let r := b4Block (y.2 / 64) false (vs.map (fun v => decodeF .f32 v))
  let ws := elemWrite sb 0 8 r.1 :: (r.2.1.zip (List.range vs.length)).map (fun k => elemWrite p.e.addr (4 * (e + k.2)) 4 k.1)
  if home then y.1.homePut p.dom ws
  else ws.foldl (fun (q : State × Word) w =>
    let x := q.1.pointWrite c ctx p.dom w.wn w.bits w.mask
    (x.1, later q.2 x.2)) (y.1, s.gtb)

/-! ## Collectives (R308) -/

/-- Two values combined: 0 SUM, 1 MAX, 2 MIN; the first is operand A. -/
def reduceTwo (ty : Ty) (op a b : Nat) : Nat :=
  match op with
  | 0 => (fAdd (fmtOf ty) .rne false a b).1
  | 1 => (fMinMax (fmtOf ty) false true a b).1
  | _ => (fMinMax (fmtOf ty) false false a b).1

/-- One level of the fixed order: neighbours reduceTwo. -/
def detLevel (ty : Ty) (op : Nat) : List Nat → List Nat
  | a :: b :: vs => reduceTwo ty op a b :: detLevel ty op vs
  | vs => vs

/-- The fixed order: levels until one value is left. -/
def detTree (ty : Ty) (op : Nat) : Nat → List Nat → Nat
  | 0, vs => vs.headD 0
  | n + 1, vs => if vs.length ≤ 1 then vs.headD 0 else detTree ty op n (detLevel ty op vs)

/-- Some tree: two values reduceTwo, chosen freely, until one is left. -/
def someTree (ty : Ty) (op ctr : Nat) : Nat → List Nat → Nat
  | 0, vs => vs.headD 0
  | n + 1, vs =>
    if vs.length ≤ 1 then vs.headD 0
    else
      let i := Config.freeNat ctr (1000 + 2 * n) % vs.length
      let a := vs.getD i 0
      let rest := vs.eraseIdx i
      let j := Config.freeNat ctr (1001 + 2 * n) % rest.length
      someTree ty op ctr n (reduceTwo ty op a (rest.getD j 0) :: rest.eraseIdx j)

/-- The result of one element: the other members' contributions are not known here. -/
def State.reduce (s : State) (c g : Nat) (ty : Ty) (op : Nat) (det : Bool) (v : Nat) : Nat :=
  let vs := (s.membersOf c g).zip (List.range (s.membersOf c g).length) |>.map (fun m =>
    if m.1 = s.accid then v else Config.freeNat s.freeCtr (100000 + m.2) % 2 ^ (8 * aredSize ty))
  let vs := if vs.isEmpty then [v] else vs
  if det then detTree ty op vs.length vs else someTree ty op s.freeCtr vs.length vs

/-- The value that an element's write stores. -/
def State.outValue (s : State) (c g : Nat) (b : CommandBody) (v : Nat) : Nat :=
  match b with
  | .ared ty op det _ _ _ => s.reduce c g ty op det v
  | _ => v

/-- A member of a matched collective that has been declared dead (R309). -/
def State.deadMember (s : State) (c g : Nat) : Option Nat :=
  (s.membersOf c g).find? (fun m => m != s.accid && flag (s.peerEntry m) 17)

/-! ## One step of a command -/

/-- A peer access is sent for a command; none where it must wait. -/
def State.sendFor (s : State) (c g id : Nat) (peer : Nat) (op : FabricOp) (value : Bool) : Option State :=
  (s.sendPeer peer op (.command c g id) value 0).map (fun r => r.1)

/-- Requests of a command without a response. -/
def State.commandOwes (s : State) (c g id : Nat) : Bool :=
  s.fabric.send.any (fun (w : Nat × SendWindow) => w.2.sent.any (fun r => r.waiter == .command c g id))

/-- An access of an element reads. -/
def State.readElement (s : State) (c g : Nat) (x : Command) (j : Job) (e : Nat) : State :=
  let keep (s : State) (v : Nat) : State := s.updCommand c g x.id (fun y => { y with vals := AMap.put y.vals e v })
  if j.strides.any (fun d => d % j.size != 0) then
    s.failCommand c g x.id { code := .misaligned, info0 := (match j.src (e / j.halves) with
      | .global a | .scratch a | .peer _ a | .heap a => a
      | .const _ | .free => 0), info1 := 0 }
  else
    let here (s : State) : State :=
      match s.readSide c g j e with
      | (s, .ok v) => keep s v
      | (s, .error y) => s.stopCommand c g x.id y .read
    match j.src (e / j.halves) with
    | .peer reg a =>
      match s.peerTrap (s.group c g).ctx (s.membersOf c g) reg a j.size with
      | some t => s.turnAway c g x.id reg t
      | none =>
        if fld reg 0 10 = s.accid then here s
        else if x.asked.isSome then s
        else match s.sendFor c g x.id (fld reg 0 10) (.read (a + j.off e) j.width) true with
          | some s => s.updCommand c g x.id (fun y => { y with asked := some e })
          | none => s
    | _ => here s

/-- Elements are written, with a completion time. -/
def State.wrote (s : State) (c g id : Nat) (es : List Nat) (t : Word) : State :=
  s.updCommand c g id (fun y => { y.finish es with wtc := later y.wtc t, retry := none })

/-- One access writes in this package. -/
def State.writeOne (s : State) (c g : Nat) (x : Command) (j : Job) (e v : Nat) : State :=
  match s.writeSide c g j e (s.outValue c g x.body v) with
  | (s, .ok t) => s.wrote c g x.id [e] t
  | (s, .error y) => s.stopWrite c g x.id e y .write

/-- An element of this package's memory, in a block that a B4 page encodes whole where the command writes every element of it;
none where the block waits for its other values. -/
def State.writeOwn (s : State) (c g : Nat) (x : Command) (j : Job) (e v : Nat) : Option State :=
  let ctx := (s.group c g).ctx
  match if j.size = 4 then s.blockAt c ctx (j.dst e) else (s, none) with
  | (s, none) => some (s.writeOne c g x j e v)
  | (s, some (p, base, n)) =>
    let ws := (List.range n).map (fun i => j.writersAt s base i)
    if ws.any (fun w => w.isEmpty) || ws.flatten.any (fun e => x.performed e) then some (s.writeOne c g x j e v)
    else if ws.flatten.any (fun e => (AMap.find x.vals e).isNone) then none
    else
      let pick (i : Nat) (w : List Nat) : Nat := AMap.getD x.vals (w.getD (Config.freeNat s.freeCtr (200 + i) % w.length) 0) 0
      let vs := (ws.zip (List.range n)).map (fun k => s.outValue c g x.body (pick k.2 k.1))
      let r := s.writeBlock c ctx ((s.ownDst (j.dst e)).any (·.2)) p base vs
      some (r.1.wrote c g x.id ws.flatten r.2)

/-- An access whose value is at hand writes, or is sent to a peer. -/
def State.writeElement (s : State) (c g : Nat) (x : Command) (j : Job) (e v : Nat) : Option State :=
  match j.dst (e / j.halves) with
  | .peer reg a =>
    match s.peerTrap (s.group c g).ctx (s.membersOf c g) reg a j.size with
    | some t => some (s.turnAway c g x.id reg t)
    | none =>
      if fld reg 0 10 = s.accid then s.writeOwn c g x j e v
      else some (match s.sendFor c g x.id (fld reg 0 10) (.write (a + j.off e) (bytesOf j.width v) (List.replicate j.width true)) false with
        | some s => s.wrote c g x.id [e] 0
        | none => s)
  | _ => s.writeOwn c g x j e v

/-- The counter add that ends a HALO (R306). -/
def State.haloAdd (s : State) (c g : Nat) (x : Command) (peer counter : Word) : State :=
  let stepped (s : State) : State := s.updCommand c g x.id (fun y => { y with progress := y.progress + 1, retry := none })
  match s.peerTrap (s.group c g).ctx (s.membersOf c g) peer counter 8 with
  | some t => s.turnAway c g x.id peer t
  | none =>
    if fld peer 0 10 = s.accid then
      match s.peerRmw (s.group c g).ctx counter 8 (fun m => aopVal 8 .add m 1) with
      | (s, .ok r) => (stepped s).updCommand c g x.id (fun y => { y with wtc := later y.wtc r.2 })
      | (s, .error y) => s.stopWrite c g x.id x.progress y .atomic
    else match s.sendFor c g x.id (fld peer 0 10) (.atomic counter .b8 .add 1 false) false with
      | some s => stepped s
      | none => s

/-- Every element is performed: what is left of the command. -/
def State.endElements (s : State) (c g : Nat) (x : Command) (j : Job) : State :=
  if s.commandOwes c g x.id then s
  else match x.body with
    | .halo _ _ _ peer counter =>
      if x.progress = j.units then
        -- the peer's writes come first; the local ones too
        if x.wtc.toNat < s.gtb.toNat then s.haloAdd c g x peer counter else s
      else s.updCommand c g x.id (fun y => { y with done := true })
    | _ => s.updCommand c g x.id (fun y => { y with done := true })

/-- Reads and writes of elements, in no fixed order. -/
def State.jobStep (s : State) (c g : Nat) (x : Command) (j : Job) : State :=
  match x.redo with
  | (peer, op) :: rest =>
    match s.sendFor c g x.id peer op false with
    | some s => s.updCommand c g x.id (fun y => { y with redo := rest })
    | none => s
  | [] =>
    if j.units ≤ x.progress then s.endElements c g x j
    else
      let read := x.nextRead j.units (Config.freeNat s.freeCtr 1)
      let tryRead (s : State) : State := match read with
        | some e => s.readElement c g x j e
        | none => s
      let paused := x.retry.bind (fun e => (AMap.find x.vals e).map (fun w => (e, w)))
      let v := match paused with
        | some y => some y
        | none => x.vals[Config.freeNat s.freeCtr 3 % x.vals.length]?
      match v with
      | none => tryRead s
      | some (e, w) =>
        if paused.isNone && read.isSome && s.coin c 3 then tryRead s
        else (s.writeElement c g x j e w).getD (tryRead s)

/-- A slot fill (R302), as MLDA or MLDB fills: one element is read, in no fixed order; when all are, the slot is filled and tagged. An
MMA before that takes each element old or new (`State.mmaSlot`). -/
def State.fillStep (s : State) (c g : Nat) (x : Command) (path : Nat) (d : List Word) : State :=
  let slot := fld (d.getD 1 0) 0 6
  match s.slotOf c g slot with
  | none => s.failCommand c g x.id (slotTrap (wd slot))
  | some (phys, sl) =>
    let ty := (fillTy d).getD .f32
    let stride := ofInt (strideOf d 3 0)
    match x.nextRead (16 * rowUnits ty) (Config.freeNat s.freeCtr 1) with
    | some u =>
      match s.fillUnit c g ty (path == 5) (d.getD 0 0 + stride * wd (u / rowUnits ty)) (u % rowUnits ty) with
      | (s, .ok v) => s.updCommand c g x.id (fun y => { y with vals := AMap.put y.vals u v })
      | (s, .error y) => s.stopCommand c g x.id y .read
    | none =>
      let rows := (List.range 16).map (filledRow ty (fld (d.getD 2 0) 4 2) x.vals)
      (s.fillSlot c phys sl (flag (d.getD 1 0) 6) ty rows).updCommand c g x.id (fun y => { y with done := true, vals := [] })

/-- A matched collective: a member's death ends it lost, and members' commands may disagree (R307, R309). -/
def State.matchedStep (s : State) (c g : Nat) (x : Command) (j : Job) : State :=
  match s.deadMember c g with
  | some m => s.loseCommand c g x.id m
  | none =>
    if (s.membersOf c g).length ≤ 1 then
      match x.body with
      | .bcast _ _ _ => s.updCommand c g x.id (fun y => { y with done := true })
      | _ => s.jobStep c g x j
    else if x.progress = 0 && x.ahead.isEmpty && x.vals.isEmpty && s.coin c 4 then s.failCommand c g x.id rangeTrap
    else s.jobStep c g x j

/-- A step of a command of the copy or collective engine. -/
def State.engineStep (s : State) (c g : Nat) (x : Command) : State :=
  match x.body, s.jobOf c g x.body with
  | .copy _ path d _, none => s.fillStep c g x path d
  | .ared .., some j => s.matchedStep c g x j
  | .bcast .., some j => s.matchedStep c g x j
  | _, some j => s.jobStep c g x j
  | _, none => s

/-! ## Completion (R101, R301) -/

/-- The object at which a command arrives. -/
def CommandBody.arrives : CommandBody → Option Nat
  | .copy _ _ _ a | .fill _ _ _ _ _ a | .copyPeer _ _ _ _ a => a
  | _ => none

/-- A SAVE holds the group whose work goes on under a number. -/
def State.savedWork (s : State) (c g : Nat) : Bool := s.saved.any (fun x => x.core == c && x.groups.any (fun (y : Nat × Group) => x.base + y.1 == g))

/-- A command whose accesses are performed is complete once the GTB has passed its writes' completion times. One that arrives at an
object of a saved group's segment waits for the restore; an object of a group that has gone takes no arrival. -/
def State.completeCommand (s : State) (c g : Nat) (x : Command) : State :=
  if x.wtc.toNat < s.gtb.toNat || x.wtc == 0 then
    match x.body.arrives with
    | none => s.dropCommand c g x.id
    | some n => if 256 ≤ g then (if s.savedWork c g then s else s.dropCommand c g x.id) else if s.hasPhase c g n then (s.dropCommand c g x.id).arriveAt c g n else s.failCommand c g x.id (phaseTrap n)
  else s

end Sys2Proof.Machine
end

