-- ==== Sys2Proof/Machine/Ray.lean ====
section
/-! DEFINITION. Ray queries (R312 to R316, R351 to R355): the structure walk of a traversal unit, RQRY and RQNEXT. -/

namespace Sys2Proof.Machine

/-! ## FP32 arithmetic of a unit: round to nearest even, subnormals kept -/

abbrev F32 := BitVec 32

def f32Add (a b : F32) : F32 := BitVec.ofNat 32 (fAdd .f32 .rne false a.toNat b.toNat).1
def f32Sub (a b : F32) : F32 := BitVec.ofNat 32 (fSub .f32 .rne false a.toNat b.toNat).1
def f32Mul (a b : F32) : F32 := BitVec.ofNat 32 (fMul .f32 .rne false a.toNat b.toNat).1
def f32Fma (a b c : F32) : F32 := BitVec.ofNat 32 (fFma .f32 .rne false a.toNat b.toNat c.toNat).1
def f32Div (a b : F32) : F32 := BitVec.ofNat 32 (fDiv .f32 .rne false a.toNat b.toNat).1
def f32Neg (a : F32) : F32 := a ^^^ 0x80000000
/-- The value of a pattern. -/
def f32Val (a : F32) : FVal := decodeF .f32 a.toNat
def FVal.notNumber : FVal → Bool
  | .nan _ _ _ => true
  | _ => false
/-- Comparisons; one that meets a NaN fails. -/
def ltF (a b : FVal) : Bool := !a.notNumber && !b.notNumber && ltVal a b
def leF (a b : FVal) : Bool := !a.notNumber && !b.notNumber && !ltVal b a
def f32Lt (a b : F32) : Bool := ltF (f32Val a) (f32Val b)
def f32Le (a b : F32) : Bool := leF (f32Val a) (f32Val b)
/-- The value 1. -/
def f32One : F32 := 0x3F800000

/-- Component `i` of a vector. -/
def comp (v : List F32) (i : Nat) : F32 := v.getD i 0
def vecSub (a b : List F32) : List F32 := (List.range 3).map (fun i => f32Sub (comp a i) (comp b i))
/-- Cross product and dot product as R355 forms them. -/
def cross (a b : List F32) : List F32 :=
  (List.range 3).map (fun i =>
    let j := (i + 1) % 3
    let k := (i + 2) % 3
    f32Fma (comp a j) (comp b k) (f32Neg (f32Mul (comp a k) (comp b j))))
def dot (a b : List F32) : F32 := f32Fma (comp a 0) (comp b 0) (f32Fma (comp a 1) (comp b 1) (f32Mul (comp a 2) (comp b 2)))

/-! ## Boxes (R352, R353) -/

/-- A component of a node's box: `origin + q 2^e`, rounded in a direction. -/
def boxEdge (rm : Rm) (origin : F32) (q : Nat) (e : Int) : F32 :=
  let v := f32Val origin
  if v.notNumber then origin
  else BitVec.ofNat 32 (addVal .f32 rm false v (if q = 0 then .zero false else .fin false q e)).1

/-- Exact difference of two values of which none is a NaN. -/
def subExact (a b : FVal) : FVal :=
  match a, b.negate with
  | .inf n, .inf k => if n = k then .inf n else .nan false true 0
  | .inf n, _ => .inf n
  | _, .inf n => .inf n
  | .zero _, .zero _ => .zero false
  | .zero _, y => y
  | x, .zero _ => x
  | .fin n m e, .fin k p g =>
    let lo := if e < g then e else g
    let x := alignTo n m e lo + alignTo k p g lo
    if x = 0 then .zero false else .fin (decide (x < 0)) x.natAbs lo
  | x, _ => x

/-- Exact product; none for a zero times an infinity. -/
def mulExact (a b : FVal) : Option FVal :=
  match a, b with
  | .nan n q p, _ => some (.nan n q p)
  | _, .nan n q p => some (.nan n q p)
  | .zero _, .inf _ => none
  | .inf _, .zero _ => none
  | .inf n, y => some (.inf (n != y.neg))
  | x, .inf n => some (.inf (n != x.neg))
  | x, y => some (mulVal x y)

/-- One axis of a box test: the near and the far value, or rejection. -/
def axisTest (lo hi o inv : F32) : Option (F32 × F32) :=
  let l := f32Val lo
  let h := f32Val hi
  let p := f32Val o
  if l.notNumber || h.notNumber || p.notNumber then none
  else match mulExact (subExact l p) (f32Val inv), mulExact (subExact h p) (f32Val inv) with
    | some t0, some t1 =>
      if t0.notNumber || t1.notNumber then none
      else
        let near := if ltVal t1 t0 then t1 else t0
        let far := if ltVal t1 t0 then t0 else t1
        some (BitVec.ofNat 32 (convF .f32 .rdn false near).1, BitVec.ofNat 32 (convF .f32 .rup false far).1)
    | _, _ => if leF l p && leF p h then some (0xFF800000, 0x7F800000) else none

/-- The larger and the smaller of two values that are no NaN. -/
def f32Max (a b : F32) : F32 := if f32Lt a b then b else a
def f32Min (a b : F32) : F32 := if f32Lt b a then b else a

/-- The entry distance of a box that the ray enters. -/
def boxEntry (lo hi o d : List F32) (tmin tmax : F32) : Option F32 :=
  let axes := (List.range 3).map (fun i => axisTest (comp lo i) (comp hi i) (comp o i) (f32Div f32One (comp d i)))
  match axes with
  | [some x, some y, some z] =>
    let tn := f32Max (f32Max x.1 y.1) z.1
    let tf := f32Min (f32Min x.2 y.2) z.2
    if f32Le tn tf && f32Le tmin tf && f32Le tn tmax then some (f32Max tn tmin) else none
  | _ => none

/-! ## Instances (R314, R354) -/

/-- Element (i, j) of a 3×4 transform. -/
def elem34 (t : List F32) (i j : Nat) : F32 := t.getD (4 * i + j) 0

/-- A point or a direction mapped by a transform. -/
def mapVec (t : List F32) (point : Bool) (v : List F32) : List F32 :=
  (List.range 3).map (fun i => (List.range 3).foldl (fun acc m => f32Fma (elem34 t i m) (comp v m) acc)
    (if point then elem34 t i 3 else 0))

/-- The identity transform. -/
def identity34 : List F32 := (List.range 12).map (fun e => if e % 5 = 0 then f32One else 0)

/-- One more level composed: `t` after `c` (R314). -/
def compose (t c : List F32) : List F32 :=
  (List.range 12).map (fun e =>
    let i := e / 4
    let j := e % 4
    (List.range 3).foldl (fun acc m => f32Fma (elem34 t i m) (elem34 c m j) acc) (if j = 3 then elem34 t i 3 else 0))

/-! ## Triangles (R355) -/

/-- t, u, v and FRONT of a triangle that the ray hits. -/
def hitTriangle (o d v0 v1 v2 : List F32) (tmin tmax : F32) (cull : Bool) : Option (F32 × F32 × F32 × Bool) :=
  let e1 := vecSub v1 v0
  let e2 := vecSub v2 v0
  let p := cross d e2
  let det := dot e1 p
  if !(f32Lt det 0 || f32Lt 0 det) || (cull && f32Lt det 0) then none
  else
    let inv := f32Div f32One det
    let s := vecSub o v0
    let u := f32Mul (dot s p) inv
    if !(f32Le 0 u && f32Le u f32One) then none
    else
      let q := cross s e1
      let v := f32Mul (dot d q) inv
      if !(f32Le 0 v && f32Le (f32Add u v) f32One) then none
      else
        let t := f32Mul (dot e2 q) inv
        if f32Le tmin t && f32Le t tmax then some (t, u, v, f32Lt 0 det) else none

/-! ## Structure reads -/

/-- Plain loads of 8-byte words by the fibre (R316). -/
def Lane.readWords (l : Lane) (a : Word) : Nat → State → State × Except AccessStop (List Word)
  | 0, s => (s, .ok [])
  | n + 1, s =>
    match s.resolve l.c (l.ctx s) a 8 .read none true with
    | (s, .error x) => (s, .error x)
    | (s, .ok p) =>
      let r := l.loadAt s p a 8 false
      match Lane.readWords l (a + 8) n r.1 with
      | (s, .error x) => (s, .error x)
      | (s, .ok ws) => (s, .ok (wd r.2 :: ws))

/-- FP32 number `i` of a run of words. -/
def f32At (ws : List Word) (i : Nat) : F32 := BitVec.ofNat 32 (fld (ws.getD (i / 2) 0) (32 * (i % 2)) 32)

/-! ## The walk (R313, R354) -/

def Query.opaqueFlag (q : Query) : Bool := q.flags.getLsbD 0
def Query.first (q : Query) : Bool := q.flags.getLsbD 1
def Query.cullb (q : Query) : Bool := q.flags.getLsbD 2
def Query.notrap (q : Query) : Bool := q.flags.getLsbD 3

/-- The frame in which the ray is: the innermost. -/
def Query.frame (q : Query) : RayFrame :=
  q.frames.headD { o := [0, 0, 0], d := [0, 0, 0], inst := 0xFFFFFFFF, opq := false, xform := identity34 }

/-- The smaller of TMAX and the t of the committed hit. -/
def Query.limit (q : Query) : F32 :=
  match q.hit with
  | some h => f32Min q.tmax h.t
  | none => q.tmax

/-- A hit is committed: it replaces an earlier one only with a strictly smaller t. -/
def Query.commit (q : Query) (h : RayHit) : Query :=
  match q.hit with
  | some k => if f32Lt h.t k.t then { q with hit := some h } else q
  | none => { q with hit := some h }

/-- How a step of a query ends. -/
inductive RayEnd where
  | miss
  | hit (h : RayHit)
  | candidate (h : RayHit)
  /-- Child root, instance index, mask, and the transform of all nine levels. -/
  | depth (root : Word) (inst : F32) (mask : Nat) (x : List F32)
  | malformed

/-- How the walk goes on after one item. -/
inductive RayStep where
  | more (s : State) (q : Query)
  | over (s : State) (q : Query) (e : RayEnd)
  | stop (s : State) (q : Query) (x : AccessStop)
  | nest (s : State) (root : Word)

/-- The end of a finished walk. -/
def Query.finish (q : Query) : RayEnd :=
  match q.hit with
  | some h => .hit h
  | none => .miss

/-- ADDR of a child reference. -/
def refAddr (r : Word) : Word := wd (fld r 6 51 * 64)
/-- A reference is well formed (R351): no reserved bit, N zero but for a leaf, ADDR aligned for its kind. -/
def refOk (r : Word) : Bool :=
  zeroBits r 57 7 && match fld r 0 2 with
    | 0 => fld r 2 4 == 0 && (refAddr r).toNat % 128 == 0
    | 2 => true
    | _ => fld r 2 4 == 0

/-- The children of an internal node that the ray enters, in ascending entry distance (R352 to R354). -/
def Query.children (q : Query) (ws : List Word) : List RayItem :=
  let f := q.frame
  let w1 := ws.getD 1 0
  let ex (i : Nat) : Int := signedField 8 (fld w1 (32 + 8 * i) 8)
  let origin (i : Nat) : F32 := f32At ws i
  let byte (k : Nat) : Nat := fld (ws.getD (k / 8) 0) (8 * (k % 8)) 8
  let child (c : Nat) : Option (Nat × F32 × Word) :=
    let r := ws.getD (8 + c) 0
    let ql (i : Nat) : Nat := byte (16 + 6 * c + i)
    let qh (i : Nat) : Nat := byte (19 + 6 * c + i)
    if fld r 0 2 = 3 || (List.range 3).any (fun i => decide (qh i < ql i)) then none
    else
      let lo := (List.range 3).map (fun i => boxEdge .rdn (origin i) (ql i) (ex i))
      let hi := (List.range 3).map (fun i => boxEdge .rup (origin i) (qh i + 1) (ex i))
      (boxEntry lo hi f.o f.d q.tmin q.limit).map (fun t => (c, t, r))
  let cs := (List.range 8).filterMap child
  let sorted := cs.foldl (fun (l : List (Nat × F32 × Word)) x =>
    l.takeWhile (fun y => !f32Lt x.2.1 y.2.1) ++ x :: l.dropWhile (fun y => !f32Lt x.2.1 y.2.1)) []
  sorted.map (fun x => .ref x.2.2 x.2.1)

/-- An instance node: entered, passed by, or the ninth level (R313, R314, R354). -/
def Query.instance_ (q : Query) (s : State) (ws : List Word) (dist : F32) (rest : List RayItem) : RayStep :=
  let w7 := ws.getD 7 0
  let root := ws.getD 6 0
  let t := (List.range 12).map (fun e => f32At ws e)
  let f := q.frame
  if !zeroBits w7 41 23 || fld root 0 2 == 3 || !refOk root then .over s q .malformed
  else if fld w7 32 8 &&& q.mask.toNat = 0 then .more s { q with stack := rest }
  else
    let inst := BitVec.ofNat 32 (fld w7 0 32)
    let x := compose t f.xform
    if 9 ≤ q.frames.length then
      if q.notrap then .over s { q with stack := rest, ask := .depth } (.depth (refAddr root) inst (fld w7 32 8) x) else .nest s root
    else
      let g : RayFrame :=
        { o := mapVec t true f.o, d := mapVec t false f.d, inst := inst, opq := f.opq || flag w7 40, xform := x }
      .more s { q with frames := g :: q.frames, stack := .ref root dist :: .leave :: rest }

/-- A triangle: passed by, committed, or a candidate (R313, R355). -/
def Query.triangle (q : Query) (s : State) (ws : List Word) (next : List RayItem) : RayStep :=
  let f := q.frame
  let v (k : Nat) : List F32 := (List.range 3).map (fun i => f32At ws (3 * k + i))
  if !zeroBits (ws.getD 5 0) 1 63 then .over s q .malformed
  else match hitTriangle f.o f.d (v 0) (v 1) (v 2) q.tmin q.limit q.cullb with
    | none => .more s { q with stack := next }
    | some (t, u, w, front) =>
      let h : RayHit := { t := t, prim := f32At ws 9, inst := f.inst, u := u, v := w, front := front,
                          level := q.frames.length - 1, xform := f.xform }
      let q := { q with stack := next }
      if q.opaqueFlag || flag (ws.getD 5 0) 0 || f.opq then
        let q := q.commit h
        if q.first then .over s q q.finish else .more s q
      else .over s { q with ask := .candidate h } (.candidate h)

/-- One item of the walk. -/
def Query.step (q : Query) (l : Lane) (s : State) : RayStep :=
  match q.stack with
  | [] => .over s q q.finish
  | .leave :: rest => .more s { q with frames := q.frames.drop 1, stack := rest }
  | .tris a next count :: rest =>
    if count ≤ next then .more s { q with stack := rest }
    else match l.readWords (a + wd (48 * next)) 6 s with
      | (s, .error x) => .stop s q x
      | (s, .ok ws) => q.triangle s ws (.tris a (next + 1) count :: rest)
  | .ref r dist :: rest =>
    if f32Lt q.limit dist || fld r 0 2 == 3 then .more s { q with stack := rest }
    else if !refOk r then .over s q .malformed
    else match fld r 0 2 with
      | 0 =>
        match l.readWords (refAddr r) 16 s with
        | (s, .error x) => .stop s q x
        | (s, .ok ws) =>
          -- every reference of the node, whether or not the ray comes to it (R313)
          if !zeroBits (ws.getD 1 0) 56 8 || !(ws.drop 8).all refOk then .over s q .malformed
          else .more s { q with stack := q.children ws ++ rest }
      | 1 =>
        match l.readWords (refAddr r) 8 s with
        | (s, .error x) => .stop s q x
        | (s, .ok ws) => q.instance_ s ws dist rest
      | _ => .more s { q with stack := .tris (refAddr r) 0 (fld r 2 4 + 1) :: rest }

/-- Items until the query's step ends. A walk that takes more items than this does not end (log entry 40). -/
def Query.walk (l : Lane) : Nat → Query → State → Option RayStep
  | 0, _, _ => none
  | n + 1, q, s =>
    match q.step l s with
    | .more s q => Query.walk l n q s
    | e => some e

/-- The bound on the items of a walk. -/
def walkBound : Nat := 2 ^ 128

/-! ## Results (R312) -/

/-- Two FP32 patterns in a word. -/
def pack32 (lo hi : F32) : Word := wd (lo.toNat + 2 ^ 32 * hi.toNat)

/-- The six words of XFORM. -/
def xformWords (x : List F32) : List Word := (List.range 6).map (fun i => pack32 (x.getD (2 * i) 0) (x.getD (2 * i + 1) 0))

/-- The result of a hit or a candidate. -/
def hitWords (status : Nat) (h : RayHit) (token : Word) : List Word :=
  [wd (status + h.level * 2 ^ 8 + (if h.front then 2 ^ 16 else 0) + h.t.toNat * 2 ^ 32), pack32 h.prim h.inst, pack32 h.u h.v, token]
    ++ xformWords h.xform

/-- The words of a result block; for DEPTH, LEVEL, FRONT and T are not stated (log entry 7). -/
def RayEnd.words (e : RayEnd) (token : Word) (ctr : Nat) : List Word :=
  match e with
  | .miss => wd 0 :: List.replicate 9 0
  | .malformed => wd 6 :: List.replicate 9 0
  | .hit h => hitWords 1 h 0
  | .candidate h => hitWords 2 h token
  | .depth root inst mask x =>
    let other := Config.freeNat ctr 5
    [wd (3 + other % 2 ^ 9 * 2 ^ 8 + other / 2 ^ 9 % 2 ^ 32 * 2 ^ 32), root, wd (inst.toNat + mask * 2 ^ 32), token] ++ xformWords x

/-- A result block of `n` registers. -/
def blockRegs (d : BitVec 8) (n : Nat) (ws : List Word) : List (Nat × Word) :=
  (List.range n).map (fun i => (d.toNat + i, ws.getD i 0))

/-- A status without results. -/
def statusRegs (d : BitVec 8) (n status : Nat) : List (Nat × Word) := blockRegs d n (wd status :: List.replicate 9 0)

/-- The result of a step of a query lands later, and the query is kept. -/
def Lane.rayResult (l : Lane) (s : State) (fl : Fl) (q : Query) (regs : List (Nat × Word)) : LaneEnd :=
  let t := l.defer s fl regs [] 0 none none .b8
  .go (t.updFibre l.c l.p (fun f => { f with query := some { q with parked := none, out := regs } }))

/-- The walk of a lane's query, from where it stands: a read that parks leaves it to be continued (R316). -/
def Lane.walkQuery (l : Lane) (fl : Fl) (d : BitVec 8) (q : Query) (s : State) : LaneEnd :=
  match Query.walk l walkBound q s with
  | none | some (.more _ _) => .stall
  | some (.nest s root) => .trap s { code := .nestDepth, info0 := refAddr root, info1 := 0 }
  | some (.stop s q x) =>
    let parked := match x with
      | .park _ _ _ => some l.pc
      | .trap _ | .wait => none
    .stop (s.updFibre l.c l.p (fun f => { f with query := some { q with parked := parked } })) x .read
  | some (.over s q e) =>
    let ended := match e with
      | .candidate _ | .depth _ _ _ _ => false
      | _ => true
    l.rayResult s fl { q with ended := ended } (blockRegs d (if q.notrap then 10 else 4) (e.words q.token s.freeCtr))

/-- A query whose unit failed while its lane was parked returns RETRY (R316). -/
def Lane.retry (l : Lane) (s : State) (fl : Fl) (d : BitVec 8) (q : Query) : LaneEnd :=
  l.rayResult s fl q (statusRegs d (if q.notrap then 10 else 4) 4)

/-! ## RQRY (R312, R313) -/

/-- The token of a query that opens: unlike every earlier one of the fibre, and otherwise open (log entry 7). -/
def Lane.newToken (l : Lane) (s : State) : Word := wd (s.freeCtr % 2 ^ 40 + Config.freeNat s.freeCtr (6000 + l.p) * 2 ^ 40)

/-- A new query: from the header's root, or from a node; none where the header is malformed. -/
def Lane.openQuery (l : Lane) (s : State) (o : OwnOp) : State × Except AccessStop (Query × Bool) :=
  let r (i : Nat) : Word := l.regN s (o.a.toNat + i)
  let d : List F32 := [BitVec.ofNat 32 (fld (r 4) 0 32), BitVec.ofNat 32 (fld (r 4) 32 32), BitVec.ofNat 32 (fld (r 5) 0 32)]
  let q (anchor : List Word) (root : Word) : Query :=
    let o' := (List.range 3).map (fun i =>
      BitVec.ofNat 32 (cvtFF .f64 .f32 .rne false (fSub .f64 .rne false (r (1 + i)).toNat (anchor.getD i 0).toNat).1).1)
    { token := l.newToken s, flags := BitVec.ofNat 5 o.mod.toNat, tmin := BitVec.ofNat 32 (fld (r 5) 32 32),
      tmax := BitVec.ofNat 32 (fld (r 6) 0 32), mask := BitVec.ofNat 8 (fld (r 6) 32 8),
      frames := [{ o := o', d := d, inst := 0xFFFFFFFF, opq := false, xform := identity34 }],
      stack := [.ref root 0xFF800000], hit := none, ask := .none, ended := false, parked := none, out := [] }
  if o.mod.getLsbD 4 then (s, .ok (q [0, 0, 0] (r 0), fld (r 0) 0 2 != 3))
  else if (r 0).toNat % 64 ≠ 0 then (s, .ok (q [0, 0, 0] 3, false))
  else match l.readWords (r 0) 8 s with
    | (s, .error x) => (s, .error x)
    | (s, .ok ws) => (s, .ok (q (ws.take 3) (ws.getD 3 0), fld (ws.getD 3 0) 0 2 != 3 && (ws.drop 4).all (· == 0)))

/-- The registers of RQRY. -/
def rqryRegs (o : OwnOp) : List Nat :=
  (List.range (if o.mod.getLsbD 3 then 10 else 4)).map (fun i => o.d.toNat + i) ++ (List.range 7).map (fun i => o.a.toNat + i)

/-- The walk of the query that an RQRY opens. A ninth level traps, and then no query is open: the earlier one is abandoned (R316). -/
def Lane.openWalk (l : Lane) (fl : Fl) (d : BitVec 8) (q : Query) (s : State) : LaneEnd :=
  match l.walkQuery fl d q s with
  | .trap s t => .trap (s.updFibre l.c l.p (fun f => { f with query := none })) t
  | x => x

def rqryBody (o : OwnOp) (l : Lane) (s : State) : LaneEnd :=
  let s := s.settleFibre l.c l.p
  let again := match (l.fibre s).query with
    | some q => if q.parked == some l.pc then some q else none
    | none => none
  match again with
  | some q => if q.ended then l.retry s o.ctl.fl o.d q else l.openWalk o.ctl.fl o.d q s
  | none =>
    match l.openQuery s o with
    | (s, .error x) => .stop (s.updFibre l.c l.p (fun f => { f with query := none })) x .read
    | (s1, .ok (q, good)) =>
      if good then l.openWalk o.ctl.fl o.d q s1
      else l.rayResult s1 o.ctl.fl { q with ended := true } (statusRegs o.d (if q.notrap then 10 else 4) 6)

def execRqry (o : OwnOp) (s : State) : Host.Outcome State Fault Refusal :=
  issue (mainChecks (.rqry o) o.ctl (rqryRegs o)) (rqryBody o) s

/-! ## RQNEXT (R315) -/

/-- A query under the decision of RQNEXT: it goes on, or ends. -/
def Query.decide (q : Query) (decision : Nat) (t : F32) : Query × Option RayEnd :=
  let go (q : Query) : Query × Option RayEnd := ({ q with ask := .none }, none)
  match q.ask with
  | .candidate h =>
    match decision with
    | 1 =>
      let q := q.commit h
      if q.first then ({ q with ask := .none }, some q.finish) else go q
    | 2 =>
      let q := q.commit h
      ({ q with ask := .none }, some q.finish)
    | _ => go q
  | .depth =>
    match decision with
    | 2 => ({ q with ask := .none }, some q.finish)
    | 3 => go { q with tmax := f32Min q.tmax t }
    | _ => go q
  | .none => go q

def rqnextBody (o : OwnOp) (l : Lane) (s : State) : LaneEnd :=
  let s := s.settleFibre l.c l.p
  let f := l.fibre s
  let n := f.queryBlock
  let stale : LaneEnd := .go (l.defer s o.ctl.fl (statusRegs o.d n 5) [] 0 none none .b8)
  match f.query with
  | none => stale
  | some q =>
    if q.ended && q.parked == some l.pc then l.retry s o.ctl.fl o.d q
    else if q.ended || l.reg s o.a != q.token then stale
    else if q.parked == some l.pc then l.walkQuery o.ctl.fl o.d q s
    else
      let b := l.reg s o.b
      match q.decide (fld b 0 2) (BitVec.ofNat 32 (fld b 32 32)) with
      | (q, some e) => l.rayResult s o.ctl.fl { q with ended := true } (blockRegs o.d n (e.words q.token s.freeCtr))
      | (q, none) => l.walkQuery o.ctl.fl o.d q s

def execRqnext (o : OwnOp) (s : State) : Host.Outcome State Fault Refusal :=
  issue { mainChecks (.rqnext o) o.ctl [o.a.toNat, o.b.toNat] with block := some o.d.toNat } (rqnextBody o) s

/-! ## TRAVERSAL_UNIT_ERROR (R316) -/

/-- A query in a unit that fails: a result that has not landed becomes RETRY, and the token is stale. -/
def Fibre.failQuery (f : Fibre) : Fibre :=
  match f.query with
  | none => f
  | some q =>
    if q.parked.isSome then { f with query := some { q with ended := true } } else
    let retry := (q.out.zip (List.range q.out.length)).map (fun x => (x.1.1, if x.2 = 0 then wd 4 else 0))
    { f with
      query := none,
      pending := f.pending.map (fun p => if p.regs == q.out && !q.out.isEmpty then { p with regs := retry } else p) }

/-- TRAVERSAL_UNIT_ERROR: which queries of a die are in the unit is a free choice (log entry 7). -/
def execTraversalUnitError (die unit : Nat) (s : State) : Host.Outcome State Fault Refusal :=
  if 4 ≤ die ∨ 8 ≤ unit then .next s
  else .next { s with cores := s.cores.map (fun (k : Nat × Core) =>
      if dieOf k.1 = die then
        (k.1, { k.2 with fibres := k.2.fibres.map (fun (f : Nat × Fibre) =>
          if Config.freeNat s.freeCtr (k.1 * 2048 + f.1) % 8 = unit then (f.1, f.2.failQuery) else f) })
      else k) }

end Sys2Proof.Machine
end

