-- ==== Sys2Proof/Machine/Radiance.lean ====
section
/-! DEFINITION. The radiance engine (R317 to R319, R360 to R362): the evaluation of a query, samples, and publications. -/

namespace Sys2Proof.Machine

/-! ## Evaluation (R361) -/

/-- FP16 to FP32, and FP32 to FP16 by RNE. -/
def h2f (x : Nat) : F32 := BitVec.ofNat 32 (cvtFF .f16 .f32 .rne false (x % 2 ^ 16)).1
def f2h (sat : Bool) (x : F32) : Nat := (cvtFF .f32 .f16 .rne sat x.toNat).1

/-- A value made non-negative. -/
def relu (x : F32) : F32 := BitVec.ofNat 32 (fMinMax .f32 false true x.toNat 0).1

/-- Where the weights of a slot lie in its numbering: grid, W1, Wd, b1, W2, b2, W3, b3. -/
def netW1 : Nat := 16 * 2 ^ 17 * 2
def netWd : Nat := netW1 + 64 * 32
def netB1 : Nat := netWd + 64 * 3
def netW2 : Nat := netB1 + 64
def netB2 : Nat := netW2 + 64 * 64
def netW3 : Nat := netB2 + 64
def netB3 : Nat := netW3 + 3 * 64

/-- A position component in the unit cube. -/
def clampUnit (x : F32) : F32 := if f32Lt x 0 then 0 else if f32Lt x f32One then x else 0x3F7FFFFF

/-- The roughness clamped to [0, 1]. -/
def clampRough (x : F32) : F32 := if f32Lt x 0 then 0 else if f32Lt f32One x then f32One else x

/-- floor of a non-negative value, as a number. -/
def floorNat (x : F32) : Nat :=
  match f32Val x with
  | .fin n m e => if n then 0 else (toInteger .rdn false m e).1.toNat
  | _ => 0

/-- A number as FP32. -/
def natF32 (n : Nat) : F32 := BitVec.ofNat 32 (roundInt .f32 .rne false false n 0).1

/-- The two features of a level at a position. -/
def gridLevel (w : Nat → F32) (pos : List F32) (l : Nat) : F32 × F32 :=
  let n := natF32 (16 * 3 ^ l / 2 ^ l)
  let g := pos.map (fun p => f32Mul p n)
  let i := g.map floorNat
  let f := (g.zip i).map (fun x => f32Sub x.1 (natF32 x.2))
  (List.range 8).foldl (fun (acc : F32 × F32) c =>
    let at_ (k : Nat) : Nat := i.getD k 0 + bitsAt c k 1
    let key := ((at_ 0 % 2 ^ 32) ^^^ (at_ 1 * 0x9E3779B1 % 2 ^ 32) ^^^ (at_ 2 * 0x85EBCA77 % 2 ^ 32)) % 2 ^ 17
    let side (k : Nat) : F32 := if bitsAt c k 1 = 1 then comp f k else f32Sub f32One (comp f k)
    let wt := f32Mul (f32Mul (side 0) (side 1)) (side 2)
    let e := 2 * (l * 2 ^ 17 + key)
    (f32Add acc.1 (f32Mul wt (w e)), f32Add acc.2 (f32Mul wt (w (e + 1))))) (0, 0)

/-- A row of a matrix product: inputs in ascending index with FFMA from a start. -/
def mlpRow (w : Nat → F32) (base : Nat) (start : F32) (xs : List F32) : F32 :=
  (xs.zip (List.range xs.length)).foldl (fun acc x => f32Fma (w (base + x.2)) x.1 acc) start

/-- The three outputs of a query, before they are clamped. -/
def evalNet (w : Nat → F32) (pos dir : List F32) : List F32 :=
  let h := (List.range 16).flatMap (fun l => let r := gridLevel w pos l; [r.1, r.2])
  let a1 := (List.range 64).map (fun i =>
    h2f (f2h false (relu (mlpRow w (netWd + 3 * i) (mlpRow w (netW1 + 32 * i) (w (netB1 + i)) h) dir))))
  let a2 := (List.range 64).map (fun i => h2f (f2h false (relu (mlpRow w (netW2 + 64 * i) (w (netB2 + i)) a1))))
  (List.range 3).map (fun i => mlpRow w (netW3 + 64 * i) (w (netB3 + i)) a2)

/-- The result of a query: R, G and B as FP16. -/
def radiance (w : Nat → F32) (q0 q1 q2 : Word) : Word :=
  let f (x : Word) (lo : Nat) : F32 := BitVec.ofNat 32 (fld x lo 32)
  let pos := [f q0 0, f q0 32, f q1 0].map clampUnit
  let dir := [h2f (fld q1 32 16), h2f (fld q1 48 16), clampRough (h2f (fld q2 0 16))]
  let out := (evalNet w pos dir).map (fun x => f2h true (relu x))
  wd (out.getD 0 0 + 2 ^ 16 * out.getD 1 0 + 2 ^ 32 * out.getD 2 0)

/-! ## Queries (R317) -/

/-- A value is NaN or infinite. -/
def FVal.unbounded : FVal → Bool
  | .nan _ _ _ | .inf _ => true
  | _ => false

/-- A query that the slot serves: owner, publication complete, position and roughness usable. -/
def State.served (s : State) (n : Nat) (ctx : BitVec 12) : Bool :=
  let x := s.net n
  flag x.reg 15 && fld x.reg 0 12 == ctx.toNat && x.loaded && x.pend.isNone

def queryOk (q0 q1 q2 : Word) : Bool :=
  let bad (x : Word) (lo : Nat) : Bool := (decodeF .f32 (fld x lo 32)).unbounded
  !(bad q0 0 || bad q0 32 || bad q1 0 || (decodeF .f16 (fld q2 0 16)).notNumber)

/-- The published weights of a slot on a die. -/
def State.weights (s : State) (n d : Nat) (i : Nat) : F32 :=
  h2f (AMap.getD (AMap.getD (s.net n).replicas d []) i 0).toNat

/-- Slot of RCQ, RCQT and RCFLIP. -/
def slotNo (o : OwnOp) : Nat := o.mod.toNat % 2

/-- RGB and pd of a lane's query. -/
def Lane.radianceQuery (l : Lane) (s : State) (o : OwnOp) : Word × Bool :=
  let q (i : Nat) : Word := l.regN s (o.a.toNat + i)
  if s.served (slotNo o) (l.ctx s) && queryOk (q 0) (q 1) (q 2) then
    (radiance (s.weights (slotNo o) (dieOf l.c)) (q 0) (q 1) (q 2), true)
  else (0, false)

/-- The registers of a query block. -/
def rcqRegs (o : OwnOp) : List Nat := o.d.toNat :: (List.range 3).map (fun i => o.a.toNat + i)

def rcqBody (o : OwnOp) (l : Lane) (s : State) : LaneEnd :=
  let r := l.radianceQuery s o
  .go (l.defer s o.ctl.fl [(o.d.toNat, r.1)] [(o.c.toNat % 16, r.2)] 0 none none .b8)

def execRcq (o : OwnOp) (s : State) : Host.Outcome State Fault Refusal :=
  issue (mainChecks (.rcq o) o.ctl (rcqRegs o)) (rcqBody o) s

/-! ## Samples (R318) -/

/-- A sample that may be enqueued: target and weight finite, weight above zero. -/
def sampleOk (w : Word) : Bool :=
  let v (i : Nat) : FVal := decodeF .f16 (fld w (16 * i) 16)
  !((List.range 4).any (fun i => (v i).unbounded)) && match v 3 with
    | .fin n _ _ => !n
    | _ => false

/-- What a result waits for whose pd a sample decides: above every accelerator ID, and the command's number. -/
def sampleAwait (n id : Nat) : Nat × Nat × BitVec 16 := (1024 + n, 0, BitVec.ofNat 16 id)

def rcqtBody (o : OwnOp) (l : Lane) (s : State) : LaneEnd :=
  let r := l.radianceQuery s o
  let q (i : Nat) : Word := l.regN s (o.a.toNat + i)
  let later (s : State) (pd : Bool) (await : Option (Nat × Nat × BitVec 16)) : State :=
    l.defer s o.ctl.fl [(o.d.toNat, r.1)] [(o.c.toNat % 16, pd)] 0 none await .b8
  if !r.2 || l.helper s || !sampleOk (l.reg s o.b) then .go (later s false none)
  else
    let id := (s.group l.c (l.fibre s).gslot).nextCmd
    .go (l.command (later s true (some (sampleAwait (slotNo o) id))) 6 false (.sample (slotNo o) [q 0, q 1, q 2, l.reg s o.b]))

def execRcqt (o : OwnOp) (s : State) : Host.Outcome State Fault Refusal :=
  issue (mainChecks (.rcqt o) o.ctl (rcqRegs o ++ [o.b.toNat])) (rcqtBody o) s

/-- The result of a sample's lane no longer waits; pd is cleared where the sample was not taken. -/
def State.answerSample (s : State) (c g n id : Nat) (taken : Bool) : State :=
  s.updCore c (fun k => { k with fibres := k.fibres.map (fun (f : Nat × Fibre) =>
    if f.2.gslot = g then
      (f.1, { f.2 with pending := f.2.pending.map (fun p =>
        if p.await == some (sampleAwait n id) then
          { p with await := none, preds := if taken then p.preds else p.preds.map (fun x => (x.1, false)) } else p) })
    else f) })

/-- The sample of a command enters its training queue, or is dropped. -/
def State.sampleStep (s : State) (c g : Nat) (x : Command) (n : Nat) (words : List Word) : State :=
  let net := s.net n
  let own := s.served n (s.group c g).ctx
  let full := decide (65536 ≤ net.queue.length)
  let s :=
    if !own then s
    else if full then s.setNet n { net with dropped := min (2 ^ 64 - 1) (net.dropped + 1) }
    else s.setNet n { net with queue := net.queue ++ [words] }
  (s.answerSample c g n x.id (own && !full)).updCommand c g x.id (fun y => { y with done := true })

/-! ## Publication (R319) -/

/-- The graphics queue of a lane's group holds nothing. -/
def Lane.graphicsFree (l : Lane) (s : State) : Bool := ((s.groupOf l.c l.p).queues.getD 6 []).isEmpty

/-- RCFLIP at its acceptance: the weights of the last whole step are what every die will switch to. -/
def rcflipBody (o : OwnOp) (l : Lane) (s : State) : LaneEnd :=
  let n := slotNo o
  let x := s.net n
  let g := (l.fibre s).gslot
  if !(flag x.reg 15 && fld x.reg 0 12 == (l.ctx s).toNat) then .go (s.raiseDue l.c l.p rangeTrap none)
  else if x.pend.isSome || !l.graphicsFree s then .stall
  else
    let s := s.enqueue l.c g 6 l.p (.flip n) s.gtb
    if (s.die (fld x.reg 12 2)).dead then .go s
    else
      let r : AMap (BitVec 16) := (List.range netWords).map (fun i => (i, x.publish i))
      .go (s.setNet n { x with incoming := (List.range 4).map (fun d => (d, r)) })

def execRcflip (o : OwnOp) (s : State) : Host.Outcome State Fault Refusal :=
  issueAccept (.rcflip o) (checksOf (.rcflip o) o.ctl []) (rcflipBody o) s

/-- RCFLIP_ACCEPT. -/
def execRcflipAccept (core slot : Nat) (s : State) : Host.Outcome State Fault Refusal :=
  match s.nextAccept core slot (fun i => match i with
    | .rcflip _ => true
    | _ => false) with
  | some (n, .rcflip o, p) => .next (s.acceptLane core n p (checksOf (.rcflip o) o.ctl []) (rcflipBody o))
  | _ => .next s

/-- Dies switch to the published weights, each in one moment; the command's accesses are performed with the last. -/
def State.flipStep (s : State) (c g : Nat) (x : Command) (n : Nat) : State :=
  let net := s.net n
  let go := net.incoming.filter (fun d => s.coin d.1 11)
  let s := s.setNet n { net with
    incoming := net.incoming.filter (fun d => !s.coin d.1 11),
    replicas := go.foldl (fun m d => AMap.put m d.1 d.2) net.replicas }
  if (s.net n).incoming.isEmpty then s.updCommand c g x.id (fun y => { y with done := true }) else s

end Sys2Proof.Machine
end

