-- ==== Sys2Proof/Machine/Queue.lean ====
section
/-! DEFINITION. QPUSH and QPOP (R320 to R323). -/

namespace Sys2Proof.Machine

/-- The trap of record registers outside the window (R321). -/
def windowTrapOf (f : Fibre) (base n : Nat) : Option Trap :=
  (f.missing ((List.range n).map (fun i => base + i))).map (fun k => { code := .window, info0 := wd k, info1 := 0 })

/-- TRY. -/
def tryBit (o : OwnOp) : Bool := o.mod.getLsbD 0

/-- The grid of a lane has pushed as many records as AMPL_BUDGET allowed it (R323). -/
def Lane.overBudget (l : Lane) (s : State) : Bool :=
  !isControl l.c && match s.grid (s.groupOf l.c l.p).grid with
    | some g => g.budget.any (fun b => decide (b ≤ g.pushes))
    | none => false

/-- A lane that finds the queue full, or empty, parks under a queue token (R322): one to push waits with `k` a write, one to pop
with a read. -/
def parkOnQueue (s : State) (hva : Word) (k : AccessKind) : LaneEnd := .stop s (.park .queue hva hva) k

/-- One lane of QPUSH, its earlier accesses pushed. -/
def qpushBody (o : OwnOp) (l : Lane) (s : State) : LaneEnd :=
  let pd := o.c.toNat % 16
  let hva := l.reg s o.a
  let g := (s.groupOf l.c l.p).grid
  if l.helper s then .go (l.putPred s pd false)
  else if l.overBudget s then
    .go ((l.putPred s pd false).updGrid g (fun x => { x with drops := x.drops + 1, ampl := true }))
  else
    let take (n : Nat) : Except Trap (List Word) :=
      match windowTrapOf (l.fibre s) o.b.toNat n with
      | some t => .error t
      | none => .ok ((List.range n).map (fun i => l.regN s (o.b.toNat + i)))
    match s.queuePush (Via.of l.c) (l.ctx s) hva take with
    | .done s _ t _ =>
      let s := if isControl l.c then s else s.updGrid g (fun x => { x with pushes := x.pushes + 1 })
      .go (l.putPred (l.noteTc s t) pd true)
    | .blocked s _ => if tryBit o then .go (l.putPred s pd false) else parkOnQueue s hva .write
    | .stop s x => .stop s x .atomic

def qpushKb (o : OwnOp) : Checks × (Lane → State → LaneEnd) :=
  (checksOf (.qpush o) o.ctl [o.a.toNat, o.b.toNat], qpushBody o)

def execQpush (o : OwnOp) (s : State) : Host.Outcome State Fault Refusal :=
  issueRelease (.qpush o) (qpushKb o).1 (qpushKb o).2 s

/-- One lane of QPOP. -/
def qpopBody (o : OwnOp) (l : Lane) (s : State) : LaneEnd :=
  let pd := o.c.toNat % 16
  let hva := l.reg s o.a
  let check (h : QueueHead) : Option Trap :=
    if h.bound then some { code := .queueFault, info0 := hva, info1 := 0 } else windowTrapOf (l.fibre s) o.d.toNat h.regs
  let give (s : State) (ws : List Word) (b : Bool) : LaneEnd :=
    .go (l.defer s o.ctl.fl (blockRegs o.d ws.length ws) [(pd, b)] 0 none none .b8)
  match (s.settleFibre l.c l.p).queuePop (Via.of l.c) (l.ctx s) hva check with
  | .done s ws t _ => give (l.noteTc s t) ws true
  | .blocked s h => if tryBit o then give s (List.replicate h.regs 0) false else parkOnQueue s hva .read
  | .stop s x => .stop s x .atomic

def execQpop (o : OwnOp) (s : State) : Host.Outcome State Fault Refusal :=
  issue (checksOf (.qpop o) o.ctl [o.d.toNat, o.a.toNat]) (qpopBody o) s

end Sys2Proof.Machine
end

