-- ==== Sys2Proof/Machine/Raster.lean ====
section
/-! DEFINITION. Rasterisation (R324, R325, R356 to R359): RCLS, RSUB, the consumption of submissions by the dies, occlusion
records and lost links. -/

namespace Sys2Proof.Machine

/-! ## RCLS (R324) -/

/-- RCLS_THRESH of a context. -/
def State.thresh (s : State) (ctx : BitVec 12) : F32 := AMap.getD s.regs.rclsThresh ctx.toNat 0x42000000

/-- Coordinates of a vertex word. -/
def vx (w : Word) : F32 := BitVec.ofNat 32 (fld w 0 32)
def vy (w : Word) : F32 := BitVec.ofNat 32 (fld w 32 32)

/-- The signed area of a triangle. -/
def signedArea (v0 v1 v2 : Word) : F32 :=
  let e1x := f32Sub (vx v1) (vx v0)
  let e1y := f32Sub (vy v1) (vy v0)
  let e2x := f32Sub (vx v2) (vx v0)
  let e2y := f32Sub (vy v2) (vy v0)
  f32Mul (f32Fma e1x e2y (f32Neg (f32Mul e2x e1y))) 0x3F000000

def rclsBody (o : OwnOp) (l : Lane) (s : State) : LaneEnd :=
  let v (i : Nat) : Word := l.regN s (o.a.toNat + i)
  let a := signedArea (v 0) (v 1) (v 2)
  let t := l.put s o.ctl.t o.d (a.setWidth 64)
  .go (l.putPred t (o.c.toNat % 16) (f32Le (s.thresh (l.ctx s)) (a &&& 0x7FFFFFFF)))

def execRcls (o : OwnOp) (s : State) : Host.Outcome State Fault Refusal :=
  issue (checksOf (.rcls o) o.ctl (o.d.toNat :: (List.range 3).map (fun i => o.a.toNat + i))) (rclsBody o) s

/-! ## Raster targets (R356) -/

/-- A raster target's fields. -/
structure Target where
  vb    : Nat
  wid   : Nat
  hgt   : Nat
  oq    : Nat
  abort : Bool
  deriving DecidableEq, Repr

/-- No reserved bit is set. -/
def targetOk (d : List Word) : Bool :=
  let w (i : Nat) : Word := d.getD i 0
  zeroBits (w 0) 57 7 && zeroBits (w 0) 0 6 && zeroBits (w 1) 32 32 && zeroBits (w 2) 57 7 && zeroBits (w 2) 1 5
    && (d.drop 4).all (· == 0)

def targetOf_ (d : List Word) : Target :=
  let w (i : Nat) : Word := d.getD i 0
  { vb := fld (w 0) 6 51 * 64, wid := fld (w 1) 0 16 + 1, hgt := fld (w 1) 16 16 + 1, oq := fld (w 2) 6 51 * 64, abort := flag (w 2) 0 }

/-- The places of a target's eight words, in the PACKAGE domain. -/
def State.targetPlaces (s : State) (d : Nat) (ctx : BitVec 12) (va : Word) : Nat → State × Except AccessStop (List Place)
  | 0 => (s, .ok [])
  | n + 1 =>
    match s.enginePlace (Via.dev d) ctx va 8 .atomic false with
    | (s, .error x) => (s, .error x)
    | (s, .ok p) =>
      if p.dom != .package then (s, .error (trap0 .protection va))
      else match State.targetPlaces s d ctx (va + 8) n with
        | (s, .error x) => (s, .error x)
        | (s, .ok ps) => (s, .ok (p :: ps))

/-- A target's words, read by an agent of a die. -/
def State.readTarget (s : State) (d : Nat) (ctx : BitVec 12) (va : Word) : State × Except AccessStop (List Place × List Word) :=
  if va.toNat % 64 ≠ 0 then (s, .error (trap0 .protection va))
  else match s.targetPlaces d ctx va 8 with
    | (s, .error x) => (s, .error x)
    | (s, .ok ps) =>
      let r := s.readPlaces (Via.dev d) ctx ps
      (r.1, .ok (ps, r.2))

/-- The visibility buffer of a target lies in the PACKAGE domain, granule by granule (R29, R356). -/
def State.bufferOk (s : State) (d : Nat) (ctx : BitVec 12) (t : Target) : State × Bool :=
  let first := t.vb / 2 ^ 21
  let last := (t.vb + 8 * t.wid * t.hgt - 1) / 2 ^ 21
  (List.range (last + 1 - first)).foldl (fun (r : State × Bool) i =>
    let x := r.1.regionAt d ctx ((first + i) * 2 ^ 21)
    (x.1, r.2 && x.2 == .package)) (s, true)

/-! ## Coverage and depth (R358) -/

/-- A coordinate in 1/256 pixel; none where it is NaN or too large. -/
def snap (x : F32) : Option Int :=
  match f32Val x with
  | .zero _ => some 0
  | .fin n m e => if f32Le 0x4B000000 (x &&& 0x7FFFFFFF) then none else some (toInteger .rne n m (e + 8)).1
  | _ => none

/-- The three vertices in 1/256 pixel. -/
def snapAll (vs : List Word) : Option (List (Int × Int)) :=
  (vs.take 3).foldr (fun v (acc : Option (List (Int × Int))) =>
    match snap (vx v), snap (vy v), acc with
    | some x, some y, some l => some ((x, y) :: l)
    | _, _, _ => none) (some [])

/-- The edge from `a` to `b` at point `p`. -/
def edgeFn (a b p : Int × Int) : Int := (b.1 - a.1) * (p.2 - a.2) - (b.2 - a.2) * (p.1 - a.1)

/-- An inclusive edge. -/
def inclusive (a b : Int × Int) : Bool := decide (b.2 < a.2) || (b.2 == a.2 && decide (a.1 < b.1))

/-- A signed integer as FP32, by RNE. -/
def intF32 (x : Int) : F32 := BitVec.ofNat 32 (roundInt .f32 .rne false false x 0).1

/-- The depth of a covered pixel; none where the triangle does not cover its centre or z lies outside [0, 1]. The edges are
1→2, 2→0 and 0→1. -/
def pixelDepth (ps : List (Int × Int)) (zs : List F32) (x y : Nat) : Bool × Option F32 :=
  let p : Int × Int := (256 * x + 128, 256 * y + 128)
  let v (i : Nat) : Int × Int := ps.getD (i % 3) (0, 0)
  let e := (List.range 3).map (fun k => edgeFn (v (k + 1)) (v (k + 2)) p)
  let area := e.getD 0 0 + e.getD 1 0 + e.getD 2 0
  let e := if area < 0 then e.map (fun x => -x) else e
  let area := if area < 0 then -area else area
  let inside := (List.range 3).all (fun k => decide (0 < e.getD k 0) || (e.getD k 0 == 0 && inclusive (v (k + 1)) (v (k + 2))))
  if area = 0 ∨ !inside then (false, none)
  else
    let b (k : Nat) : F32 := f32Div (intF32 (e.getD k 0)) (intF32 area)
    let z := f32Fma (b 2) (comp zs 2) (f32Fma (b 1) (comp zs 1) (f32Mul (b 0) (comp zs 0)))
    (true, if f32Le 0 z && f32Le z f32One then some z else none)

/-- The pixels of a target that a triangle's bounding box meets. -/
def boxPixels (t : Target) (ps : List (Int × Int)) : List (Nat × Nat) :=
  let span (f : Int × Int → Int) (n : Nat) : List Nat :=
    let vs := ps.map f
    let lo := ((vs.foldl min (vs.headD 0) - 128) / 256).toNat
    let hi := ((vs.foldl max (vs.headD 0)) / 256 + 1).toNat
    (List.range (min n (hi + 1) - lo)).map (· + lo)
  (span (fun v => v.2) t.hgt).flatMap (fun y => (span (fun v => v.1) t.wid).map (fun x => (x, y)))

/-- The covered pixels of a submission, with z where it is in range. -/
def coveredPixels (t : Target) (verts : List Word) : List (Nat × Nat × Option F32) :=
  match snapAll verts with
  | none => []
  | some ps =>
    let w3 := verts.getD 3 0
    let zs := [vx w3, vy w3, vx (verts.getD 4 0)]
    (boxPixels t ps).filterMap (fun q =>
      match pixelDepth ps zs q.1 q.2 with
      | (true, z) => some (q.1, q.2, z)
      | _ => none)

/-- The die that owns the tile of a pixel (R357). -/
def tileOwner (x y : Nat) : Nat := (x / 64 + y / 64) % 4

/-- PRIM of a submission; bit 31 makes it an occlusion proxy. -/
def primOf (verts : List Word) : Nat := fld (verts.getD 4 0) 32 32

/-! ## Occlusion records (R359) -/

/-- A submission changes. -/
def State.updSub (s : State) (id : Nat) (f : Submission → Submission) : State :=
  { s with subs := s.subs.map (fun (x : Submission) => if x.id = id then f x else x) }

/-- A submission whose command is not needed any more leaves. -/
def State.settleSub (s : State) (id : Nat) : State :=
  { s with subs := s.subs.filter (fun x => !(x.id == id && x.todo.isEmpty && (x.pushed || decide (primOf x.verts < 2 ^ 31)))) }

/-- OQDROP of a target counts a dropped record; or the page of the descriptor stops it. -/
def State.oqDrop (s : State) (d : Nat) (x : Submission) : State × Option AccessStop :=
  match s.readTarget d x.ctx x.target with
  | (s, .ok (ps, w)) =>
    ((s.writePlaces (Via.dev d) x.ctx ((ps.drop 3).take 1 |>.map (fun p => (p, setFld (w.getD 3 0) 0 32 (fld (w.getD 3 0) 0 32 + 1))))).1, none)
  | (s, .error y) => (s, some y)

/-- The record of a proxy that every owning die has consumed is pushed to OQ, or dropped. A page that is not present makes the
push, or the count of the drop, wait. A descriptor that no agent can reach any more counts no drop. -/
def State.pushOcclusion (s : State) (x : Submission) : State :=
  let d := s.liveDie
  let closed (s : State) : State := (s.updSub x.id (fun y => { y with pushed := true })).settleSub x.id
  let waits (s : State) (kind : TokenKind) (key va : Word) (k : AccessKind) : State :=
    if (s.die d).wait.any (fun (e : Nat × WaitEntry) => e.2.kind == kind && e.2.ctx == x.ctx && e.2.key == key) then s
    else match s.joinWait d kind x.ctx key va (.ended x.issuer.1 x.issuer.2.1 0) true k 0 with
      | some (s, _) => s
      | none => s
  let drop (s : State) : State :=
    match s.oqDrop d x with
    | (s, some (.park kind key va)) => waits s kind key va .atomic
    | (s, some .wait) => s
    | (s, _) => closed s
  let record : List Word := [wd (primOf x.verts + x.seq.toNat * 2 ^ 32), wd x.count]
  let wrong : Trap := { code := .queueFault, info0 := 0, info1 := 0 }
  let oq := wd (targetOf_ x.desc).oq
  if oq = 0 then drop s
  else match s.queuePush (Via.dev d) x.ctx oq (fun n => if n = 2 then .ok record else .error wrong) with
    | .done s _ _ _ => closed s
    | .blocked s _ => drop s
    | .stop s (.trap _) => drop s
    | .stop s (.park kind key va) => waits s kind key va .write
    | .stop s .wait => s

/-! ## RSUB (R325, R357) -/

/-- Every access of the earlier commands of the group's graphics queue is performed, and none of them is a join (R102). -/
def Lane.queueClear (l : Lane) (s : State) : Bool := ((s.groupOf l.c l.p).queues.getD 6 []).all (fun x => x.done)

/-- A submission that is accepted: it takes SEQ, and goes to the dies that own a covered tile. A proxy that covers
no pixel has its record pushed at once (R359). -/
def State.submit (s : State) (l : Lane) (target : Word) (verts : List Word) (ps : List Place) (d : List Word) : State :=
  let g := (l.fibre s).gslot
  let ctx := l.ctx s
  let seq := fld (d.getD 3 0) 32 32
  let w := s.writePlaces (Via.dev (dieOf l.c)) ctx ((ps.drop 3).take 1 |>.map (fun p => (p, setFld (d.getD 3 0) 32 32 (seq + 1))))
  let s := w.1
  let todo := ((coveredPixels (targetOf_ d) verts).map (fun q => tileOwner q.1 q.2.1)).eraseDups
  let id := (s.group l.c g).nextCmd
  let s := s.enqueue l.c g 6 l.p (.rsub target verts) s.gtb
  let s := s.updCommand l.c g id (fun y => { y with wtc := w.2 })
  let x : Submission :=
    { id := s.nextSub, ctx := ctx, target := target, pa := (ps.map (fun p => p.pa)).headD 0, desc := d, seq := BitVec.ofNat 32 seq,
      verts := verts, todo := todo, did := [], count := 0, pushed := false, issuer := (l.c, g, id), place := l.p }
  let who : (BitVec 12 × Word × Nat) × (Nat × Nat × Nat) := ((ctx, target, x.pa), (l.c, g, l.p))
  let s := { s with
    nextSub := s.nextSub + 1, subs := s.subs ++ [x],
    submitters := if who ∈ s.submitters then s.submitters else s.submitters ++ [who] }
  let s := if todo.isEmpty then
      let s := s.updCommand l.c g id (fun y => { y with done := true })
      if primOf verts < 2 ^ 31 then s.settleSub x.id else s.pushOcclusion x
    else s
  if todo.any (fun k => (s.die k).dead) then s.abortFrame ctx target else s

/-- RSUB at its acceptance. -/
def rsubBody (o : OwnOp) (l : Lane) (s : State) : LaneEnd :=
  let target := l.reg s o.a
  let verts := (List.range 5).map (fun i => l.regN s (o.b.toNat + i))
  let fails (s : State) (t : Trap) : LaneEnd := .go (s.raiseDue l.c l.p t none)
  if !l.queueClear s then .stall
  else match s.readTarget (dieOf l.c) (l.ctx s) target with
    | (s, .error (.trap t)) => fails s t
    | (s, .error x) => .stop s x .atomic
    | (s, .ok (ps, d)) =>
      if !targetOk d then fails s { code := .protection, info0 := target, info1 := 0 }
      else if (targetOf_ d).abort then fails s { code := .rasterLinkLost, info0 := target, info1 := 0 }
      else match s.bufferOk (dieOf l.c) (l.ctx s) (targetOf_ d) with
        | (s, true) => .go (s.submit l target verts ps d)
        | (s, false) => fails s { code := .protection, info0 := target, info1 := 0 }

/-- The registers of RSUB. -/
def rsubRegs (o : OwnOp) : List Nat := o.a.toNat :: (List.range 5).map (fun i => o.b.toNat + i)

def execRsub (o : OwnOp) (s : State) : Host.Outcome State Fault Refusal :=
  issueAccept (.rsub o) (checksOf (.rsub o) o.ctl (rsubRegs o)) (rsubBody o) s

/-- RSUB_ACCEPT: the descriptor's home die accepts the next lane's submission. -/
def execRsubAccept (core slot : Nat) (s : State) : Host.Outcome State Fault Refusal :=
  match s.nextAccept core slot (fun i => match i with
    | .rsub _ => true
    | _ => false) with
  | some (n, .rsub o, p) => .next (s.acceptLane core n p (checksOf (.rsub o) o.ctl (rsubRegs o)) (rsubBody o))
  | _ => .next s

/-! ## RSUB_CONSUME (R357 to R359) -/

/-- The pixel word of a submission. -/
def pixelWord (z : F32) (prim : Nat) : Nat := z.toNat * 2 ^ 32 + prim

/-- The pixel operation of a die on one covered pixel: what a proxy counts and the completion time, or how the die stops. -/
def State.pixel (s : State) (d : Nat) (x : Submission) (q : Nat × Nat × Option F32) : State × Except AccessStop (Nat × Word) :=
  match q.2.2 with
  | none => (s, .ok (0, 0))
  | some z =>
    let t := targetOf_ x.desc
    let va := wd (t.vb + 8 * (q.1 + t.wid * q.2.1))
    let proxy := decide (2 ^ 31 ≤ primOf x.verts)
    match s.enginePlace (Via.dev d) x.ctx va 8 (if proxy then .read else .atomic) false with
    | (s, .error y) => (s, .error y)
    | (s, .ok p) =>
      if p.dom != .package then (s, .error (trap0 .protection va))
      else
        let r := s.devRead p.pa 8
        let v := pixelWord z (primOf x.verts)
        if proxy then (r.1, .ok (if r.2 < v then 1 else 0, 0))
        else if r.2 < v then
          let w := r.1.viaWrite (Via.dev d) x.ctx p 8 v
          (w.1, .ok (0, w.2))
        else (r.1, .ok (0, 0))

/-- The covered pixels of a submission that a die owns and has not performed, by number. -/
def Submission.left (x : Submission) (d : Nat) : List (Nat × (Nat × Nat × Option F32)) :=
  let all := coveredPixels (targetOf_ x.desc) x.verts
  ((List.range all.length).zip all).filter (fun q => tileOwner q.2.1 q.2.2.1 == d && !decide (q.1 ∈ x.did))

/-- A die that consumes a submission performs one more of its pixels, in no fixed order; with the last, it has consumed it. -/
def State.consume (s : State) (d : Nat) (x : Submission) : State :=
  let c := x.issuer.1
  let g := x.issuer.2.1
  let k := x.issuer.2.2
  let left := x.left d
  let ends (s : State) (x : Submission) : State :=
    let rest := x.todo.filter (· != d)
    let s := s.updSub x.id (fun y => { y with todo := rest })
    (if rest.isEmpty then s.updCommand c g k (fun y => { y with done := true, retry := none }) else s).settleSub x.id
  match left[Config.freeNat s.freeCtr (40 + d) % left.length]? with
  | none => ends s x
  | some (i, q) =>
    match s.pixel d x q with
    | (s, .error (.trap t)) =>
      let s := s.failCommand c g k t
      { s with subs := s.subs.filter (fun y => y.id != x.id) }
    | (s, .error (.park kind key va)) => s.stopWrite c g k 0 (.park kind key va) .atomic
    | (s, .error .wait) => s
    | (s, .ok (n, tc)) =>
      let y : Submission := { x with did := x.did ++ [i], count := x.count + n }
      let s := s.updSub x.id (fun _ => y)
      let s := s.updCommand c g k (fun k => { k with wtc := later k.wtc tc })
      if left.length = 1 then ends s y else s

/-- RSUB_CONSUME: a die goes on with a submission, the lowest number of its target that it has not consumed. -/
def execRsubConsume (die sub : Nat) (s : State) : Host.Outcome State Fault Refusal :=
  match s.subs.find? (fun x => x.id == sub) with
  | none => .next s
  | some x =>
    let first := s.subs.find? (fun y => sameTarget x.ctx x.target (some x.pa) y.ctx y.target y.pa && decide (die ∈ y.todo))
    let paused := (s.commandOf x.issuer.1 x.issuer.2.1 x.issuer.2.2).any (fun y => y.paused.isSome)
    if first.any (fun y => y.id == sub) && !paused then .next (s.consume die x) else .next s

/-- OCCLUSION_RECORD (R359): a proxy whose record is not pushed yet. -/
def execOcclusionRecord (sub : Nat) (s : State) : Host.Outcome State Fault Refusal :=
  match s.subs.find? (fun x => x.id == sub) with
  | none => .next s
  | some x =>
    if x.pushed || !x.todo.isEmpty || decide (primOf x.verts < 2 ^ 31) then .next s else .next (s.pushOcclusion x)

/-- RASTER_LINK_LOSS: the target's frame is aborted. -/
def execRasterLinkLoss (ctx : BitVec 12) (target : Word) (s : State) : Host.Outcome State Fault Refusal :=
  .next (s.abortFrame ctx target)

end Sys2Proof.Machine
end

