-- ==== Sys2Proof/Machine/Texture.lean ====
section
/-! DEFINITION. Texture sampling (R326, R327). -/

namespace Sys2Proof.Machine

/-- A texture descriptor's fields. -/
structure Texture where
  base : Nat
  fmt  : Nat
  lm1  : Nat
  hgt  : Nat
  wid  : Nat
  deriving DecidableEq, Repr

/-- A descriptor; none where it holds a reserved value. -/
def textureOf (d : List Word) : Option Texture :=
  let w (i : Nat) : Word := d.getD i 0
  if zeroBits (w 0) 57 7 && zeroBits (w 0) 0 8 && zeroBits (w 1) 40 24 && decide (fld (w 1) 36 4 < 3) && w 2 == 0 && w 3 == 0 then
    some { base := fld (w 0) 8 49 * 256, fmt := fld (w 1) 36 4, lm1 := fld (w 1) 32 4, hgt := fld (w 1) 16 16 + 1, wid := fld (w 1) 0 16 + 1 }
  else none

/-- Bytes of a texel. -/
def texelSize (fmt : Nat) : Nat := if fmt = 1 then 8 else 4

/-- Width and height of a level. -/
def levelSize (t : Texture) (l : Nat) : Nat × Nat := (max 1 (t.wid / 2 ^ l), max 1 (t.hgt / 2 ^ l))

/-- Where a level starts, from the base. -/
def levelStart (t : Texture) : Nat → Nat
  | 0 => 0
  | l + 1 => (levelStart t l + texelSize t.fmt * (levelSize t l).1 * (levelSize t l).2 + 255) / 256 * 256

/-- The level that a LOD selects. -/
def levelOf (t : Texture) (lod : F32) : Nat := (cvtFI .f32 .rne 0 t.lm1 lod.toNat).1.toNat

/-- floor as FP32, and as an integer; no integer for an infinity. -/
def floorF (x : F32) : F32 × Option Int :=
  match f32Val x with
  | .fin n m e => let k := (toInteger .rdn n m e).1; (intF32 k, some k)
  | .zero _ => (x, some 0)
  | _ => (x, none)

/-- A texel index wrapped: 0 CLAMP, 1 REPEAT, 2 MIRROR. An index beyond every number is the edge under CLAMP, and is not stated
otherwise (log entry 7). -/
def wrapIndex (wrap size ctr k : Nat) (neg : Bool) (i : Option Int) : Nat :=
  match i with
  | some i =>
    match wrap with
    | 0 => min (size - 1) i.toNat
    | 1 => (i % size).toNat
    | _ => let m := (i % (2 * size : Nat)).toNat; if m < size then m else 2 * size - 1 - m
  | none => if wrap = 0 then (if neg then 0 else size - 1) else Config.freeNat ctr (7000 + k) % size

/-- The four channels of a texel. -/
def decodeTexel (fmt v : Nat) : List F32 :=
  match fmt with
  | 0 => (List.range 4).map (fun i => f32Div (natF32 (bitsAt v (8 * i) 8)) (natF32 255))
  | 1 => (List.range 4).map (fun i => h2f (bitsAt v (16 * i) 16))
  | _ => [BitVec.ofNat 32 v, 0, 0, f32One]

/-- Texels read by plain loads of the fibre. -/
def Lane.texels (l : Lane) (n : Nat) : List Word → State → State × Except AccessStop (List Nat)
  | [], s => (s, .ok [])
  | a :: as, s =>
    match s.resolve l.c (l.ctx s) a n .read none true with
    | (s, .error x) => (s, .error x)
    | (s, .ok p) =>
      let r := l.loadAt s p a n false
      match Lane.texels l n as r.1 with
      | (s, .error x) => (s, .error x)
      | (s, .ok vs) => (s, .ok (r.2 :: vs))

/-- A coordinate; NaN is taken as 0. -/
def coordinate (x : F32) : F32 := if (f32Val x).notNumber then 0 else x

/-- lerp. -/
def lerp (x y a : F32) : F32 := f32Fma a (f32Sub y x) x

/-- Texel indices along one axis and the weight between them: one index without BIL. -/
def axisTexels (bil : Bool) (wrap size ctr k : Nat) (x : F32) : List Nat × F32 :=
  let m := f32Mul (coordinate x) (natF32 size)
  if bil then
    let s := f32Sub m 0x3F000000
    let f := floorF s
    let at_ (d : Int) (k : Nat) : Nat := wrapIndex wrap size ctr k (f32Lt s 0) (f.2.map (· + d))
    ([at_ 0 k, at_ 1 (k + 1)], f32Sub s f.1)
  else ([wrapIndex wrap size ctr k (f32Lt m 0) (floorF m).2], 0)

/-- The texel that a lane of TEXS samples, as four FP16 channels, or how its accesses stop. -/
def Lane.texture (l : Lane) (s : State) (o : OwnOp) : State × Except AccessStop Word :=
  let va := l.reg s o.b
  let bil := o.mod.getLsbD 0
  let wrap := o.mod.toNat / 2 % 4
  if va.toNat % 32 ≠ 0 then (s, .error (trap0 .misaligned va))
  else match l.readWords va 4 s with
    | (s, .error x) => (s, .error x)
    | (s, .ok d) =>
      match textureOf d with
      | none => (s, .error (trap0 .protection va))
      | some t =>
        let lvl := levelOf t (BitVec.ofNat 32 (fld (l.reg s o.c) 0 32))
        let z := levelSize t lvl
        let n := texelSize t.fmt
        let xs := axisTexels bil wrap z.1 s.freeCtr (4 * l.p) (vx (l.reg s o.a))
        let ys := axisTexels bil wrap z.2 s.freeCtr (4 * l.p + 2) (vy (l.reg s o.a))
        let addrs := ys.1.flatMap (fun y => xs.1.map (fun x => wd (t.base + levelStart t lvl + n * (x + z.1 * y))))
        match l.texels n addrs s with
        | (s, .error x) => (s, .error x)
        | (s, .ok vs) =>
          let c := vs.map (decodeTexel t.fmt)
          let ch (i : Nat) : F32 :=
            let at_ (k : Nat) : F32 := comp (c.getD k []) i
            if bil then lerp (lerp (at_ 0) (at_ 1) xs.2) (lerp (at_ 2) (at_ 3) xs.2) ys.2 else at_ 0
          (s, .ok (wd ((List.range 4).foldl (fun acc i => acc + f2h false (ch i) * 2 ^ (16 * i)) 0)))

/-- One lane of TEXS. -/
def texsBody (o : OwnOp) (l : Lane) (s : State) : LaneEnd :=
  match l.texture (s.settleFibre l.c l.p) o with
  | (s, .error x) => .stop s x .read
  | (s, .ok v) => .go (l.defer s o.ctl.fl [(o.d.toNat, v)] [] 0 none none .b8)

def execTexs (o : OwnOp) (s : State) : Host.Outcome State Fault Refusal :=
  issue (mainChecks (.texs o) o.ctl (regsDABC o.d o.a o.b o.c)) (texsBody o) s

end Sys2Proof.Machine
end

