-- ==== Sys2Proof/Machine/System.lean ====
section
/-! DEFINITION. Cache maintenance, time, event counts, control registers and HALT (R55 to R59, R331 to R336). -/

namespace Sys2Proof.Machine

/-! ## Maintenance (R58, R59, R331) -/

/-- The physical lines of one line of addresses: packed lines of a formatted page, none of an uncached one. -/
def State.linesAt (s : State) (c : Nat) (ctx : BitVec 12) (va : Word) : State × Except AccessStop (List Nat) :=
  match s.translateVia (Via.of c) ctx va.toNat false with
  | (s, .error x) => (s, .error (s.xstop va x))
  | (s, .ok e) =>
    if !permits (s.user ctx) .read e then (s, .error (trap0 .protection va))
    else if e.uncached then (s, .ok [])
    else if e.kind = 1 then
      match s.versionPlace (dieOf c) ctx va e false none with
      | (s, .error x) => (s, .error x)
      | (s, .ok pa) => (s, .ok [pa / 128])
    else if e.kind = 2 then
      let es := (List.range 32).map (fun i => va.toNat % 65536 / 4 + i)
      let data := es.map (fun k => (e.addr + (elemBits e.efmt k).1 / 8) / 128)
      let scales := if e.efmt = 7 then es.map (fun k => (e.addr + scaleByte e.geom k) / 128) else []
      (s, .ok (data ++ scales).eraseDups)
    else (s, .ok [e.pa va.toNat / 128])

/-- Lines of addresses in turn, from line `i`: each is maintained, up to the first that stops. -/
def State.overLines (s : State) (c : Nat) (ctx : BitVec 12) (act : State → Nat → State) (i : Nat) :
    Nat → State × Option (AccessStop × Nat)
  | 0 => (s, none)
  | n + 1 =>
    match s.linesAt c ctx (wd (i * 128)) with
    | (s, .error x) => (s, some (x, i))
    | (s, .ok ls) => State.overLines (ls.foldl act s) c ctx act (i + 1) n

/-- The line of addresses at which a maintenance word begins: its range's first, or where it parked (R59). -/
def Fibre.maintFrom (f : Fibre) (pc : BitVec 48) (first : Nat) : Nat :=
  match f.maint with
  | some (q, i) => if q = pc then max i first else first
  | none => first

/-- One lane of CWB, CINV or IINV: the fibre's own earlier accesses are performed first. -/
def maintBody (o : OwnOp) (act : Lane → State → Nat → State) (l : Lane) (s : State) : LaneEnd :=
  let a := l.reg s o.a
  let n := (l.reg s o.b).toNat
  if n = 0 then .go s
  else if 2 ^ 57 < a.toNat + n then .trap s { code := .protection, info0 := a, info1 := 0 }
  else
    let s := s.settleFibre l.c l.p
    let first := (l.fibre s).maintFrom l.pc (a.toNat / 128)
    let keep (s : State) (m : Option (BitVec 48 × Nat)) : State := s.updFibre l.c l.p (fun f => { f with maint := m })
    match s.overLines l.c (l.ctx s) (act l) first ((a.toNat + n - 1) / 128 + 1 - first) with
    | (s, none) => .go (keep s none)
    | (s, some (x, i)) => .stop (keep s (some (l.pc, i))) x .read

/-- CWB of a line: its dirty words go towards their point of coherence, those of the CORE domain to the die L2 (R72, R89),
and the fibre keeps their completion time. -/
def Lane.writeBack (l : Lane) (s : State) (line : Nat) : State :=
  let r := s.pushWords l.c ((List.range 32).map (fun i => 32 * line + i))
  (l.noteTc r.1 r.2).updCore l.c (fun k => { k with pushTc := later k.pushTc r.2 })

def execCwb (o : OwnOp) (s : State) : Host.Outcome State Fault Refusal :=
  issue (checksOf (.cwb o) o.ctl [o.a.toNat, o.b.toNat]) (maintBody o Lane.writeBack) s

/-- CINV of a line: its clean words go. -/
def Lane.dropClean (l : Lane) (s : State) (line : Nat) : State :=
  match s.l1Line l.c line with
  | none => s
  | some x =>
    let y := x.onlyDirty
    s.updCore l.c (fun k => { k with l1 := if y.words.isEmpty then AMap.drop k.l1 line else AMap.put k.l1 line y })

def execCinv (o : OwnOp) (s : State) : Host.Outcome State Fault Refusal :=
  issue (checksOf (.cinv o) o.ctl [o.a.toNat, o.b.toNat]) (maintBody o Lane.dropClean) s

/-- IINV of a line: in the core's instruction cache, or in every core's of the die. -/
def iinvLine (die : Bool) (l : Lane) (s : State) (line : Nat) : State :=
  (if die then l.c :: coresOf (dieOf l.c) else [l.c]).foldl (fun (s : State) c =>
    if (AMap.find s.cores c).isSome then s.updCore c (fun k => { k with icache := AMap.drop k.icache line }) else s) s

def execIinv (o : OwnOp) (s : State) : Host.Outcome State Fault Refusal :=
  issue (checksOf (.iinv o) o.ctl [o.a.toNat, o.b.toNat]) (maintBody o (iinvLine (o.mod.getLsbD 0))) s

/-- FETCHB (R331): the fibre's fetch view goes. -/
def execFetchb (o : OwnOp) (s : State) : Host.Outcome State Fault Refusal :=
  issue (checksOf (.fetchb o) o.ctl []) (fun l s => .go (s.updFibre l.c l.p (fun f => { f with view := [] }))) s

/-! ## Time and counts (R332, R333) -/

/-- RDTIME: with ORD, once every earlier access of the fibre is performed, those at peers among them. -/
def rdtimeBody (o : OwnOp) (l : Lane) (s : State) : LaneEnd :=
  if o.mod.getLsbD 0 then
    if (l.fibre s).pending.any (fun x => x.await.isSome) || s.owesAck l.c l.p then .stall
    else .go (l.put (s.settleFibre l.c l.p) o.ctl.t o.d s.gtb)
  else .go (l.put s o.ctl.t o.d s.gtb)

def execRdtime (o : OwnOp) (s : State) : Host.Outcome State Fault Refusal :=
  issue (checksOf (.rdtime o) o.ctl [o.d.toNat]) (rdtimeBody o) s

/-- A count of a slot, for the context that owns it. -/
def State.slotCount (s : State) (n : Nat) (ctx : BitVec 12) (f : Net → Nat) : Nat :=
  let x := s.net n
  if flag x.reg 15 && fld x.reg 0 12 == ctx.toNat then f x else 0

/-- The count of an event. -/
def State.eventCount (s : State) (c : Nat) (ctx : BitVec 12) (e : Nat) : Nat :=
  let k := AMap.getD (s.core c).counters ctx.toNat Counters.zero
  match e with
  | 0 => 2 * s.gtb.toNat
  | 1 => k.words
  | 2 => k.selections
  | 3 => k.l1fills
  | 4 => k.tlbmiss
  | 5 => k.bankcyc
  | 8 => s.fabric.staleDrops.toNat
  | 9 => s.fabric.dupDrops.toNat
  | 10 => s.fabric.resends.toNat
  | 11 => s.fabric.biSent.toNat
  | 12 => s.slotCount 0 ctx (fun x => x.dropped)
  | 13 => s.slotCount 1 ctx (fun x => x.dropped)
  | 14 => s.slotCount 0 ctx (fun x => x.steps)
  | _ => s.slotCount 1 ctx (fun x => x.steps)

def perfrBody (o : OwnOp) (l : Lane) (s : State) : LaneEnd :=
  .go (l.put s o.ctl.t o.d (wd (min (2 ^ 64 - 1) (s.eventCount l.c (l.ctx s) (o.mod.toNat % 256)))))

def execPerfr (o : OwnOp) (s : State) : Host.Outcome State Fault Refusal :=
  issue { checksOf (.perfr o) o.ctl [o.d.toNat] with priv := decide (8 ≤ o.mod.toNat % 256) && decide (o.mod.toNat % 256 < 12) }
    (perfrBody o) s

/-! ## Control registers (R335) -/

/-- A register that a user context may name. -/
def userRegister (n : Nat) : Bool := n == 1 || n == 2 || n == 3

/-- The number that MTCR and MFCR name. -/
def crNo (o : OwnOp) : Nat := o.mod.toNat % 512

/-- LQ_TICKETS at reset: ANY and one ticket (R161). -/
def ticketsReset : Word := 0x1000_0001

/-- The value of a control register for a context. -/
def State.controlValue (s : State) (ctx : BitVec 12) (n : Nat) : Word :=
  match n with
  | 0 => wd s.regs.ageCap
  | 1 => AMap.getD s.regs.barLimit ctx.toNat 0
  | 2 => (s.thresh ctx).setWidth 64
  | 3 => (AMap.getD s.regs.amplBudget ctx.toNat 0).setWidth 64
  | 4 => wd s.regs.peerTimeout
  | 5 => s.regs.lottery.setWidth 64
  | 6 => wd s.regs.stagger
  | 16 => (s.net 0).adam
  | 17 => (s.net 1).adam
  | n => AMap.getD s.regs.tickets (n - 256) ticketsReset

/-- An FP16 pattern that is finite and above zero; one in (0, 1). -/
def halfPositive (x : Nat) : Bool := decide (0 < x) && decide (x < 0x7C00)
def halfFraction (x : Nat) : Bool := decide (0 < x) && decide (x < 0x3C00)

/-- Every field of a value written to a control register lies in its range. -/
def controlOk (n : Nat) (v : Word) : Bool :=
  let x := v.toNat
  match n with
  | 0 => decide (8 ≤ x) && decide (x ≤ 255)
  | 1 => true
  | 2 | 3 => decide (x < 2 ^ 32)
  | 4 => decide (10000 ≤ x) && decide (x ≤ 1000000000)
  | 5 => decide (0 < x) && decide (x < 2 ^ 32)
  | 6 => decide (50 ≤ x) && decide (x ≤ 400)
  | 16 | 17 => halfPositive (fld v 48 16) && halfFraction (fld v 32 16) && halfFraction (fld v 16 16) && halfPositive (fld v 0 16)
  | _ => decide (x < 2 ^ 29)

/-- A control register written. -/
def State.setControl (s : State) (ctx : BitVec 12) (n : Nat) (v : Word) : State :=
  let r := s.regs
  match n with
  | 0 => { s with regs := { r with ageCap := v.toNat } }
  | 1 => { s with regs := { r with barLimit := AMap.put r.barLimit ctx.toNat v } }
  | 2 => { s with regs := { r with rclsThresh := AMap.put r.rclsThresh ctx.toNat (v.setWidth 32) } }
  | 3 => { s with regs := { r with amplBudget := AMap.put r.amplBudget ctx.toNat (v.setWidth 32) } }
  | 4 => { s with regs := { r with peerTimeout := v.toNat } }
  | 5 => { s with regs := { r with lottery := v.setWidth 32 } }
  | 6 => { s with regs := { r with stagger := v.toNat } }
  | 16 => s.setNet 0 { s.net 0 with adam := v }
  | 17 => s.setNet 1 { s.net 1 with adam := v }
  | n => { s with regs := { r with tickets := AMap.put r.tickets (n - 256) v } }

def mtcrBody (o : OwnOp) (l : Lane) (s : State) : LaneEnd :=
  let v := l.reg s o.a
  if controlOk (crNo o) v then .go (l.put (s.setControl (l.ctx s) (crNo o) v) o.ctl.t o.d 0) else .go (l.put s o.ctl.t o.d 1)

def execMtcr (o : OwnOp) (s : State) : Host.Outcome State Fault Refusal :=
  issue { checksOf (.mtcr o) o.ctl (regsDA o.d o.a) with priv := !userRegister (crNo o) } (mtcrBody o) s

def mfcrBody (o : OwnOp) (l : Lane) (s : State) : LaneEnd := .go (l.put s o.ctl.t o.d (s.controlValue (l.ctx s) (crNo o)))

def execMfcr (o : OwnOp) (s : State) : Host.Outcome State Fault Refusal :=
  issue { checksOf (.mfcr o) o.ctl [o.d.toNat] with priv := !userRegister (crNo o) } (mfcrBody o) s

/-! ## HALT (R336) -/

def haltBody (o : OwnOp) (l : Lane) (s : State) : LaneEnd :=
  let v := l.reg s o.a
  if l.helper s then .go s
  else if isControl l.c then .gone ((s.endFibre l.c l.p).haltMessage l.c l.p v)
  else .gone ((l.swTrap s v 0xFFF).haltMessage l.c l.p v)

def execHalt (o : OwnOp) (s : State) : Host.Outcome State Fault Refusal :=
  issue { checksOf (.halt o) o.ctl [o.a.toNat] with priv := true } (haltBody o) s

end Sys2Proof.Machine
end

