-- ==== Sys2Proof/Machine/Complete.lean ====
section
/-! DEFINITION. What completes what has been issued: releases and fences (R91), engine commands (R101, R102), and responses of
the fabric (R77). -/

namespace Sys2Proof.Machine

/-! ## RELEASE_PUSH_COMPLETE (R91) -/

/-- The checks and the effect of a word that may wait as a release or a fence. -/
def releaseKb : Instr → Option (Checks × (Lane → State → LaneEnd))
  | .st o => some (checksOf (.st o) o.ctl (memRegs o), stBody o)
  | .sts o => some (scrChecks (.sts o) o, stsBody o)
  | .stp o => some (checksOf (.stp o) o.ctl (pairRegs (o.sz == .b16) o.d ++ [o.a.toNat, o.b.toNat]), stpBody o)
  | .atom o => some (atomKb o)
  | .acas o => some (acasKb o)
  | .red o => some (redKb o)
  | .atomp o => some (atompKb o)
  | .acasp o => some (acaspKb o)
  | .redp o => some (redpKb o)
  | .fence o => some (fenceChecks o, fenceBody o)
  | .qpush o => some (qpushKb o)
  | _ => none

/-- The word that waits may have its effect: its push is over, and a fence's own conditions hold in every lane. -/
def State.releaseReady (s : State) (c : Nat) (lanes : List Nat) (tc : Word) (i : Instr) : Bool :=
  match i with
  | .fence o => (fenceKind o == 1 || s.pushOver c lanes tc) && lanes.all (fun p => s.fenceReady c p o)
  | _ => s.pushOver c lanes tc

/-- RELEASE_PUSH_COMPLETE. -/
def execReleasePushComplete (core ferry : Nat) (s : State) : Host.Outcome State Fault Refusal :=
  match AMap.find (s.core core).ferries ferry with
  | none => .next s
  | some fy =>
    match fy.hold with
    | .release tc i =>
      match releaseKb i with
      | none => .next s
      | some (k, body) =>
        if s.releaseReady core (s.activeLanes fy core ferry k) tc i then .next (s.finishHeld core ferry k body) else .next s
    | _ => .next s

/-! ## ENGINE_COMMAND_COMPLETE (R101, R102) -/

/-- A join at the head of every queue that it names is over (R102). -/
def State.joinOver (s : State) (c g id : Nat) (mask : BitVec 7) : Bool :=
  (List.range 7).all (fun q => !mask.getLsbD q || match (s.group c g).queues.getD q [] with
    | x :: _ => x.id == id
    | [] => true)

/-- One step of a command that is not performed yet. -/
def State.performCommand (s : State) (c g : Nat) (x : Command) : State :=
  if x.paused.isSome || !s.commandOver c g x then s
  else match x.body with
    | .sample n words => s.sampleStep c g x n words
    | .flip n => s.flipStep c g x n
    | .copy .. | .fill .. | .copyPeer .. | .halo .. | .ared .. | .bcast .. => s.engineStep c g x
    | .vpub .. | .vrecl .. | .rsub .. | .join .. => s

/-- A step of an engine queue of a group: its head completes, or its first command that is not performed goes on. -/
def State.queueStep (s : State) (c g q : Nat) : State :=
  match (s.group c g).queues.getD q [] with
  | [] => s
  | x :: xs =>
    match x.body with
    | .join id mask => if s.joinOver c g id mask then s.dropCommand c g id else s
    | _ =>
      if x.done && (x.wtc.toNat < s.gtb.toNat || x.wtc == 0) then s.completeCommand c g x
      else match (x :: xs).find? (fun y => !y.done) with
        | some y => s.performCommand c g y
        | none => s

/-- ENGINE_COMMAND_COMPLETE. -/
def execEngineCommandComplete (core slot queue : Nat) (s : State) : Host.Outcome State Fault Refusal :=
  if (AMap.find (s.core core).groups slot).isSome then .next (s.queueStep core slot queue) else .next s

/-! ## FABRIC_RESPONSE_ARRIVAL (R27, R77, R80) -/

/-- The trap of an answer. -/
def answerTrap (va : Word) : PeerAnswer → Trap
  | .formatSize => { code := .formatSize, info0 := va, info1 := 0 }
  | .dataLost pa d => { code := .dataLost, info0 := wd pa, info1 := wd d }
  | .pageFault => { code := .pageFault, info0 := va, info1 := 0 }
  | _ => { code := .protection, info0 := va, info1 := 0 }

/-- The value of a peer load arrives. An acquire of a value whose back-invalidations are still in progress at the home is performed
when the home reports them complete (R92, R98). -/
def State.arriveValue (s : State) (c p id plane : Nat) (tag : BitVec 16) (bs : List Byte) (waits : Bool) : State :=
  let s := s.updFibre c p (fun f => { f with pending := f.pending.map (fun x =>
    if x.await == some (id, plane, tag) then
      let d : BitVec 8 := BitVec.ofNat 8 ((x.regs.map (fun r => r.1)).headD 0)
      { x with await := if waits then x.await else none, regs := loadRegs x.peerSz false d (numOf bs) }
    else x) })
  s.freeAcquires c

/-- Reads of a line that are on their way with an earlier tag leave no copy: a later one of their fibre may have read a newer value; and
copies that earlier reads have left go, where this one may leave one (R87, R94). -/
def State.supersede (s : State) (id plane : Nat) (r : SentRequest) : State :=
  let same (va : Word) : Bool := va.toNat / 128 == (opVa r.op).toNat / 128
  let w := s.sendWindow id plane
  let w := { w with sent := w.sent.map (fun (x : SentRequest) =>
    if same (opVa x.op) && decide ((w.next - r.tag).toNat < (w.next - x.tag).toNat) then { x with keep := false } else x) }
  { s with fabric := { s.fabric with
      send := AMap.put s.fabric.send (16 * id + plane) w,
      copies := if r.keep then s.fabric.copies.filter (fun x => !(x.home == id && same x.va)) else s.fabric.copies } }

/-- A read's bytes may be kept as a copy of the remote line (R73), unless a store or a BISnp came between (R74, R87), or
back-invalidations of the value are still in progress at the home (R95). -/
def State.keepCopy (s : State) (c id : Nat) (r : SentRequest) (bs : List Byte) (line : Nat) : State :=
  match r.op with
  | .read va _ =>
    if r.keep && s.coin id 21 then
      let x : PeerCopy := { home := id, inc := BitVec.ofNat 16 (fld (s.peerEntry id) 0 16), line := line, va := va, bytes := bs, inL2 := true, leases := [] }
      { s with fabric := { s.fabric with copies := x.fill c s.gtb :: s.fabric.copies } }
    else s
  | _ => s

/-- A value from a remote home reaches its fibre: while back-invalidations of it are in progress there, the home is one of the fibre's
pending notices, and no copy is kept (R95, R98). -/
def State.keepOrNotice (s : State) (c p id plane : Nat) (r : SentRequest) (bs : List Byte) (line : Nat) (busy : Bool) : State :=
  let s := s.supersede id plane r
  if busy then
    s.updFibre c p (fun f => { f with notices := if id ∈ f.notices then f.notices else id :: f.notices })
  else s.keepCopy c id r bs line

/-- A waiter joins the wait-table entry of a page at a peer: the fault record is the peer's (R27, R340). -/
def State.joinQuiet (s : State) (d : Nat) (ctx : BitVec 12) (key va : Word) (w : Waiter) : Option (State × Nat) :=
  (s.joinWait d .fault ctx key va w false .read 0).map (fun r => ({ r.1 with records2 := s.records2 }, r.2))

/-- A fibre's peer access has met a page that is not present at its target: the fibre parks with its PC at the access, which it
repeats when it wakes (R27, R342; log entry 77). One that is parked already waits for its own entry first. Without a free entry the access
is sent again. -/
def State.parkPeer (s : State) (c p id plane : Nat) (r : SentRequest) : State :=
  let va := opVa r.op
  let gone (s : State) : State := (s.dropPending c p id plane r.tag).freeAcquires c
  match (s.fibre c p).waitk with
  | .token | .trap => (gone s).updFibre c p (fun f => f.backTo r)
  | _ =>
    match s.joinQuiet (dieOf c) (s.ctxOf c p) (wd (fld va 16 41 * 65536)) va (.fibre c p) with
    | some (s, i) => ((gone s).park c p r.pc .token i).updFibre c p (fun f => f.backTo r)
    | none =>
      -- the wait table is full: it is asked for again with the next re-issue
      let w := s.sendWindow id plane
      { s with fabric := { s.fabric with send := AMap.put s.fabric.send (16 * id + plane) { w with sent := r :: w.sent } } }

/-- A request meets a page that is not present at its target: who waits parks or pauses. A request of a fibre that has ended, or that a
SAVE holds, is sent again once the page's entry is gone. -/
def State.peerPage (s : State) (id plane : Nat) (r : SentRequest) : State :=
  let va := opVa r.op
  let key := wd (fld va 16 41 * 65536)
  let later (s : State) (d : Nat) (ctx : BitVec 12) : State :=
    { s with fabric := { s.fabric with redo := s.fabric.redo ++ [{ id := id, die := d, ctx := ctx, key := key, req := r }] } }
  match r.waiter with
  | .fibre c p => if (s.fibre c p).isLive then s.parkPeer c p id plane r else s
  | .ended c g _ | .saved c g _ =>
    let ctx := (s.group c g).ctx
    ((later s (dieOf c) ctx).joinQuiet (dieOf c) ctx key va r.waiter).map (fun x => x.1) |>.getD (later s (dieOf c) ctx)
  | .command c g k =>
    let s := s.updCommand c g k (fun y => if r.value then { y with asked := none } else { y with redo := y.redo ++ [(id, r.op)] })
    match s.joinQuiet (dieOf c) (s.group c g).ctx key va (.command c g k) with
    | some (s, i) => s.updCommand c g k (fun y => { y with paused := some i })
    | none => s
  | _ => s

/-- A request has its answer. -/
def State.answered (s : State) (id plane : Nat) (r : SentRequest) (a : PeerAnswer) : State :=
  match a with
  | .page => s.peerPage id plane r
  | .data bs line busy =>
    match r.waiter with
    | .fibre c p =>
      if r.value then
        let acq := (s.core c).ferries.any (fun (x : Nat × Ferry) => x.2.hold == .acquire && decide (p ∈ x.2.lanes))
        (s.arriveValue c p id plane r.tag bs (busy && acq)).keepOrNotice c p id plane r bs line busy
      else s
    | .command c g k =>
      if r.value then s.updCommand c g k (fun y => match y.asked with
        | some e => { y with asked := none, vals := AMap.put y.vals e (numOf bs) }
        | none => y)
      else s
    | _ => s
  | a =>
    let t := answerTrap (opVa r.op) a
    match r.waiter with
    | .fibre c p =>
      if r.value then ((s.dropPending c p id plane r.tag).trapAt c p r t).freeAcquires c else s.trapAt c p r t
    | .command c g k => s.failCommand c g k t
    | .ended c g lane => s.endedRecord c g lane t
    | .saved c v lane => s.updSaved c v lane (fun f => { f with due := f.due ++ [(t, none)] })
    | _ => s

/-- A replay at a target is carried to an entry of this package (R340). -/
def State.carriedReplay (s : State) (d i : Nat) (exhausted : Bool) : State :=
  match AMap.find (s.die d).wait i with
  | some e =>
    if e.kind != .fault then s
    else if exhausted then s.failEntry d i e .memExhausted else s.wakeEntry d i e
  | none => s

/-- FABRIC_RESPONSE_ARRIVAL: a response from a sender that R79 accepts completes its request; any other is dropped. -/
def execFabricResponseArrival (rsp : FabricResponse) (s : State) : Host.Outcome State Fault Refusal :=
  if !flag s.plat.pkgCfg 63 then .next s
  else if !s.senderOk rsp.src rsp.inc then .next s.addStale
  else match rsp.ans with
  | .replay d i exhausted => .next (s.carriedReplay d i exhausted)
  | _ =>
    let w := s.sendWindow rsp.src rsp.plane
    match w.sent.find? (fun r => r.tag == rsp.tag) with
    | none => .next s
    | some r =>
      let rest : SendWindow := { w with sent := w.sent.filter (fun x => x.tag != rsp.tag) }
      let s := { s with fabric := { s.fabric with send := AMap.put s.fabric.send (16 * rsp.src + rsp.plane) rest } }
      .next (s.answered rsp.src rsp.plane r rsp.ans)

/-! ## Requests that are sent again after a page at their target (R27) -/

/-- The page's entry is gone. -/
def State.redoReady (s : State) (x : PeerRedo) : Bool :=
  !(s.die x.die).wait.any (fun (e : Nat × WaitEntry) => e.2.kind == .fault && e.2.ctx == x.ctx && e.2.key == x.key)

/-- A request is sent again, with a new tag. -/
def State.redoOne (s : State) (x : PeerRedo) : State :=
  match s.sendPeer x.id x.req.op x.req.waiter x.req.value x.req.pc with
  | none => s
  | some (s, _) =>
    let s := { s with fabric := { s.fabric with redo := s.fabric.redo.filter (fun y => !(y == x)) } }
    s

/-- Every request whose page's entry is gone. -/
def State.redoPeers (s : State) : State :=
  s.fabric.redo.foldl (fun (s : State) x => if s.redoReady x then s.redoOne x else s) s

end Sys2Proof.Machine
end

