-- ==== Sys2Proof/Machine/Approx.lean ====
section
/-! DEFINITION. The approximate functions (R188). Their bits are free values of Config within the bounds of the table;
a free value outside the bound is replaced by the correctly rounded result. -/

namespace Sys2Proof.Machine

/-- Working precision in bits. -/
def apxBits : Nat := 160

/-- The powers 2^(1/2), 2^(1/4), ... in fixed point. -/
def exp2Frac (f : Nat) : Nat → Nat → Nat → Nat
  | 0, _, acc => acc
  | k + 1, root, acc =>
    -- bit apxBits - 1 of f is worth 2^(-1): root holds its factor
    let bit := f / 2 ^ (apxBits - 1) % 2
    let acc := if bit = 1 then acc * root / 2 ^ apxBits else acc
    exp2Frac (f * 2 % 2 ^ apxBits) k (isqrt (root * 2 ^ apxBits)) acc

/-- Binary logarithm of a mantissa in [1, 2) as a fixed-point fraction, bit by bit. -/
def log2Frac : Nat → Nat → Nat → Nat
  | 0, _, acc => acc
  | k + 1, m, acc =>
    let q := m * m / 2 ^ apxBits
    if 2 ^ (apxBits + 1) ≤ q then log2Frac k (q / 2) (2 * acc + 1) else log2Frac k q (2 * acc)

/-- π times 2^448. -/
def piFixed : Nat :=
  0x3243F6A8885A308D313198A2E03707344A4093822299F31D0082EFA98EC4E6C89452821E638D01377BE5466CF34E90C6CC0AC29B7C97C50DD * 4

/-- A Taylor series: the sum of `term`, each next term the one before times `-x²` over `k (k + 1)`. -/
def taylor (x2 : Nat) : Nat → Nat → Int → Int → Int
  | 0, _, _, acc => acc
  | n + 1, k, term, acc =>
    let next := -(term * x2 / 2 ^ apxBits) / ((k * (k + 1) : Nat) : Int)
    taylor x2 n (k + 2) next (acc + term)

/-- sin or cos of `m 2^e` in fixed point. -/
def sinCos (cos : Bool) (neg : Bool) (m : Nat) (e : Int) : Int :=
  let s : Nat := 448
  let x := if e < -(s : Int) then 0 else m * 2 ^ (e + s).toNat
  let r : Int := (x % (2 * piFixed) : Nat)
  let r := if (piFixed : Int) < r then r - 2 * piFixed else r
  let y : Int := r / 2 ^ (s - apxBits)
  let x2 := (y * y / 2 ^ apxBits).toNat
  if cos then taylor x2 40 1 (2 ^ apxBits) 0
  else
    let v := taylor x2 40 2 y 0
    if neg then -v else v

/-- The exact value of a function on a finite non-zero input, to working precision: an integer times `2^exp`. -/
def apxExact (fn : Nat) (neg : Bool) (m : Nat) (e : Int) : Int × Int :=
  let sgn (x : Nat) : Int := if neg then -(x : Int) else x
  match fn with
  | 0 => (sgn (2 ^ apxBits / m), -e - apxBits)
  | 1 =>
    let odd := (e % 2).toNat
    (isqrt (2 ^ (2 * apxBits) / (m * 2 ^ odd)), -(e - odd) / 2 - apxBits)
  | 2 =>
    -- floor and fraction of the input
    let fx : Int := if e < -(apxBits : Int) then (if neg then -1 else 0)
      else (if neg then -(m : Int) else m) * 2 ^ (e + apxBits).toNat
    let n := fx / 2 ^ apxBits
    let f := (fx % 2 ^ apxBits).toNat
    (exp2Frac f apxBits (isqrt (2 ^ (2 * apxBits + 1))) (2 ^ apxBits), n - apxBits)
  | 3 =>
    let l := Nat.log2 m
    let f := log2Frac 120 (m * 2 ^ (apxBits - l)) 0
    ((e + l) * 2 ^ 120 + f, -120)
  | 4 => (sinCos false neg m e, -(apxBits : Int))
  | _ => (sinCos true neg m e, -(apxBits : Int))

/-- Is `v` within `b` of `x 2^e`, with `b` in units of `2^u`? The working error is allowed for. -/
def withinBound (v : FVal) (x e : Int) (b : Nat) (u : Int) : Bool :=
  let go (n : Bool) (m : Nat) (g : Int) : Bool :=
    let lo := if g < e then (if g < u then g else u) else (if e < u then e else u)
    let d := alignTo n m g lo - x * 2 ^ (e - lo).toNat
    decide ((d.natAbs : Int) ≤ (b : Int) * 2 ^ (u - lo).toNat + 2 ^ (e - lo).toNat * 2 ^ 20)
  match v with
  | .zero _ => go false 0 u
  | .fin n m g => go n m g
  | _ => false

/-- The result of an approximate function on a finite non-zero input: the free value where it lies within the bound of
the table, else the rounded exact one. -/
def apxValue (fn : Nat) (bits : Nat) (neg : Bool) (m : Nat) (e : Int) : Nat :=
  let x := apxExact fn neg m e
  let ref := (roundInt .f32 .rne false false x.1 x.2).1
  let free := (Config.approx fn (BitVec.ofNat 32 bits)).toNat
  let top := x.2 + Nat.log2 x.1.natAbs
  let ulp := (if top < -126 then -126 else top) - 23
  let ok := match fn with
    | 0 | 1 => withinBound (decodeF .f32 free) x.1 x.2 1 ulp
    | 2 => withinBound (decodeF .f32 free) x.1 x.2 2 ulp
    | 3 => if -1 ≤ e + Nat.log2 m ∧ (e + Nat.log2 m < 1 ∨ (e + Nat.log2 m = 1 ∧ m = 2 ^ Nat.log2 m)) then
        withinBound (decodeF .f32 free) x.1 x.2 1 (-22) else withinBound (decodeF .f32 free) x.1 x.2 2 ulp
    | _ => withinBound (decodeF .f32 free) x.1 x.2 1 (-21) && decide (bitsAt free 0 31 ≤ 0x3F800000)
  if ok then free else ref

/-- Write a subnormal result as zero under FTZ (R177). -/
def flushOut (ftz : Bool) (r : Nat) : Nat := if ftz && decide (bitsAt r 23 8 = 0) then Fmt.f32.signBit (bitsAt r 31 1 == 1) else r

/-- The approximate functions (R188): 0 FRCP, 1 FRSQ, 2 FEXP2, 3 FLOG2, 4 FSIN, 5 FCOS. -/
def approxFn (fn : Nat) (ftz : Bool) (a : Nat) : Nat × BitVec 5 :=
  let x := flushIn .f32 ftz a
  let inf (n : Bool) := Fmt.f32.signBit n + Fmt.f32.infBits
  let done (r : Nat) := let w := flushOut ftz r; (w, approxUF x w)
  match decodeF .f32 x with
  | .nan n q p => (nanTo .f32 n p, if q then 0 else fpIV)
  | .zero n => match fn with
    | 0 => (inf n, fpDZ)
    | 1 => (inf n, fpDZ)
    | 2 => (0x3F800000, 0)
    | 3 => (inf true, fpDZ)
    | 4 => (Fmt.f32.signBit n, 0)
    | _ => done (apxValue 5 x n 0 0)
  | .inf n => match fn with
    | 0 => (Fmt.f32.signBit n, 0)
    | 1 => if n then invalid .f32 else (0, 0)
    | 2 => if n then (0, 0) else (inf false, 0)
    | 3 => if n then invalid .f32 else (inf false, 0)
    | _ => invalid .f32
  | .fin n m e => match fn with
    | 0 => done (apxValue 0 x n m e)
    | 1 => if n then invalid .f32 else done (apxValue 1 x n m e)
    | 2 =>
      let big := decide (128 * 2 ^ (-e).toNat ≤ m * 2 ^ e.toNat)
      if !n && big then (inf false, fpOF)
      else if n && decide (149 * 2 ^ (-e).toNat < m * 2 ^ e.toNat) then done 0
      else
        let r := toInteger .rtz n m e
        if r.2 then done (roundTo .f32 .rne false false false 1 r.1).1 else done (apxValue 2 x n m e)
    | 3 => if n then invalid .f32 else if x = 0x3F800000 then done 0 else done (apxValue 3 x n m e)
    | _ => done (apxValue fn x n m e)

end Sys2Proof.Machine
end

