-- ==== Sys2Proof/Machine/FloatOps.lean ====
section
/-! DEFINITION. Floating-point arithmetic, conversions and B4 instructions (R235 to R243): what each computes, and its
meaning. -/

namespace Sys2Proof.Machine

/-! ## Values -/

/-- A source at a floating-point type's width. -/
def fOf (t : Ty) (w : Word) : Nat := w.toNat % 2 ^ (fmtOf t).width
/-- A result pattern, zero-extended, with its flags. -/
def putF (r : Nat × BitVec 5) : Word × BitVec 5 := (wd r.1, r.2)

/-- FTZ: MOD[8] on F32 arithmetic (R177). -/
def ftzOf (o : AluOp) : Bool := o.sat && o.ty == .f32

def faddVal (o : AluOp) (a b _c : Word) : Word × BitVec 5 :=
  putF (fAdd (fmtOf o.ty) o.rm (ftzOf o) (fOf o.ty a) (fOf o.ty b))
def fsubVal (o : AluOp) (a b _c : Word) : Word × BitVec 5 :=
  putF (fSub (fmtOf o.ty) o.rm (ftzOf o) (fOf o.ty a) (fOf o.ty b))
def fmulVal (o : AluOp) (a b _c : Word) : Word × BitVec 5 :=
  putF (fMul (fmtOf o.ty) o.rm (ftzOf o) (fOf o.ty a) (fOf o.ty b))
def ffmaVal (o : AluOp) (a b c : Word) : Word × BitVec 5 :=
  putF (fFma (fmtOf o.ty) o.rm (ftzOf o) (fOf o.ty a) (fOf o.ty b) (fOf o.ty c))
def fminVal (o : AluOp) (a b _c : Word) : Word × BitVec 5 :=
  putF (fMinMax (fmtOf o.ty) (ftzOf o) false (fOf o.ty a) (fOf o.ty b))
def fmaxVal (o : AluOp) (a b _c : Word) : Word × BitVec 5 :=
  putF (fMinMax (fmtOf o.ty) (ftzOf o) true (fOf o.ty a) (fOf o.ty b))
def fdivVal (o : AluOp) (a b _c : Word) : Word × BitVec 5 :=
  putF (fDiv (fmtOf o.ty) o.rm (ftzOf o) (fOf o.ty a) (fOf o.ty b))
def fsqrtVal (o : AluOp) (a _b _c : Word) : Word × BitVec 5 :=
  putF (fSqrt (fmtOf o.ty) o.rm (ftzOf o) (fOf o.ty a))
def approxVal (fn : Nat) (o : AluOp) (a _b _c : Word) : Word × BitVec 5 :=
  putF (approxFn fn (ftzOf o) (fOf .f32 a))

/-- FCLASS (R238). -/
def fclassVal (t : Ty) (a _b _c : Word) : Word :=
  let f := fmtOf t
  let x := fOf t a
  match decodeF f x with
  | .inf n => if n then 1 else 0x80
  | .fin n _ _ => if bitsAt x f.fw f.ew = 0 then (if n then 4 else 0x20) else (if n then 2 else 0x40)
  | .zero n => if n then 8 else 0x10
  | .nan _ q _ => if q then 0x200 else 0x100

/-- FRND (R239). -/
def frndVal (o : AluOp) (a _b _c : Word) : Word × BitVec 5 :=
  let f := fmtOf o.ty
  let x := flushIn f (ftzOf o) (fOf o.ty a)
  match decodeF f x with
  | .nan n q p => (wd (nanTo f n p), if q then 0 else fpIV)
  | .fin n m e =>
    if 0 ≤ e then (wd x, 0)
    else
      let r := toInteger o.rm n m e
      if r.1 = 0 then (wd (f.signBit n), 0) else (wd (roundInt f .rne false false r.1 0).1, 0)
  | _ => (wd x, 0)

/-- FSCALE (R239). Scales beyond ±5000 give what ±5000 gives in every format. -/
def fscaleVal (o : AluOp) (a b _c : Word) : Word × BitVec 5 :=
  let f := fmtOf o.ty
  let x := flushIn f (ftzOf o) (fOf o.ty a)
  let n := s32 b.toNat
  let n := if n < -5000 then -5000 else if 5000 < n then 5000 else n
  match decodeF f x with
  | .nan g q p => (wd (nanTo f g p), if q then 0 else fpIV)
  | .fin g m e => putF (roundTo f o.rm (ftzOf o) false g m (e + n))
  | _ => (wd x, 0)

/-- FFRXP (R239). -/
def ffrxpVal (o : AluOp) (a _b _c : Word) : Word × BitVec 5 :=
  let f := fmtOf o.ty
  let x := flushIn f (ftzOf o) (fOf o.ty a)
  let wantExp := o.opx.getLsbD 0
  match decodeF f x with
  | .nan n q p => (if wantExp then 0 else wd (nanTo f n p), if q then 0 else fpIV)
  | .fin n m e =>
    let l : Int := Nat.log2 m
    (if wantExp then ofInt32 (e + l) else wd (roundTo f .rne false false n m (-l)).1, 0)
  | _ => (if wantExp then 0 else wd x, 0)

/-- The type that OPX[3:0] names. -/
def targetOf (o : AluOp) : Ty := (Ty.ofCode (o.opx.toNat % 16)).getD .f32

def cvtffVal (o : AluOp) (a _b _c : Word) : Word × BitVec 5 :=
  putF (cvtFF (fmtOf o.ty) (fmtOf (targetOf o)) o.rm o.sat (fOf o.ty a))

/-- The bounds of an integer type. -/
def intBounds : Ty → Int × Int
  | .i32 => (-(2 ^ 31), 2 ^ 31 - 1)
  | .u32 => (0, 2 ^ 32 - 1)
  | .i64 => (-(2 ^ 63), 2 ^ 63 - 1)
  | .u64 => (0, 2 ^ 64 - 1)
  | .i8 => (-128, 127)
  | _ => (0, 255)

/-- CVTFI (R184, R240): I8 and U8 results are extended to 32 bits. -/
def cvtfiVal (o : AluOp) (a _b _c : Word) : Word × BitVec 5 :=
  let t := targetOf o
  let r := cvtFI (fmtOf o.ty) o.rm (intBounds t).1 (intBounds t).2 (fOf o.ty a)
  (match t with
   | .i64 | .u64 => ofInt r.1
   | _ => ofInt32 r.1, r.2)

/-- CVTIF (R184, R240). Only its F16 result can overflow; SAT then gives the largest finite magnitude (R183). -/
def cvtifVal (o : AluOp) (a _b _c : Word) : Word × BitVec 5 :=
  let x : Int := match o.ty with
    | .i8 => byteOf8 a true
    | .u8 => byteOf8 a false
    | t => intOf t a
  let f := fmtOf (targetOf o)
  if x = 0 then (0, 0) else putF (roundTo f o.rm false o.sat (decide (x < 0)) x.natAbs 0)
where
  byteOf8 (w : Word) (signed : Bool) : Int :=
    let b := fld w 0 8
    if signed && decide (128 ≤ b) then (b : Int) - 256 else b

/-- One FP32 value to a narrow type (R241). -/
def narrowOne (t : Ty) (sat : Bool) (x : Nat) : Nat × BitVec 5 :=
  match t with
  | .i8 =>
    let r := cvtFI .f32 .rne (-128) 127 x
    (((r.1 + 256) % 256).toNat, r.2)
  | .u8 =>
    let r := cvtFI .f32 .rne 0 255 x
    (r.1.toNat, r.2)
  | t => cvtFF .f32 (fmtOf t) .rne sat x

/-- A narrow format of 16 bits. -/
def wide16 (t : Ty) : Bool := t == .f16 || t == .bf16

def cvtnVal (o : AluOp) (a b _c : Word) : Word × BitVec 5 :=
  let t := targetOf o
  let xs := [fld a 0 32, fld a 32 32, fld b 0 32, fld b 32 32]
  let k := if wide16 t then 16 else 8
  let rs := xs.map (fun x => narrowOne t o.sat x)
  (wd (rs.foldr (fun r acc => r.1 + 2 ^ k * acc) 0), rs.foldl (fun f r => f ||| r.2) 0)

def cvtwVal (o : AluOp) (a _b _c : Word) : Word × BitVec 5 :=
  let t := targetOf o
  let j := if o.opx.getLsbD 4 then 2 else 0
  let k := if wide16 t then 16 else 8
  let one (i : Nat) : Nat × BitVec 5 :=
    let x := fld a (k * i) k
    match t with
    | .i8 => (narrowToF32 .i8 x, 0)
    | .u8 => (narrowToF32 .u8 x, 0)
    | t => cvtFF (fmtOf t) .f32 .rne false x
  let r := one j
  let q := one (j + 1)
  (wd (r.1 + q.1 * 2 ^ 32), r.2 ||| q.2)

/-- B4ENC, element form (R243). -/
def b4EncElem (a b : Word) : Word × BitVec 5 :=
  let sc := fld b 0 8
  if sc % 64 = 63 then (wd (sc * 2 ^ 8), fpIV)
  else match decodeF .f32 (fld a 0 32) with
    | .nan _ _ _ => (wd ((sc / 64 * 64 + 63) * 2 ^ 8), fpIV)
    | .inf _ => (wd ((sc / 64 * 64 + 63) * 2 ^ 8), fpIV)
    | v =>
      let r := b4Encode sc false v
      (wd (r.1 + sc * 2 ^ 8), r.2)

def b4decVal (o : AluOp) (a b _c : Word) : Word :=
  let i := o.opx.toNat % 8
  wd (b4Decode (fld b 0 8) (fld a (8 * i) 4) + b4Decode (fld b 0 8) (fld a (8 * i + 4) 4) * 2 ^ 32)

/-- The codes of 16 elements as a word (R243). -/
def packCodes (cs : List Nat) : Word := wd (cs.foldr (fun x acc => x + 16 * acc) 0)

/-- B4ENC, block form: it reads 16 or 8 registers from A and writes 3 or 2 from D (R243). -/
def b4EncBlock (o : AluOp) (l : Lane) (s : State) : LaneEnd :=
  let g := o.opx.getLsbD 2
  let n := if g then 8 else 16
  let ws := (List.range n).map (fun i => l.regN s (o.a.toNat + i))
  let vs := ws.flatMap (fun w => [decodeF .f32 (fld w 0 32), decodeF .f32 (fld w 32 32)])
  let r := b4Block (o.opx.toNat % 4) false vs
  let put (s : State) (i : Nat) (v : Word) : State := l.put s o.ctl.t (BitVec.ofNat 8 (o.d.toNat + i)) v
  let s := put s 0 (packCodes (r.2.1.take 16))
  let s := if g then put s 1 (wd r.1) else put (put s 1 (packCodes (r.2.1.drop 16))) 2 (wd r.1)
  .go (l.addFp s r.2.2)

/-- The registers of B4ENC (R243). -/
def b4EncRegs (o : AluOp) : List Nat :=
  if o.opx.getLsbD 3 then regsDAB o.d o.a o.b
  else
    let g := o.opx.getLsbD 2
    (List.range (if g then 2 else 3)).map (fun i => o.d.toNat + i)
      ++ (List.range (if g then 8 else 16)).map (fun i => o.a.toNat + i)

/-! ## Meanings -/

def execFadd (o : AluOp) (s : State) : Host.Outcome State Fault Refusal :=
  issue (checksOf (.fadd o) o.ctl (regsDAB o.d o.a o.b)) (fpBody o.ctl.t o.d o.a o.b o.c (faddVal o)) s
def execFsub (o : AluOp) (s : State) : Host.Outcome State Fault Refusal :=
  issue (checksOf (.fsub o) o.ctl (regsDAB o.d o.a o.b)) (fpBody o.ctl.t o.d o.a o.b o.c (fsubVal o)) s
def execFmul (o : AluOp) (s : State) : Host.Outcome State Fault Refusal :=
  issue (checksOf (.fmul o) o.ctl (regsDAB o.d o.a o.b)) (fpBody o.ctl.t o.d o.a o.b o.c (fmulVal o)) s
def execFfma (o : AluOp) (s : State) : Host.Outcome State Fault Refusal :=
  issue (checksOf (.ffma o) o.ctl (regsDABC o.d o.a o.b o.c)) (fpBody o.ctl.t o.d o.a o.b o.c (ffmaVal o)) s
def execFmin (o : AluOp) (s : State) : Host.Outcome State Fault Refusal :=
  issue (checksOf (.fmin o) o.ctl (regsDAB o.d o.a o.b)) (fpBody o.ctl.t o.d o.a o.b o.c (fminVal o)) s
def execFmax (o : AluOp) (s : State) : Host.Outcome State Fault Refusal :=
  issue (checksOf (.fmax o) o.ctl (regsDAB o.d o.a o.b)) (fpBody o.ctl.t o.d o.a o.b o.c (fmaxVal o)) s
def execFdiv (o : AluOp) (s : State) : Host.Outcome State Fault Refusal :=
  issue (checksOf (.fdiv o) o.ctl (regsDAB o.d o.a o.b)) (laterBody o.ctl.fl o.d o.a o.b o.c (fdivVal o)) s
def execFsqrt (o : AluOp) (s : State) : Host.Outcome State Fault Refusal :=
  issue (checksOf (.fsqrt o) o.ctl (regsDA o.d o.a)) (laterBody o.ctl.fl o.d o.a o.b o.c (fsqrtVal o)) s
def execFrcp (o : AluOp) (s : State) : Host.Outcome State Fault Refusal :=
  issue (checksOf (.frcp o) o.ctl (regsDA o.d o.a)) (fpBody o.ctl.t o.d o.a o.b o.c (approxVal 0 o)) s
def execFrsq (o : AluOp) (s : State) : Host.Outcome State Fault Refusal :=
  issue (checksOf (.frsq o) o.ctl (regsDA o.d o.a)) (fpBody o.ctl.t o.d o.a o.b o.c (approxVal 1 o)) s
def execFexp2 (o : AluOp) (s : State) : Host.Outcome State Fault Refusal :=
  issue (checksOf (.fexp2 o) o.ctl (regsDA o.d o.a)) (fpBody o.ctl.t o.d o.a o.b o.c (approxVal 2 o)) s
def execFlog2 (o : AluOp) (s : State) : Host.Outcome State Fault Refusal :=
  issue (checksOf (.flog2 o) o.ctl (regsDA o.d o.a)) (fpBody o.ctl.t o.d o.a o.b o.c (approxVal 3 o)) s
def execFsin (o : AluOp) (s : State) : Host.Outcome State Fault Refusal :=
  issue (checksOf (.fsin o) o.ctl (regsDA o.d o.a)) (fpBody o.ctl.t o.d o.a o.b o.c (approxVal 4 o)) s
def execFcos (o : AluOp) (s : State) : Host.Outcome State Fault Refusal :=
  issue (checksOf (.fcos o) o.ctl (regsDA o.d o.a)) (fpBody o.ctl.t o.d o.a o.b o.c (approxVal 5 o)) s
def execFclass (o : AluOp) (s : State) : Host.Outcome State Fault Refusal :=
  issue (checksOf (.fclass o) o.ctl (regsDA o.d o.a)) (regBody o.ctl.t o.d o.a o.b o.c (fclassVal o.ty)) s
def execFrnd (o : AluOp) (s : State) : Host.Outcome State Fault Refusal :=
  issue (checksOf (.frnd o) o.ctl (regsDA o.d o.a)) (fpBody o.ctl.t o.d o.a o.b o.c (frndVal o)) s
def execFscale (o : AluOp) (s : State) : Host.Outcome State Fault Refusal :=
  issue (checksOf (.fscale o) o.ctl (regsDAB o.d o.a o.b)) (fpBody o.ctl.t o.d o.a o.b o.c (fscaleVal o)) s
def execFfrxp (o : AluOp) (s : State) : Host.Outcome State Fault Refusal :=
  issue (checksOf (.ffrxp o) o.ctl (regsDA o.d o.a)) (fpBody o.ctl.t o.d o.a o.b o.c (ffrxpVal o)) s
def execCvtff (o : AluOp) (s : State) : Host.Outcome State Fault Refusal :=
  issue (checksOf (.cvtff o) o.ctl (regsDA o.d o.a)) (fpBody o.ctl.t o.d o.a o.b o.c (cvtffVal o)) s
def execCvtfi (o : AluOp) (s : State) : Host.Outcome State Fault Refusal :=
  issue (checksOf (.cvtfi o) o.ctl (regsDA o.d o.a)) (fpBody o.ctl.t o.d o.a o.b o.c (cvtfiVal o)) s
def execCvtif (o : AluOp) (s : State) : Host.Outcome State Fault Refusal :=
  issue (checksOf (.cvtif o) o.ctl (regsDA o.d o.a)) (fpBody o.ctl.t o.d o.a o.b o.c (cvtifVal o)) s
def execCvtn (o : AluOp) (s : State) : Host.Outcome State Fault Refusal :=
  issue (checksOf (.cvtn o) o.ctl (regsDAB o.d o.a o.b)) (fpBody o.ctl.t o.d o.a o.b o.c (cvtnVal o)) s
def execCvtw (o : AluOp) (s : State) : Host.Outcome State Fault Refusal :=
  issue (checksOf (.cvtw o) o.ctl (regsDA o.d o.a)) (fpBody o.ctl.t o.d o.a o.b o.c (cvtwVal o)) s
def execB4enc (o : AluOp) (s : State) : Host.Outcome State Fault Refusal :=
  issue (checksOf (.b4enc o) o.ctl (b4EncRegs o))
    (if o.opx.getLsbD 3 then fpBody o.ctl.t o.d o.a o.b o.c (fun a b _ => b4EncElem a b) else b4EncBlock o) s
def execB4dec (o : AluOp) (s : State) : Host.Outcome State Fault Refusal :=
  issue (checksOf (.b4dec o) o.ctl (regsDAB o.d o.a o.b)) (regBody o.ctl.t o.d o.a o.b o.c (b4decVal o)) s

end Sys2Proof.Machine
end

