-- ==== Sys2Proof/Machine/Halves.lean ====
section
/-! DEFINITION. The halves of pair words (R205 to R208): d is w[D], s is w[S] or the immediate. -/

namespace Sys2Proof.Machine

/-- A half's type as a full instruction names it. -/
def htyOf : Hty → Ty
  | .i32 => .i32 | .i64 => .i64 | .u32 => .u32 | .u64 => .u64 | .f32 => .f32 | .f64 => .f64

/-- The guard of a half: p0, p1, p2, or always (R205). -/
def Half.guardNo (o : Half) : Nat := if o.g = 3 then 15 else o.g.toNat

/-- A 7-bit immediate, sign-extended and cut to the operand width (R206). -/
def Half.imm (o : Half) : Word := putInt (htyOf o.ty) (o.s.toInt)

/-- The second operand of an integer half. -/
def Half.src (o : Half) (l : Lane) (s : State) : Word := if o.i then Half.imm o else l.regN s o.s.toNat

/-- The registers a half names: D, and S unless it is an immediate (R207). -/
def Half.regs (o : Half) : List Nat := if o.i then [o.d.toNat] else [o.d.toNat, o.s.toNat]

/-- The second operand of a floating half: the immediate converts exactly (R206). -/
def Half.fsrc (o : Half) (l : Lane) (s : State) : Nat :=
  let t := htyOf o.ty
  if o.i then (cvtIF (fmtOf t) .rne o.s.toInt).1 else fOf t (l.regN s o.s.toNat)

def Half.dst (o : Half) : BitVec 8 := o.d.setWidth 8

/-- An integer half: d := f d s. -/
def halfInt (f : Ty → Word → Word → Word → Word) (o : Half) (l : Lane) (s : State) : LaneEnd :=
  .go (l.put s o.t (Half.dst o) (f (htyOf o.ty) (l.regN s o.d.toNat) (Half.src o l s) 0))

/-- An integer half of s alone: d := f s. -/
def halfUnary (f : Ty → Word → Word → Word → Word) (o : Half) (l : Lane) (s : State) : LaneEnd :=
  .go (l.put s o.t (Half.dst o) (f (htyOf o.ty) (Half.src o l s) 0 0))

/-- A shift half: the count is s mod width. -/
def halfShift (f : Ty → Nat → Word → Word) (o : Half) (l : Lane) (s : State) : LaneEnd :=
  let t := htyOf o.ty
  .go (l.put s o.t (Half.dst o) (f t ((Half.src o l s).toNat % intWidth t) (l.regN s o.d.toNat)))

/-- A floating half: d := f d s, with its flags. -/
def halfFloat (f : Fmt → Nat → Nat → Nat × BitVec 5) (o : Half) (l : Lane) (s : State) : LaneEnd :=
  let t := htyOf o.ty
  let r := f (fmtOf t) (fOf t (l.regN s o.d.toNat)) (Half.fsrc o l s)
  .go (l.addFp (l.put s o.t (Half.dst o) (wd r.1)) r.2)

/-! ## Meanings -/

def execHnop (_o : Half) (s : State) : Host.Outcome State Fault Refusal := issueHalf 15 [] (fun _ s => .go s) s
def execHalfIadd (o : Half) (s : State) : Host.Outcome State Fault Refusal :=
  issueHalf (Half.guardNo o) (Half.regs o) (halfInt iaddVal o) s
def execHalfIsub (o : Half) (s : State) : Host.Outcome State Fault Refusal :=
  issueHalf (Half.guardNo o) (Half.regs o) (halfInt isubVal o) s
def execHalfAnd (o : Half) (s : State) : Host.Outcome State Fault Refusal :=
  issueHalf (Half.guardNo o) (Half.regs o) (halfInt andVal o) s
def execHalfOr (o : Half) (s : State) : Host.Outcome State Fault Refusal :=
  issueHalf (Half.guardNo o) (Half.regs o) (halfInt orVal o) s
def execHalfXor (o : Half) (s : State) : Host.Outcome State Fault Refusal :=
  issueHalf (Half.guardNo o) (Half.regs o) (halfInt xorVal o) s
def execHalfShl (o : Half) (s : State) : Host.Outcome State Fault Refusal :=
  issueHalf (Half.guardNo o) (Half.regs o) (halfShift shlVal o) s
def execHalfShr (o : Half) (s : State) : Host.Outcome State Fault Refusal :=
  issueHalf (Half.guardNo o) (Half.regs o) (halfShift shrVal o) s
def execHalfSar (o : Half) (s : State) : Host.Outcome State Fault Refusal :=
  issueHalf (Half.guardNo o) (Half.regs o) (halfShift sarVal o) s
def execHalfMov (o : Half) (s : State) : Host.Outcome State Fault Refusal :=
  issueHalf (Half.guardNo o) (Half.regs o) (halfUnary movVal o) s
def execHalfImin (o : Half) (s : State) : Host.Outcome State Fault Refusal :=
  issueHalf (Half.guardNo o) (Half.regs o) (halfInt iminVal o) s
def execHalfImax (o : Half) (s : State) : Host.Outcome State Fault Refusal :=
  issueHalf (Half.guardNo o) (Half.regs o) (halfInt imaxVal o) s
def execHalfFadd (o : Half) (s : State) : Host.Outcome State Fault Refusal :=
  issueHalf (Half.guardNo o) (Half.regs o) (halfFloat (fun f a b => fAdd f .rne false a b) o) s
def execHalfFsub (o : Half) (s : State) : Host.Outcome State Fault Refusal :=
  issueHalf (Half.guardNo o) (Half.regs o) (halfFloat (fun f a b => fSub f .rne false a b) o) s
def execHalfFmul (o : Half) (s : State) : Host.Outcome State Fault Refusal :=
  issueHalf (Half.guardNo o) (Half.regs o) (halfFloat (fun f a b => fMul f .rne false a b) o) s
def execHalfFmin (o : Half) (s : State) : Host.Outcome State Fault Refusal :=
  issueHalf (Half.guardNo o) (Half.regs o) (halfFloat (fun f a b => fMinMax f false false a b) o) s
def execHalfFmax (o : Half) (s : State) : Host.Outcome State Fault Refusal :=
  issueHalf (Half.guardNo o) (Half.regs o) (halfFloat (fun f a b => fMinMax f false true a b) o) s
def execHalfMovi (o : Half) (s : State) : Host.Outcome State Fault Refusal :=
  issueHalf (Half.guardNo o) (Half.regs o) (halfUnary movVal o) s
def execHalfIabs (o : Half) (s : State) : Host.Outcome State Fault Refusal :=
  issueHalf (Half.guardNo o) (Half.regs o) (halfUnary iabsVal o) s
def execHalfIneg (o : Half) (s : State) : Host.Outcome State Fault Refusal :=
  issueHalf (Half.guardNo o) (Half.regs o) (halfUnary inegVal o) s

end Sys2Proof.Machine
end

