-- ==== Sys2Proof/Machine/Lane.lean ====
section
/-! DEFINITION. Quad exchange, special and group registers, and FSPAWN (R249 to R256). -/

namespace Sys2Proof.Machine

/-! ## Quad members (R249, R253) -/

/-- A member of the lane's quad reads a register as the instruction began: a member in the ferry as this word does, an
absent one from its banks (R253). -/
def Lane.member (l : Lane) (s0 : State) (q : Nat) (k : BitVec 8) : Word :=
  let p := l.p / 4 * 4 + q
  let here := decide (p ∈ (s0.ferry l.c l.n).lanes)
  (s0.fibre l.c p).read (s0.coin p) (if here then l.pos else 2 ^ 20) k.toNat

/-- A member's predicate. -/
def Lane.memberPred (l : Lane) (s0 : State) (q : Nat) (k : Nat) : Bool :=
  let p := l.p / 4 * 4 + q
  (s0.fibre l.c p).readPred (s0.coin p) k

def Lane.memberHelper (l : Lane) (s0 : State) (q : Nat) : Bool := (s0.fibre l.c (l.p / 4 * 4 + q)).helper

/-- QLANE (R249). -/
def Lane.qlane (l : Lane) : Nat := l.p % 4

/-! ## Quad exchange -/

/-- The member that QSWZ reads (R250). -/
def qswzFrom (mode q : Nat) (idx : Word) : Nat :=
  match mode with
  | 0 => q ^^^ 1
  | 1 => q ^^^ 2
  | 2 => q ^^^ 3
  | _ => idx.toNat % 4

def qswzBody (o : OwnOp) (s0 : State) (l : Lane) (s : State) : LaneEnd :=
  .go (l.put s o.ctl.t o.d (l.member s0 (qswzFrom (o.mod.toNat % 4) l.qlane (l.member s0 l.qlane o.b)) o.a))

/-- Checks of a quad instruction (R249). -/
def quadChecks (i : Instr) (k : Ctl) (regs : List Nat) : Checks := { mainChecks i k regs with quad := true }

def execQswz (o : OwnOp) (s : State) : Host.Outcome State Fault Refusal :=
  issue (quadChecks (.qswz o) o.ctl (regsDAB o.d o.a o.b)) (qswzBody o s) s

/-- The two members that a derivative subtracts (R251): minuend and subtrahend. -/
def derivMembers (vertical coarse : Bool) (q : Nat) : Nat × Nat :=
  if vertical then (if coarse then (2, 0) else (q % 2 + 2, q % 2))
  else (if coarse then (1, 0) else (q / 2 * 2 + 1, q / 2 * 2))

def derivBody (vertical : Bool) (o : AluOp) (s0 : State) (l : Lane) (s : State) : LaneEnd :=
  let m := derivMembers vertical (o.opx.getLsbD 0) l.qlane
  let r := fsubVal o (l.member s0 m.1 o.a) (l.member s0 m.2 o.a) 0
  .go (l.addFp (l.put s o.ctl.t o.d r.1) r.2)

def execQddx (o : AluOp) (s : State) : Host.Outcome State Fault Refusal :=
  issue (quadChecks (.qddx o) o.ctl (regsDA o.d o.a)) (derivBody false o s) s

def execQddy (o : AluOp) (s : State) : Host.Outcome State Fault Refusal :=
  issue (quadChecks (.qddy o) o.ctl (regsDA o.d o.a)) (derivBody true o s) s

/-- The vote of a quad (R252): the predicates of its members, and which of them are helpers. -/
def voteOf (op : Nat) (real : Bool) (ps hs : List Bool) : Bool :=
  let vs := (ps.zip hs).map (fun x => if real && x.2 then op != 0 else x.1)
  match op with
  | 0 => vs.any id
  | 1 => vs.all id
  | _ => vs.all id || vs.all (!·)

def qvoteBody (o : OwnOp) (s0 : State) (l : Lane) (s : State) : LaneEnd :=
  let ps := (List.range 4).map (fun q => l.memberPred s0 q (o.a.toNat % 16))
  let hs := (List.range 4).map (fun q => l.memberHelper s0 q)
  .go (l.putPred s (o.d.toNat % 16) (voteOf (o.mod.toNat % 4) (o.mod.getLsbD 2) ps hs))

def execQvote (o : OwnOp) (s : State) : Host.Outcome State Fault Refusal :=
  issue (quadChecks (.qvote o) o.ctl []) (qvoteBody o s) s

/-! ## Special registers (R254) -/

/-- Word `i` of the launch record of a group's grid (R157); zero where there is none. -/
def State.rcdWord (s : State) (g : Group) (i : Nat) : Word :=
  match s.grid g.grid with
  | some x => x.rcd.getD i 0
  | none => 0

/-- The grid is bound to a record queue (R167). -/
def State.isBound (s : State) (g : Group) : Bool :=
  match s.grid g.grid with
  | some x => x.binding.isSome
  | none => false

/-- The value of a special register on a main core. -/
def specialMain (s : State) (c p k : Nat) : Nat :=
  let f := s.fibre c p
  let g := s.groupOf c p
  let shape := s.rcdWord g 4
  let nx := fld shape 0 20
  let ny := fld shape 20 20
  let nz := fld shape 40 20
  let bound := s.isBound g
  let span := s.rcdWord g 8
  let spanned := flag (s.rcdWord g 5) 32
  match k with
  | 0 => f.lane
  | 1 => f.lane % 4
  | 2 => g.index
  | 3 => if bound then g.index else g.index % nx
  | 4 => if bound then 0 else g.index / nx % ny
  | 5 => if bound then 0 else g.index / (nx * ny)
  | 6 => if bound then 0 else nx
  | 7 => if bound then 0 else ny
  | 8 => if bound then 0 else nz
  | 9 => g.width
  | 10 => g.rank
  | 11 => fld (s.rcdWord g 5) 2 5 + 1
  | 12 => c % 160
  | 13 => dieOf c
  | 14 => s.accid
  | 15 => if spanned then fld span 0 10 else 0
  | 16 => if spanned then fld span 16 10 + 1 else 1
  | 17 => if f.helper then 1 else 0
  | 18 => match f.role with
    | .compute => 0
    | .copy => 1
    | .epilogue => 2
  | 19 => s.gtb.toNat
  | 20 => f.fpstat.toNat
  | 21 => g.ctx.toNat
  | _ => s.incarn.toNat

/-- The value of a special register on a control core. -/
def specialControl (s : State) (c p k : Nat) : Nat :=
  match k with
  | 0 => p % 8
  | 12 => (c - 640) % 16
  | 13 => dieOf c
  | 14 => s.accid
  | 19 => s.gtb.toNat
  | 20 => (s.fibre c p).fpstat.toNat
  | 21 => (s.ctxOf c p).toNat
  | 22 => s.incarn.toNat
  | _ => 0

/-- A fibre as a read of FPSTAT finds it: the flags of each pending result may have landed already (R190). -/
def Fibre.landFlags (f : Fibre) (coin : Nat → Bool) : Fibre :=
  (List.range f.pending.length).foldl (fun (f : Fibre) i =>
    match f.pending[i]? with
    | some p => if coin (2048 + i) then { f.addFp p.fp with pending := f.pending.set i { p with fp := 0 } } else f
    | none => f) f

/-- The value of a special register. -/
def specialOf (s : State) (c p k : Nat) : Nat := if isControl c then specialControl s c p k else specialMain s c p k

def rdsrBody (o : OwnOp) (l : Lane) (s : State) : LaneEnd :=
  let k := o.a.toNat
  let s := if k = 20 then s.settleFlags l.c l.p else s
  let s := if k = 20 then s.updFibre l.c l.p (fun f => f.landFlags (s.coin l.p)) else s
  let t := l.put s o.ctl.t o.d (wd (specialOf s l.c l.p k))
  .go (if o.mod.getLsbD 0 then t.updFibre l.c l.p (fun f => { f with fpstat := 0 }) else t)

def execRdsr (o : OwnOp) (s : State) : Host.Outcome State Fault Refusal :=
  issue (checksOf (.rdsr o) o.ctl [o.d.toNat]) (rdsrBody o) s

/-! ## Group registers (R255) -/

def gmovBody (o : OwnOp) (l : Lane) (s : State) : LaneEnd := .go (l.put s o.ctl.t o.d (l.greg s o.a))

def execGmov (o : OwnOp) (s : State) : Host.Outcome State Fault Refusal :=
  issue (mainChecks (.gmov o) o.ctl [o.d.toNat]) (gmovBody o) s

def gwrBody (o : OwnOp) (l : Lane) (s : State) : LaneEnd :=
  if l.helper s then .go s
  else .go (s.updGroup l.c (l.fibre s).gslot (fun g => { g with gregs := g.gregs.set o.d.toNat (l.reg s o.a) }))

def execGwr (o : OwnOp) (s : State) : Host.Outcome State Fault Refusal :=
  issue { mainChecks (.gwr o) o.ctl [o.a.toNat] with lane0 := true } (gwrBody o) s

/-! ## FSPAWN (R128, R256) -/

/-- The lowest lane of a group that holds no fibre, drains no window and keeps none. -/
def State.freeLane (s : State) (c : Nat) (g : Group) : Option Nat :=
  (List.range g.width).find? (fun i => !s.hasFibre c (g.first + i))

/-- A fibre is created in a free lane and placed by R134. -/
def State.spawn (s : State) (c slot lane : Nat) (pc : BitVec 48) (v : Word) : State :=
  let g := s.group c slot
  let f := laneFibre g slot lane pc
  (s.setFibre c (g.first + lane) { f with window := f.window.set 0 v }).place c (g.first + lane)

def fspawnBody (o : OwnOp) (l : Lane) (s : State) : LaneEnd :=
  let target := l.reg s o.b
  let pd := o.d.toNat % 16
  if fld target 48 16 ≠ 0 then .trap s { code := .protection, info0 := target, info1 := 0 }
  else if fld target 0 3 ≠ 0 then .trap s { code := .illegalTarget, info0 := target, info1 := 0 }
  else if l.helper s then .go (l.putPred s pd false)
  else
    let slot := (l.fibre s).gslot
    match s.freeLane l.c (s.group l.c slot) with
    | some lane => .go ((l.putPred s pd true).spawn l.c slot lane (target.setWidth 48) (l.reg s o.a))
    | none => .go (l.putPred s pd false)

def execFspawn (o : OwnOp) (s : State) : Host.Outcome State Fault Refusal :=
  issue (mainChecks (.fspawn o) o.ctl (regsDA o.a o.b)) (fspawnBody o) s

end Sys2Proof.Machine
end

