-- ==== Sys2Proof/Machine/Pred.lean ====
section
/-! DEFINITION. Compares, selects and predicate moves (R244 to R248). -/

namespace Sys2Proof.Machine

/-! ## Conditions -/

/-- An integer condition by its code, 0 EQ to 5 GE (R244, R245). -/
def intCond (k : Nat) (a b : Int) : Bool :=
  match k with
  | 0 => decide (a = b)
  | 1 => decide (a ≠ b)
  | 2 => decide (a < b)
  | 3 => decide (a ≤ b)
  | 4 => decide (b < a)
  | _ => decide (b ≤ a)

/-- Is a value NaN? -/
def FVal.isNan : FVal → Bool
  | .nan _ _ _ => true
  | _ => false

/-- A floating-point condition by its code, 0 EQ to 7 OD, and IV (R244). -/
def floatCond (k : Nat) (x y : FVal) : Bool × BitVec 5 :=
  let un := x.isNan || y.isNan
  let iv := if decide (2 ≤ k) && decide (k ≤ 5) && un then fpIV else snanFlag [x, y]
  let lt := !un && ltVal x y
  let gt := !un && ltVal y x
  (match k with
   | 0 => !un && !lt && !gt
   | 1 => un || lt || gt
   | 2 => lt
   | 3 => !un && !gt
   | 4 => gt
   | 5 => !un && !lt
   | 6 => un
   | _ => !un, iv)

/-- The combination of OPX[5:4] (R244). -/
def combine (k : Nat) (r p : Bool) : Bool :=
  match k with
  | 0 => r
  | 1 => r && p
  | 2 => r || p
  | _ => r != p

/-! ## Meanings -/

def icmpBody (o : AluOp) (l : Lane) (s : State) : LaneEnd :=
  let r := intCond (o.opx.toNat % 16) (intOf o.ty (l.reg s o.a)) (intOf o.ty (l.reg s o.b))
  .go (l.putPred s o.d.toNat (combine (o.opx.toNat / 16 % 4) r (l.pred s o.c.toNat)))

def execIcmp (o : AluOp) (s : State) : Host.Outcome State Fault Refusal :=
  issue (checksOf (.icmp o) o.ctl (regsDA o.a o.b)) (icmpBody o) s

def fcmpBody (o : AluOp) (l : Lane) (s : State) : LaneEnd :=
  let f := fmtOf o.ty
  let r := floatCond (o.opx.toNat % 16) (inF f (ftzOf o) (fOf o.ty (l.reg s o.a))) (inF f (ftzOf o) (fOf o.ty (l.reg s o.b)))
  .go (l.addFp (l.putPred s o.d.toNat (combine (o.opx.toNat / 16 % 4) r.1 (l.pred s o.c.toNat))) r.2)

def execFcmp (o : AluOp) (s : State) : Host.Outcome State Fault Refusal :=
  issue (checksOf (.fcmp o) o.ctl (regsDA o.a o.b)) (fcmpBody o) s

/-- ICMPI's condition on a value (R245). -/
def icmpiCond (o : ImmOp) (a : Word) : Bool :=
  let t : Ty := if o.d.getLsbD 7 then .i64 else .u64
  intCond (o.d.toNat / 16 % 8) (intOf t a) (intOf t (imm31 o.imm))

def icmpiBody (o : ImmOp) (l : Lane) (s : State) : LaneEnd :=
  .go (l.putPred s (o.d.toNat % 16) (icmpiCond o (l.reg s o.a)))

def execIcmpi (o : ImmOp) (s : State) : Host.Outcome State Fault Refusal :=
  issue (checksOf (.icmpi o) o.ctl [o.a.toNat]) (icmpiBody o) s

def selBody (o : OwnOp) (l : Lane) (s : State) : LaneEnd :=
  .go (l.put s o.ctl.t o.d (if l.pred s (o.c.toNat % 16) then l.reg s o.a else l.reg s o.b))

def execSel (o : OwnOp) (s : State) : Host.Outcome State Fault Refusal :=
  issue (checksOf (.sel o) o.ctl (regsDAB o.d o.a o.b)) (selBody o) s

/-- PLOP's index into its table (R247). -/
def plopIndex (a b c : Bool) : Nat := (if a then 4 else 0) + (if b then 2 else 0) + (if c then 1 else 0)

def plopBody (o : OwnOp) (l : Lane) (s : State) : LaneEnd :=
  let i := plopIndex (l.pred s (o.a.toNat % 16)) (l.pred s (o.b.toNat % 16)) (l.pred s (o.c.toNat % 16))
  .go (l.putPred s (o.d.toNat % 16) (o.mod.getLsbD i))

def execPlop (o : OwnOp) (s : State) : Host.Outcome State Fault Refusal :=
  issue (checksOf (.plop o) o.ctl []) (plopBody o) s

/-- PRED with bit 15 read as 1, as its bits are read one by one (R248). -/
def predWord (l : Lane) (s : State) : Word :=
  wd ((List.range 16).foldl (fun x i => if l.pred s i then x + 2 ^ i else x) 0)

def pmovBody (o : OwnOp) (l : Lane) (s : State) : LaneEnd :=
  if o.mod.getLsbD 0 then
    let a := l.reg s o.a
    let b := l.reg s o.b
    .go ((List.range 15).foldl (fun s i => if b.getLsbD i then l.putPred s i (a.getLsbD i) else s) s)
  else .go (l.put s o.ctl.t o.d (predWord l s))

def execPmov (o : OwnOp) (s : State) : Host.Outcome State Fault Refusal :=
  issue (checksOf (.pmov o) o.ctl (if o.mod.getLsbD 0 then regsDA o.a o.b else [o.d.toNat])) (pmovBody o) s

end Sys2Proof.Machine
end

