-- ==== Sys2Proof/Machine/Dispatch.lean ====
section
/-! DEFINITION. The one match that sends each instruction and step to its meaning. -/

namespace Sys2Proof.Machine

/-- What an instruction or a step does to the state. -/
def exec (i : Instr) (s : State) : Host.Outcome State Fault Refusal :=
  match i with
  | .iadd o => Sys2Proof.Machine.execIadd o s
  | .isub o => Sys2Proof.Machine.execIsub o s
  | .iaddi o => Sys2Proof.Machine.execIaddi o s
  | .imul o => Sys2Proof.Machine.execImul o s
  | .imulh o => Sys2Proof.Machine.execImulh o s
  | .imad o => Sys2Proof.Machine.execImad o s
  | .idiv o => Sys2Proof.Machine.execIdiv o s
  | .irem o => Sys2Proof.Machine.execIrem o s
  | .imin o => Sys2Proof.Machine.execImin o s
  | .imax o => Sys2Proof.Machine.execImax o s
  | .iabs o => Sys2Proof.Machine.execIabs o s
  | .ineg o => Sys2Proof.Machine.execIneg o s
  | .and o => Sys2Proof.Machine.execAnd o s
  | .or o => Sys2Proof.Machine.execOr o s
  | .xor o => Sys2Proof.Machine.execXor o s
  | .andn o => Sys2Proof.Machine.execAndn o s
  | .shl o => Sys2Proof.Machine.execShl o s
  | .shr o => Sys2Proof.Machine.execShr o s
  | .sar o => Sys2Proof.Machine.execSar o s
  | .rot o => Sys2Proof.Machine.execRot o s
  | .bfx o => Sys2Proof.Machine.execBfx o s
  | .bfi o => Sys2Proof.Machine.execBfi o s
  | .popc o => Sys2Proof.Machine.execPopc o s
  | .clz o => Sys2Proof.Machine.execClz o s
  | .brev o => Sys2Proof.Machine.execBrev o s
  | .lea o => Sys2Proof.Machine.execLea o s
  | .movi o => Sys2Proof.Machine.execMovi o s
  | .movhi o => Sys2Proof.Machine.execMovhi o s
  | .mov o => Sys2Proof.Machine.execMov o s
  | .sadd o => Sys2Proof.Machine.execSadd o s
  | .idot4 o => Sys2Proof.Machine.execIdot4 o s
  | .permb o => Sys2Proof.Machine.execPermb o s
  | .fadd o => Sys2Proof.Machine.execFadd o s
  | .fsub o => Sys2Proof.Machine.execFsub o s
  | .fmul o => Sys2Proof.Machine.execFmul o s
  | .ffma o => Sys2Proof.Machine.execFfma o s
  | .fmin o => Sys2Proof.Machine.execFmin o s
  | .fmax o => Sys2Proof.Machine.execFmax o s
  | .fdiv o => Sys2Proof.Machine.execFdiv o s
  | .fsqrt o => Sys2Proof.Machine.execFsqrt o s
  | .frcp o => Sys2Proof.Machine.execFrcp o s
  | .frsq o => Sys2Proof.Machine.execFrsq o s
  | .fexp2 o => Sys2Proof.Machine.execFexp2 o s
  | .flog2 o => Sys2Proof.Machine.execFlog2 o s
  | .fsin o => Sys2Proof.Machine.execFsin o s
  | .fcos o => Sys2Proof.Machine.execFcos o s
  | .fclass o => Sys2Proof.Machine.execFclass o s
  | .frnd o => Sys2Proof.Machine.execFrnd o s
  | .fscale o => Sys2Proof.Machine.execFscale o s
  | .ffrxp o => Sys2Proof.Machine.execFfrxp o s
  | .cvtff o => Sys2Proof.Machine.execCvtff o s
  | .cvtfi o => Sys2Proof.Machine.execCvtfi o s
  | .cvtif o => Sys2Proof.Machine.execCvtif o s
  | .cvtn o => Sys2Proof.Machine.execCvtn o s
  | .cvtw o => Sys2Proof.Machine.execCvtw o s
  | .b4enc o => Sys2Proof.Machine.execB4enc o s
  | .b4dec o => Sys2Proof.Machine.execB4dec o s
  | .icmp o => Sys2Proof.Machine.execIcmp o s
  | .icmpi o => Sys2Proof.Machine.execIcmpi o s
  | .fcmp o => Sys2Proof.Machine.execFcmp o s
  | .sel o => Sys2Proof.Machine.execSel o s
  | .plop o => Sys2Proof.Machine.execPlop o s
  | .pmov o => Sys2Proof.Machine.execPmov o s
  | .qswz o => Sys2Proof.Machine.execQswz o s
  | .qddx o => Sys2Proof.Machine.execQddx o s
  | .qddy o => Sys2Proof.Machine.execQddy o s
  | .qvote o => Sys2Proof.Machine.execQvote o s
  | .rdsr o => Sys2Proof.Machine.execRdsr o s
  | .gmov o => Sys2Proof.Machine.execGmov o s
  | .gwr o => Sys2Proof.Machine.execGwr o s
  | .fspawn o => Sys2Proof.Machine.execFspawn o s
  | .ld o => Sys2Proof.Machine.execLd o s
  | .st o => Sys2Proof.Machine.execSt o s
  | .lds o => Sys2Proof.Machine.execLds o s
  | .sts o => Sys2Proof.Machine.execSts o s
  | .ldv o => Sys2Proof.Machine.execLdv o s
  | .ldp o => Sys2Proof.Machine.execLdp o s
  | .stp o => Sys2Proof.Machine.execStp o s
  | .pref o => Sys2Proof.Machine.execPref o s
  | .atom o => Sys2Proof.Machine.execAtom o s
  | .acas o => Sys2Proof.Machine.execAcas o s
  | .red o => Sys2Proof.Machine.execRed o s
  | .atomp o => Sys2Proof.Machine.execAtomp o s
  | .acasp o => Sys2Proof.Machine.execAcasp o s
  | .redp o => Sys2Proof.Machine.execRedp o s
  | .fence o => Sys2Proof.Machine.execFence o s
  | .bar o => Sys2Proof.Machine.execBar o s
  | .bara o => Sys2Proof.Machine.execBara o s
  | .barc o => Sys2Proof.Machine.execBarc o s
  | .cwait o => Sys2Proof.Machine.execCwait o s
  | .cclose o => Sys2Proof.Machine.execCclose o s
  | .mbarr o => Sys2Proof.Machine.execMbarr o s
  | .mbwait o => Sys2Proof.Machine.execMbwait o s
  | .qjoin o => Sys2Proof.Machine.execQjoin o s
  | .nano o => Sys2Proof.Machine.execNano o s
  | .br o => Sys2Proof.Machine.execBr o s
  | .brx o => Sys2Proof.Machine.execBrx o s
  | .jmpr o => Sys2Proof.Machine.execJmpr o s
  | .call o => Sys2Proof.Machine.execCall o s
  | .callr o => Sys2Proof.Machine.execCallr o s
  | .ret o => Sys2Proof.Machine.execRet o s
  | .exit o => Sys2Proof.Machine.execExit o s
  | .yield o => Sys2Proof.Machine.execYield o s
  | .trap o => Sys2Proof.Machine.execTrap o s
  | .bkpt o => Sys2Proof.Machine.execBkpt o s
  | .mclaim o => Sys2Proof.Machine.execMclaim o s
  | .mrel o => Sys2Proof.Machine.execMrel o s
  | .mlda o => Sys2Proof.Machine.execMlda o s
  | .mldb o => Sys2Proof.Machine.execMldb o s
  | .mma o => Sys2Proof.Machine.execMma o s
  | .mbegin o => Sys2Proof.Machine.execMbegin o s
  | .mend o => Sys2Proof.Machine.execMend o s
  | .mzero o => Sys2Proof.Machine.execMzero o s
  | .mdrain o => Sys2Proof.Machine.execMdrain o s
  | .mldc o => Sys2Proof.Machine.execMldc o s
  | .msig o => Sys2Proof.Machine.execMsig o s
  | .mwait o => Sys2Proof.Machine.execMwait o s
  | .mloop o => Sys2Proof.Machine.execMloop o s
  | .mstop o => Sys2Proof.Machine.execMstop o s
  | .mmovi o => Sys2Proof.Machine.execMmovi o s
  | .madd o => Sys2Proof.Machine.execMadd o s
  | .tcopy o => Sys2Proof.Machine.execTcopy o s
  | .tcopyp o => Sys2Proof.Machine.execTcopyp o s
  | .halo o => Sys2Proof.Machine.execHalo o s
  | .ared o => Sys2Proof.Machine.execAred o s
  | .bcast o => Sys2Proof.Machine.execBcast o s
  | .tfill o => Sys2Proof.Machine.execTfill o s
  | .rqry o => Sys2Proof.Machine.execRqry o s
  | .rqnext o => Sys2Proof.Machine.execRqnext o s
  | .rcq o => Sys2Proof.Machine.execRcq o s
  | .rcqt o => Sys2Proof.Machine.execRcqt o s
  | .rcflip o => Sys2Proof.Machine.execRcflip o s
  | .qpush o => Sys2Proof.Machine.execQpush o s
  | .qpop o => Sys2Proof.Machine.execQpop o s
  | .rcls o => Sys2Proof.Machine.execRcls o s
  | .rsub o => Sys2Proof.Machine.execRsub o s
  | .texs o => Sys2Proof.Machine.execTexs o s
  | .residCreate o => Sys2Proof.Machine.execResidCreate o s
  | .residDestroy o => Sys2Proof.Machine.execResidDestroy o s
  | .residSetprio o => Sys2Proof.Machine.execResidSetprio o s
  | .residSetpin o => Sys2Proof.Machine.execResidSetpin o s
  | .residPromote o => Sys2Proof.Machine.execResidPromote o s
  | .residDemote o => Sys2Proof.Machine.execResidDemote o s
  | .residRead o => Sys2Proof.Machine.execResidRead o s
  | .vpub o => Sys2Proof.Machine.execVpub o s
  | .vrecl o => Sys2Proof.Machine.execVrecl o s
  | .cwb o => Sys2Proof.Machine.execCwb o s
  | .cinv o => Sys2Proof.Machine.execCinv o s
  | .iinv o => Sys2Proof.Machine.execIinv o s
  | .fetchb o => Sys2Proof.Machine.execFetchb o s
  | .rdtime o => Sys2Proof.Machine.execRdtime o s
  | .perfr o => Sys2Proof.Machine.execPerfr o s
  | .lnchLaunch o => Sys2Proof.Machine.execLnchLaunch o s
  | .lnchBind o => Sys2Proof.Machine.execLnchBind o s
  | .lnchUnbind o => Sys2Proof.Machine.execLnchUnbind o s
  | .mtcr o => Sys2Proof.Machine.execMtcr o s
  | .mfcr o => Sys2Proof.Machine.execMfcr o s
  | .halt o => Sys2Proof.Machine.execHalt o s
  | .ckpt o => Sys2Proof.Machine.execCkpt o s
  | .hnop o => Sys2Proof.Machine.execHnop o s
  | .halfIadd o => Sys2Proof.Machine.execHalfIadd o s
  | .halfIsub o => Sys2Proof.Machine.execHalfIsub o s
  | .halfAnd o => Sys2Proof.Machine.execHalfAnd o s
  | .halfOr o => Sys2Proof.Machine.execHalfOr o s
  | .halfXor o => Sys2Proof.Machine.execHalfXor o s
  | .halfShl o => Sys2Proof.Machine.execHalfShl o s
  | .halfShr o => Sys2Proof.Machine.execHalfShr o s
  | .halfSar o => Sys2Proof.Machine.execHalfSar o s
  | .halfMov o => Sys2Proof.Machine.execHalfMov o s
  | .halfImin o => Sys2Proof.Machine.execHalfImin o s
  | .halfImax o => Sys2Proof.Machine.execHalfImax o s
  | .halfFadd o => Sys2Proof.Machine.execHalfFadd o s
  | .halfFsub o => Sys2Proof.Machine.execHalfFsub o s
  | .halfFmul o => Sys2Proof.Machine.execHalfFmul o s
  | .halfFmin o => Sys2Proof.Machine.execHalfFmin o s
  | .halfFmax o => Sys2Proof.Machine.execHalfFmax o s
  | .halfMovi o => Sys2Proof.Machine.execHalfMovi o s
  | .halfIabs o => Sys2Proof.Machine.execHalfIabs o s
  | .halfIneg o => Sys2Proof.Machine.execHalfIneg o s
  | .ferrySelection core => Sys2Proof.Machine.execFerrySelection core s
  | .entrySpill core => Sys2Proof.Machine.execEntrySpill core s
  | .resultLands core place idx => Sys2Proof.Machine.execResultLands core place idx s
  | .lotteryDraw => Sys2Proof.Machine.execLotteryDraw s
  | .clusterPlacement die => Sys2Proof.Machine.execClusterPlacement die s
  | .spanReady rank spanId => Sys2Proof.Machine.execSpanReady rank spanId s
  | .boundIdleExpiry lq => Sys2Proof.Machine.execBoundIdleExpiry lq s
  | .groupEnd core slot => Sys2Proof.Machine.execGroupEnd core slot s
  | .gridEnd grid => Sys2Proof.Machine.execGridEnd grid s
  | .barTimeout core slot phase => Sys2Proof.Machine.execBarTimeout core slot phase s
  | .nanoExpiry core ferry => Sys2Proof.Machine.execNanoExpiry core ferry s
  | .retentionEntry core => Sys2Proof.Machine.execRetentionEntry core s
  | .retentionExit core => Sys2Proof.Machine.execRetentionExit core s
  | .leaseSweep core => Sys2Proof.Machine.execLeaseSweep core s
  | .bounceDecay => Sys2Proof.Machine.execBounceDecay s
  | .l1Fill core line dom => Sys2Proof.Machine.execL1Fill core line dom s
  | .writebackArrival core line => Sys2Proof.Machine.execWritebackArrival core line s
  | .l2Eviction die line => Sys2Proof.Machine.execL2Eviction die line s
  | .directoryRequest die word req => Sys2Proof.Machine.execDirectoryRequest die word req s
  | .bisnpReceipt line home => Sys2Proof.Machine.execBisnpReceipt line home s
  | .birspReceipt line holder => Sys2Proof.Machine.execBirspReceipt line holder s
  | .releasePushComplete core ferry => Sys2Proof.Machine.execReleasePushComplete core ferry s
  | .settleNotice core place home => Sys2Proof.Machine.execSettleNotice core place home s
  | .engineCommandComplete core slot queue => Sys2Proof.Machine.execEngineCommandComplete core slot queue s
  | .pageWalk die ctx va => Sys2Proof.Machine.execPageWalk die ctx va s
  | .faultRecordWrite => Sys2Proof.Machine.execFaultRecordWrite s
  | .shootdown value => Sys2Proof.Machine.execShootdown value s
  | .shootdownComplete => Sys2Proof.Machine.execShootdownComplete s
  | .replayPage value => Sys2Proof.Machine.execReplayPage value s
  | .replayToken value => Sys2Proof.Machine.execReplayToken value s
  | .replayExhaustedPage value => Sys2Proof.Machine.execReplayExhaustedPage value s
  | .replayExhaustedToken value => Sys2Proof.Machine.execReplayExhaustedToken value s
  | .faultWatchdog die token => Sys2Proof.Machine.execFaultWatchdog die token s
  | .preSave value => Sys2Proof.Machine.execPreSave value s
  | .preRestore value => Sys2Proof.Machine.execPreRestore value s
  | .preKill value => Sys2Proof.Machine.execPreKill value s
  | .saveRecordWrite => Sys2Proof.Machine.execSaveRecordWrite s
  | .moveStart => Sys2Proof.Machine.execMoveStart s
  | .movePage => Sys2Proof.Machine.execMovePage s
  | .copyOnWrite die token => Sys2Proof.Machine.execCopyOnWrite die token s
  | .vpubAccept core slot => Sys2Proof.Machine.execVpubAccept core slot s
  | .vpubComplete ctx region => Sys2Proof.Machine.execVpubComplete ctx region s
  | .vreclAccept core slot => Sys2Proof.Machine.execVreclAccept core slot s
  | .vreclPageVisit ctx region => Sys2Proof.Machine.execVreclPageVisit ctx region s
  | .recoveryTimer plane => Sys2Proof.Machine.execRecoveryTimer plane s
  | .fabricRequestArrival pkt => Sys2Proof.Machine.execFabricRequestArrival pkt s
  | .peerTimeoutDeclaration peer => Sys2Proof.Machine.execPeerTimeoutDeclaration peer s
  | .planeDown station => Sys2Proof.Machine.execPlaneDown station s
  | .planeUp station => Sys2Proof.Machine.execPlaneUp station s
  | .dieDeath die => Sys2Proof.Machine.execDieDeath die s
  | .poisonedRead line port => Sys2Proof.Machine.execPoisonedRead line port s
  | .hostMemoryAccess pa data => Sys2Proof.Machine.execHostMemoryAccess pa data s
  | .rsubAccept core slot => Sys2Proof.Machine.execRsubAccept core slot s
  | .rsubConsume die sub => Sys2Proof.Machine.execRsubConsume die sub s
  | .occlusionRecord sub => Sys2Proof.Machine.execOcclusionRecord sub s
  | .rasterLinkLoss ctx target => Sys2Proof.Machine.execRasterLinkLoss ctx target s
  | .adamStep net => Sys2Proof.Machine.execAdamStep net s
  | .rcflipAccept core slot => Sys2Proof.Machine.execRcflipAccept core slot s
  | .trapRecordPush => Sys2Proof.Machine.execTrapRecordPush s
  | .resumeResume ctx => Sys2Proof.Machine.execResumeResume ctx s
  | .resumeEnd ctx => Sys2Proof.Machine.execResumeEnd ctx s
  | .resumeKill ctx => Sys2Proof.Machine.execResumeKill ctx s
  | .bspartWrite core value => Sys2Proof.Machine.execBspartWrite core value s
  | .planeSteerWrite value => Sys2Proof.Machine.execPlaneSteerWrite value s
  | .planeQuiesceWrite value => Sys2Proof.Machine.execPlaneQuiesceWrite value s
  | .peerDeclareDead peer value => Sys2Proof.Machine.execPeerDeclareDead peer value s
  | .peerReadmit peer value => Sys2Proof.Machine.execPeerReadmit peer value s
  | .fabRtoWrite value => Sys2Proof.Machine.execFabRtoWrite value s
  | .fabricCounterClear counter => Sys2Proof.Machine.execFabricCounterClear counter s
  | .pkgCfgWrite value => Sys2Proof.Machine.execPkgCfgWrite value s
  | .rcSlotWrite net value => Sys2Proof.Machine.execRcSlotWrite net value s
  | .islandOff island => Sys2Proof.Machine.execIslandOff island s
  | .islandOn island => Sys2Proof.Machine.execIslandOn island s
  | .islandAdmission => Sys2Proof.Machine.execIslandAdmission s
  | .imgGo value => Sys2Proof.Machine.execImgGo value s
  | .imageVerified => Sys2Proof.Machine.execImageVerified s
  | .attGo value => Sys2Proof.Machine.execAttGo value s
  | .ckptRestore value => Sys2Proof.Machine.execCkptRestore value s
  | .ucieLinkTraining up => Sys2Proof.Machine.execUcieLinkTraining up s
  | .packageReset => Sys2Proof.Machine.execPackageReset s
  | .controlRegisterWrite offset value => Sys2Proof.Machine.execControlRegisterWrite offset value s
  | .fabricResponseArrival rsp => Sys2Proof.Machine.execFabricResponseArrival rsp s
  | .traversalUnitError die unit => Sys2Proof.Machine.execTraversalUnitError die unit s
  | .controlThreadRestart core thread pc => Sys2Proof.Machine.execControlThreadRestart core thread pc s
  | .attestationReportWritten => Sys2Proof.Machine.execAttestationReportWritten s
  | .checkpointCutComplete => Sys2Proof.Machine.execCheckpointCutComplete s
  | .checkpointRestoreComplete => Sys2Proof.Machine.execCheckpointRestoreComplete s

end Sys2Proof.Machine
end

