-- ==== Sys2Proof/Machine/Issue.lean ====
section
/-! DEFINITION. What a ferry does with the word at its PC before the instruction has its effect: the fetch, clause headers
and WAIT masks, the structure of blocks, and decoding (R131, R150, R195, R209, R210, R215). -/

namespace Sys2Proof.Machine

/-- What stands next for a ferry: an instruction to execute, or a step that is over. -/
inductive NextWord where
  | instr (i : Instr) (s : State)
  | over (s : State)

/-- The word at a ferry's PC: held already, or fetched (R55). -/
def State.ferryWord (s : State) (c n : Nat) : State × Except AccessStop Word :=
  let fy := s.ferry c n
  let a := fy.pc.toNat / 8 * 8
  match AMap.find fy.held a with
  | some w => (s, .ok w)
  | none => s.fetchWord c fy.ctx a

/-- A word of a block enters the view of a fibre, where the view has the block: a fibre that has discarded its view since it entered the
block has it no more (R55). -/
def Fibre.see (f : Fibre) (entry a : Nat) (w : Word) : Fibre :=
  match AMap.find f.view entry with
  | some b => { f with view := AMap.put f.view entry (AMap.put b a w) }
  | none => f

/-- A word fetched from an address is held by the ferry and enters the views of its fibres (R55). -/
def State.keepAt (s : State) (c n a : Nat) (w : Word) : State :=
  let fy := s.ferry c n
  if (AMap.find fy.held a).isSome then s
  else
    let s := s.setFerry c n { fy with held := AMap.put fy.held a w }
    fy.lanes.foldl (fun s p => s.updFibre c p (fun f => f.see fy.entry.toNat a w)) s

/-- The word at a ferry's PC is held. -/
def State.keepWord (s : State) (c n : Nat) (w : Word) : State := s.keepAt c n ((s.ferry c n).pc.toNat / 8 * 8) w

/-- A terminator (R132). -/
def isTerminator (i : Instr) : Bool :=
  match i with
  | .br .. | .brx .. | .jmpr .. | .ret .. | .call .. | .callr .. | .exit .. | .yield .. | .bar .. | .barc .. | .mbwait .. => true
  | _ => false

/-- A word after which a block ends. -/
def endsBlock (w : Word) : Bool :=
  match decodeWord w with
  | .single i => isTerminator i
  | .pair _ b => isTerminator b
  | _ => false

/-- The word at an address as the ferry has it, or would fetch it now. -/
def State.peekWord (s : State) (c n a : Nat) : Option Word :=
  match AMap.find (s.ferry c n).held a with
  | some w => some w
  | none => match (s.fetchWord c (s.ferry c n).ctx a).2 with
    | .ok w => some w
    | .error _ => none

/-- The addresses of the words of a ferry's block from one on, up to a number of them, as its headers say: the clause there has `left`
words left and ends the block or not; or it is one in which a resumption ferry began, whose length nothing says. -/
def State.blockFrom (s : State) (c n a : Nat) (known : Bool) (left : Nat) (last : Bool) : Nat → List Nat
  | 0 => []
  | k + 1 =>
    if known && left == 0 && last then []
    else match s.peekWord c n a with
      | none => []
      | some w =>
        if known && left != 0 then a :: State.blockFrom s c n (a + 8) true (left - 1) last k
        else match (if isHeader w then unpackHeader w else none) with
          | some h => a :: State.blockFrom s c n (a + 8) true h.len.toNat h.e k
          | none => if known || endsBlock w then [a] else a :: State.blockFrom s c n (a + 8) false 0 false k

/-- A ferry fetches words of its block before it issues them: which of them is not fixed, and `take` says (R55, R56). A fetch that fails
has no effect. -/
def State.fetchAhead (s : State) (c n take : Nat) : State :=
  let fy := s.ferry c n
  let a := fy.pc.toNat / 8 * 8
  let block := match fy.clause with
    | none => s.blockFrom c n a true 0 false 240
    | some x => s.blockFrom c n a x.known x.left x.e 240
  (block.filter (fun b => take.testBit ((b - a) / 8))).foldl (fun (s : State) b =>
    if (AMap.find (s.ferry c n).held b).isSome then s
    else match s.fetchWord c fy.ctx b with
      | (t, .ok w) => t.keepAt c n b w
      | (_, .error _) => s) s

/-- A failed fetch stops every lane (R154); none where a lane can neither park nor trap yet. A lane parked at the first word of its
block goes to that block again when it wakes (R134). -/
def State.stopFerry (s : State) (c n : Nat) (x : AccessStop) : Option State :=
  let fy := s.ferry c n
  fy.lanes.foldl (fun s p => s.bind (fun s => (s.stopFibre c p fy.pc x .fetch).map (fun s =>
    if fy.clause.isNone then s.updFibre c p (fun f => { f with target := f.target || f.waitk == .token }) else s))) (some s)

/-- A clause header met by a ferry (R150, R209, R210). -/
def State.startClause (s : State) (c n : Nat) (w : Word) : State :=
  let fy := s.ferry c n
  let bad : Trap := { code := .illegalOp, info0 := w, info1 := 0 }
  match unpackHeader w with
  | none => s.trapFerry c n fy.pc bad
  | some h =>
    if 15 ≤ fy.clauses then s.trapFerry c n fy.pc bad
    else if !fy.lanes.all (fun p => (s.fibre c p).meets h.wait) then s
    else
      let k : ClauseState := { known := true, left := h.len.toNat, setA := h.setA, setB := h.setB, e := h.e }
      s.setFerry c n { fy with clause := some k, clauses := fy.clauses + 1, pc := fy.pc + 8 }

/-- A full-format word with an opcode of 0xB0 to 0xBF, which only a matrix sequencer executes (R213). -/
def isStreamWord (w : Word) : Bool := !flag w 63 && fld w 59 4 == 0xB

/-- The instruction in a word that stands where an instruction is expected. -/
def State.decodeNext (s : State) (c n : Nat) (w : Word) : NextWord :=
  let fy := s.ferry c n
  let half1 := flag (fy.pc.setWidth 64) 2
  let trap (code : TrapCode) : NextWord := .over (s.trapFerry c n fy.pc { code := code, info0 := w, info1 := 0 })
  match decodeWord w with
  | .single i => if half1 || isStreamWord w then trap .illegalOp else .instr i s
  | .pair a b => if fy.structureOk false then .instr (if half1 then b else a) s else trap .illegalOp
  | .bad .pairing => trap .illegalPair
  | .bad _ => trap .illegalOp
  | .header _ => trap .illegalOp
  | .badHeader => trap .illegalOp

/-- What a ferry does with the word at its PC. -/
def State.nextWord (s : State) (c n : Nat) : NextWord :=
  let fy := s.ferry c n
  match s.ferryWord c n with
  | (s, .error x) => .over ((s.stopFerry c n x).getD s)
  | (s, .ok w) =>
    let s := s.keepWord c n w
    let header := isHeader w && fy.pc.toNat % 8 == 0
    match fy.clause with
    | none =>
      if header then .over (s.startClause c n w)
      else .over (s.trapFerry c n fy.pc { code := .illegalTarget, info0 := fy.pc.setWidth 64, info1 := 0 })
    | some k =>
      if k.known && k.left == 0 then
        if header then .over (s.startClause c n w)
        else .over (s.trapFerry c n fy.pc { code := .illegalOp, info0 := w, info1 := 0 })
      else if header && !k.known then .over (s.startClause c n w)
      else s.decodeNext c n w

/-- No access of a fibre keeps what follows it from going on: an acquire that is not performed yet does (R90), and so does one that
waits for room in the die L2 or for its word (R44, R66, R69). -/
def State.mayPass (s : State) (c p : Nat) : Bool := (s.fibre c p).lates.all (fun a => !a.acq && s.lateOpen c a)

/-- A BARA word (R271). -/
def isBara (w : Word) : Bool :=
  match decodeWord w with
  | .single (.bara _) => true
  | _ => false

/-- A ferry stands between BARA words that follow one another: it has issued one, and the next is the word at its PC. -/
def State.betweenArrivals (s : State) (c n : Nat) (fy : Ferry) : Bool :=
  fy.pos != 0 && fy.hold == .none && !s.restoring fy.ctx && (AMap.find fy.held (fy.pc.toNat - 8)).any isBara && (s.peekWord c n fy.pc.toNat).any isBara
    && fy.lanes.all (fun p => s.mayPass c p)

/-- Another ferry of the core stands between BARA words, which issue one after the other (R368; DEDUCED, log entry 83). -/
def State.arrivalsFirst (s : State) (c n : Nat) : Bool :=
  (s.core c).ferries.any (fun (f : Nat × Ferry) => f.1 != n && s.betweenArrivals c f.1 f.2) && !s.betweenArrivals c n (s.ferry c n)

/-- A ferry that can go on: its core is awake (R60), nothing holds it, no RESTORE of its context is in progress (R172), a fibre resumed in
it has all its counters at zero (R154), and no access of its fibres keeps it. -/
def State.canIssue (s : State) (c n : Nat) : Bool :=
  match AMap.find (s.core c).ferries n with
  | none => false
  | some fy => !(s.core c).asleep && fy.hold == .none && !s.restoring fy.ctx && !s.arrivalsFirst c n
    && fy.lanes.all (fun p => (!(s.fibre c p).resumed || (s.fibre c p).quiet) && s.mayPass c p)

end Sys2Proof.Machine
end

