-- ==== Sys2Proof/Machine/Arbiter.lean ====
section
/-! DEFINITION. Who moves next: the turns of ferries and streams, the passing of a tick, and the order that the machine takes
where State names no turn (log entry 6). -/

namespace Sys2Proof.Machine

/-! ## Turns of issuing agents -/

/-- A ferry takes its next word. A fibre that was resumed in it has all its counters at zero, and from then on is like any
other (R154). -/
def runFerry (s : State) (c n : Nat) : Host.Outcome State Fault Refusal :=
  if !s.canIssue c n then .next s
  else
    let s := { (s.ferry c n).lanes.foldl (fun (s : State) p =>
      if (s.fibre c p).resumed then s.updFibre c p (fun f => { f with resumed := false }) else s) s with cur := .ferry c n }
    match s.nextWord c n with
    | .instr i s => exec i s
    | .over s => .next s

/-- The word at a stream's PC, fetched through the instruction cache of its core. -/
def State.streamWord (s : State) (c g : Nat) (x : Stream) : State × Except AccessStop Word :=
  match x.held with
  | some w => (s, .ok w)
  | none =>
    if x.pc.toNat % 8 ≠ 0 then (s, .error (trap0 .misaligned (x.pc.setWidth 64)))
    else s.fetchWord c (s.group c g).ctx x.pc.toNat

/-- A stream may go on: it runs or tries a claim again, its core is awake (R60), and after a restore the times of the write-backs have
passed (R108). -/
def State.streamOpen (s : State) (c : Nat) (x : Stream) : Bool :=
  decide (x.st = .running ∨ x.st = .waitClaim) && !(s.core c).asleep && (x.holdTill == 0 || decide (x.holdTill.toNat < s.gtb.toNat))

/-- A stream takes its next word; a word that is no stream word traps ILLEGAL_OP on the sequencer (R213, R282, R284). -/
def runStream (s : State) (c g : Nat) : Host.Outcome State Fault Refusal :=
  match (s.group c g).stream with
  | none => .next s
  | some x =>
    if s.streamOpen c x then
      match s.streamWord c g x with
      | (s, .error e) => .next (s.stopStream c g e x.pc .fetch)
      | (s, .ok w) =>
        let s := { s.updStream c g (fun y => { y with held := some w }) with cur := .stream c g }
        match if isStreamWord w then decodeWord w else .badHeader with
        | .single i => exec i s
        | _ => .next (s.sequencerTrap c g { code := .illegalOp, info0 := w, info1 := 0 })
    else .next s

/-- The turn of an agent. -/
def runAgent (s : State) (a : Agent) : Host.Outcome State Fault Refusal :=
  match a with
  | .none => .next s
  | .ferry c n => runFerry s c n
  | .stream c g => runStream s c g

/-! ## A tick (R61) -/

/-- Idle intervals of the cores that are active now (R60). -/
def State.markBusy (s : State) : State :=
  { s with cores := s.cores.map (fun (k : Nat × Core) =>
      if s.coreIdle k.1 then k else (k.1, { k.2 with idleSince := s.gtb })) }

/-- Interposer packets of a die that has died arrive and are dropped as stale (R81, R83). -/
def State.latePackets (s : State) : State :=
  (s.dies.map (fun (d : Nat × Die) => d.1)).foldl (fun (s : State) d =>
    if 0 < (s.die d).late && s.coin d 23 then (s.updDie d (fun x => { x with late := x.late - 1 })).addStale else s) s

/-- A line of a core's instruction cache leaves it, or none: R55 gives the cache's size and ways, and not when a line leaves (DESIGN
CHOICE, log entry 84). -/
def State.dropCode (s : State) (c : Nat) : State :=
  let pick := Config.freeNat s.freeCtr (2 ^ 24 + c)
  match (s.core c).icache[pick]? with
  | some x => s.updCore c (fun k => { k with icache := AMap.drop k.icache x.1 })
  | none => s

/-- Ferries fetch words of their blocks ahead, those that a free value says, and lines leave instruction caches (R55, R56). -/
def State.fetchAll (s : State) : State :=
  s.cores.foldl (fun (s : State) (k : Nat × Core) =>
    if k.2.asleep then s
    else k.2.ferries.foldl (fun (s : State) (f : Nat × Ferry) =>
      s.fetchAhead k.1 f.1 (Config.freeNat s.freeCtr (2 ^ 22 + k.1 + 1024 * f.1))) (if k.2.icache.isEmpty then s else s.dropCode k.1)) s

/-- A fibre may perform loads ahead of the words before them: its ferry waits for nothing, or for a release whose push orders no later
load (R90). -/
def Ferry.mayLead (fy : Ferry) : Bool :=
  match fy.hold with
  | .none => true
  | .release _ (.fence o) => fenceKind o == 2 && o.mod.toNat % 64 == 0
  | .release _ _ => true
  | .acquire | .accept _ _ _ | .nano _ => false

/-- Fibres perform loads early, freely chosen (R90). -/
def State.loadsEarly (s : State) : State :=
  s.cores.foldl (fun (s : State) (k : Nat × Core) =>
    if k.2.asleep then s
    else k.2.ferries.foldl (fun (s : State) (f : Nat × Ferry) =>
      if f.2.mayLead then f.2.lanes.foldl (fun (s : State) p =>
        if s.coin (2 ^ 23 + 4096 * k.1 + p) 4101 then s.loadEarly k.1 p (Config.freeNat s.freeCtr (2 ^ 23 + 4096 * k.1 + p)) else s) s
      else s) s) s

/-- What takes effect as a tick passes: sweeps and decay, islands that have drained, a network slot that settles, late packets,
fetches ahead, requests that are sent or performed again, interrupt masks that the host writes, and queues that software may have
changed. The GTB advances by 1. Back-invalidations
whose leases are over are answered, sleeping cores that must wake do, phases and pauses whose time has come are over, and watchdogs and
the fabric's timers act. -/
def State.tick (s : State) : State :=
  let s := s.periodic
  let s := (s.plat.islands.map (fun (i : Nat × Word) => i.1)).foldl (fun (s : State) i => if i < 160 then s.powerOff i else s) s
  let s := if s.coin 3 0 then s.settleSlot 0 else s
  let s := if s.coin 3 1 then s.settleSlot 1 else s
  let s := s.hostMasks
  let s := (s.latePackets.fetchAll.loadsEarly.redoPeers.retryPeers.watchQueues.wakeQueues).markBusy
  ({ s with gtb := s.gtb + 1 } : State).sendBiRsp.wakeDue.timeOutAll.endPauses.watchAll.fabricTimers

/-! ## Taking a turn -/

/-- The step of another agent than a fibre, a thread or a stream: a row of the opcode table that is no word and no half. -/
def isEvent (i : Instr) : Bool := (encode i).isNone && (encodeHalf i).isNone

/-- An event that takes no translation, frame, place or core away, and so passes accesses that are still to perform. -/
def passesLate (i : Instr) : Bool :=
  match i with
  | .resultLands .. | .ferrySelection .. | .entrySpill .. | .releasePushComplete .. | .engineCommandComplete .. | .settleNotice ..
  | .nanoExpiry .. | .barTimeout .. | .fabricResponseArrival .. | .fabricRequestArrival .. | .bisnpReceipt .. | .birspReceipt .. | .lotteryDraw
  | .clusterPlacement .. | .gridEnd .. | .boundIdleExpiry .. | .leaseSweep .. | .bounceDecay | .l1Fill .. | .writebackArrival ..
  | .l2Eviction .. | .directoryRequest .. | .pageWalk .. | .faultRecordWrite | .trapRecordPush | .hostMemoryAccess .. | .rsubConsume ..
  | .occlusionRecord .. | .recoveryTimer .. => true
  | _ => false

/-- The state in which an event happens: accesses still to perform are performed first, but for events that may pass them (log entry 18). -/
def State.before (s : State) (i : Instr) : State := if passesLate i then s else s.settleAll

/-- One turn. -/
def takeTurn (t : Turn) (s : State) : Host.Outcome State Fault Refusal :=
  match t with
  | .ev i => if isEvent i && i.wf && (passesLate i || s.allOpen) then exec i (s.before i) else .next s
  | .run a => runAgent s a
  | .tick => .next s.tick

/-! ## Turns that are open -/

/-- What the ferries of a core may do. -/
def ferryTurns (s : State) (c : Nat) (x : Nat × Ferry) : List Turn :=
  match x.2.hold with
  | .none => if s.canIssue c x.1 then [.run (.ferry c x.1)] else []
  | .release _ _ => [.ev (.releasePushComplete c x.1)]
  | .nano _ => [.ev (.nanoExpiry c x.1)]
  | .acquire | .accept _ _ _ => []

/-- What concerns a group: its stream, its queues, acceptance by the engines, its barriers and its end. -/
def groupTurns (s : State) (c : Nat) (x : Nat × Group) : List Turn :=
  let waits := (s.core c).ferries.any (fun (f : Nat × Ferry) => match f.2.hold with
    | .accept _ _ _ => true
    | _ => false)
  (match x.2.stream with
    | some y => if s.streamOpen c y then [Turn.run (.stream c x.1)] else []
    | none => [])
  ++ ((List.range 7).filter (fun q => !(x.2.queues.getD q []).isEmpty)).map (fun q => Turn.ev (.engineCommandComplete c x.1 q))
  ++ (if waits then [.ev (.vpubAccept c x.1), .ev (.vreclAccept c x.1), .ev (.rsubAccept c x.1), .ev (.rcflipAccept c x.1)] else [])
  ++ ((x.2.barriers.filter (fun (b : Nat × Barrier) => b.2.first.isSome)).map (fun b => Turn.ev (.barTimeout c x.1 b.1)))
  ++ [.ev (.barTimeout c x.1 16), .ev (.groupEnd c x.1)]

/-- What concerns a fibre: its results and settle notices. -/
def fibreTurns (s : State) (c : Nat) (x : Nat × Fibre) : List Turn :=
  (List.range x.2.pending.length).map (fun i => Turn.ev (.resultLands c x.1 i))
    ++ x.2.notices.map (fun h => Turn.ev (.settleNotice c x.1 { id := h, inc := BitVec.ofNat 16 (fld (s.peerEntry h) 0 16) }))

/-- What may happen on a core. -/
def coreTurns (s : State) (x : Nat × Core) : List Turn :=
  x.2.ferries.flatMap (ferryTurns s x.1) ++ x.2.groups.flatMap (groupTurns s x.1) ++ x.2.fibres.flatMap (fibreTurns s x.1)
    ++ [.ev (.ferrySelection x.1), .ev (.entrySpill x.1), .ev (.retentionExit x.1), .ev (.retentionEntry x.1)]

/-- What may happen on a die. -/
def dieTurns (x : Nat × Die) : List Turn :=
  x.2.wait.flatMap (fun (e : Nat × WaitEntry) =>
    (if e.2.kind = .version then [Turn.ev (.copyOnWrite x.1 e.1)] else []) ++ [.ev (.faultWatchdog x.1 e.1)])

/-- What may happen in the package as a whole. -/
def packageTurns (s : State) : List Turn :=
  [.ev .lotteryDraw, .ev .faultRecordWrite, .ev .trapRecordPush, .ev .saveRecordWrite, .ev .moveStart, .ev .movePage,
   .ev .shootdownComplete, .ev .islandAdmission, .ev .imageVerified, .ev .attestationReportWritten,
   .ev .checkpointCutComplete, .ev .checkpointRestoreComplete, .ev (.adamStep 0), .ev (.adamStep 1)]
  ++ (List.range 4).map (fun d => Turn.ev (.clusterPlacement d))
  ++ s.grids.map (fun (g : Nat × Grid) => Turn.ev (.gridEnd g.1))
  ++ s.queues.map (fun (q : Nat × List Nat) => Turn.ev (.boundIdleExpiry q.1))
  ++ s.records.flatMap (fun (r : Nat × List Word) =>
      let ctx := BitVec.ofNat 12 r.1
      [Turn.ev (.resumeResume ctx), .ev (.resumeEnd ctx), .ev (.resumeKill ctx)])
  ++ s.dies.flatMap (fun (d : Nat × Die) => d.2.snaps.map (fun x =>
      if x.page.isSome then Turn.ev (.vreclPageVisit x.ctx (BitVec.ofNat 4 x.region))
      else .ev (.vpubComplete x.ctx (BitVec.ofNat 4 x.region))))
  ++ s.subs.flatMap (fun (x : Submission) =>
      x.todo.map (fun d => Turn.ev (.rsubConsume d x.id)) ++ [.ev (.occlusionRecord x.id)])
  ++ (List.range 16).map (fun p => Turn.ev (.recoveryTimer p))
  ++ s.fabric.send.map (fun (w : Nat × SendWindow) => Turn.ev (.peerTimeoutDeclaration (w.1 / 16)))

/-- The turns that are looked at where State names none. What only the world outside causes, and what the memory system may
do at any time without need, is not among them. -/
def openTurns (s : State) : List Turn :=
  .tick :: (s.cores.flatMap (coreTurns s) ++ s.dies.flatMap dieTurns ++ packageTurns s)

/-- The first turn of a list that changes the state; a tick, where none does. -/
def firstTurn (s : State) : List Turn → Host.Outcome State Fault Refusal
  | [] => takeTurn .tick s
  | t :: ts =>
    match takeTurn t s with
    | .next s' => if s' = s then firstTurn s ts else .next s'
    | o => o

/-- A list from its element `k` on, and then what stands before. -/
def rotateTurns (k : Nat) (ts : List Turn) : List Turn := ts.drop (k % ts.length) ++ ts.take (k % ts.length)

/-- The turn that State names, or one of the open ones: each in its turn is looked at first. -/
def nextTurn (s : State) : Host.Outcome State Fault Refusal :=
  match s.turns with
  | t :: ts => takeTurn t { s with turns := ts }
  | [] => firstTurn s (rotateTurns s.freeCtr (openTurns s))

/-! ## A program placed for the next step -/

/-- The word runs only on a control core: LNCH and CKPT (R211). -/
def isControlWord (w : Word) : Bool := !flag w 63 && (fld w 55 8 == 0xE9 || fld w 55 8 == 0xED)

/-- A group of one quad whose fibres have windows of 256 registers, with a stream where one is given. -/
def placedGroup (x : Option Stream) : Group :=
  { Group.blank with
    width := 4, quads := true, bases := [0, 256, 512, 768], roles := List.replicate 4 (.compute, 256), poolBytes := 8192,
    stream := x }

/-- A lane of that group, at PC 0. -/
def placedFibre (lane : Nat) : Fibre := { laneFibre (placedGroup none) 0 lane 0 with window := List.replicate 256 0 }

/-- A ferry at PC 0 that holds a word there, in a clause that may hold any word. -/
def placedFerry (lanes : List Nat) (w : Word) : Ferry :=
  { Ferry.blank with
    q := true, lanes := lanes, held := [(0, w)],
    clause := some { known := false, left := 0, setA := some 0, setB := some 1, e := false } }

/-- A stream at PC 0 that holds a word there. -/
def placedStream (w : Word) : Stream :=
  { pc := 0, m := List.replicate 16 0, st := .running, tags := [], units := [], chain := none, ctxNo := 0, held := some w, holdTill := 0 }

/-- A group on main core 0 and a ferry of its quad that holds a word; no other ferry of the core has its turn. -/
def State.placeFerry (s : State) (w : Word) : State :=
  s.updCore 0 (fun k => { k with
    asleep := false,
    groups := AMap.put k.groups 0 (placedGroup none), clusters := AMap.put k.clusters 0 { Cluster.blank with slots := [0] },
    fibres := (List.range 4).foldl (fun (m : AMap Fibre) i => AMap.put m i (placedFibre i)) k.fibres,
    ferries := [(0, placedFerry [0, 1, 2, 3] w)] })

/-- A group on main core 0 whose stream holds a word. -/
def State.placeStream (s : State) (w : Word) : State :=
  s.updCore 0 (fun k => { k with
    asleep := false,
    groups := AMap.put k.groups 0 (placedGroup (some (placedStream w))),
    clusters := AMap.put k.clusters 0 { Cluster.blank with slots := [0] },
    fibres := (List.range 4).foldl (fun (m : AMap Fibre) i => AMap.put m i (placedFibre i)) k.fibres })

/-- Thread 0 of control core 0 of die 0, running at PC 0, holds a word. -/
def State.placeThread (s : State) (w : Word) : State :=
  s.updCore 640 (fun k => { k with
    asleep := false,
    fibres := AMap.put k.fibres 0 { threadFibre 0 with life := .live },
    ferries := [(0, placedFerry [0] w)] })

/-- A word placed where the very next step runs it; a RESTORE of context 0, whose fibres do not issue meanwhile, is over. -/
def State.placeWord (s : State) (w : Word) : State :=
  let s := { s with preOp := s.preOp.filter (fun o => !(o.ctx == 0 && o.op == 2)) }
  if isStreamWord w then { s.placeStream w with turns := [.run (.stream 0 0)] }
  else if isControlWord w then { s.placeThread w with turns := [.run (.ferry 640 0)] }
  else { s.placeFerry w with turns := [.run (.ferry 0 0)] }

end Sys2Proof.Machine
end

