-- ==== Sys2Proof/Machine/Step.lean ====
section
/-! DEFINITION. One step of the package, and a word placed where the next step runs it. -/

namespace Sys2Proof.Machine

/-- One step: the turn of one agent, with fresh free values (log entries 6 and 7). -/
def step (s : State) : Host.Outcome State Fault Refusal := nextTurn { s with freeCtr := s.freeCtr + 1 }

/-- The state with the instruction of `nbits` bits `w` placed where the next step runs it. -/
def State.withFetchWord (s : State) (nbits w : Nat) : State := s.placeWord (wd (w % 2 ^ nbits))

end Sys2Proof.Machine
end

