-- ==== Sys2Proof/Safety.lean ====
section
/-! DEFINITION. The terms in which claims are stated: what the machine keeps, when a ferry, a stream or an engine may perform an
instruction, what a lane does to its fibre, and what an instruction leaves alone. -/

namespace Sys2Proof.Machine

/-! ## What every step keeps -/

/-- Memory is in its canonical form: addresses rise, and no entry equals what an unlisted address reads as. -/
def State.Inv (s : State) : Prop := Memory.wf s.mem = true

/-! ## A ferry that performs a word (R136, R197, R198, R215) -/

/-- Ferry `n` of core `c` performs the word: it moves, and it is in flight with these lanes. -/
structure Issues (s : State) (c n : Nat) (fy : Ferry) : Prop where
  moves : s.cur = .ferry c n
  here  : AMap.find (s.core c).ferries n = some fy
  some_ : fy.lanes ≠ []
  once  : fy.lanes.Nodup

/-- The word passes the checks of R215 that concern the whole ferry: the kind of core, the flag that FL names and room in its
counters (R150), the privilege, the quad (R249; a ferry that runs on after a park does so in the block that its fibres parked in), and the place of a terminator (R131). -/
structure Admits (s : State) (c n : Nat) (fy : Ferry) (k : Checks) : Prop where
  core   : (if isControl c then k.ctl else k.main) = true
  flag   : k.fl = .none ∨ ∃ i, fy.flagOf k.fl = some i ∧
             ∀ l ∈ fy.toLanes c n, l.guard s k = true → (l.fibre s).flagCount i.val < 63
  priv   : k.priv = true → s.user fy.ctx = false
  quad   : k.quad = true → (if fy.rs then fy.lanes.all (fun p => (s.fibre c p).blockQ) else fy.q) = true ∧
             ∀ p ∈ fy.lanes, (s.groupOf c p).quads = true
  clause : fy.structureOk k.term = true

/-- The window of a lane has every register that the word names, and a word for lane 0 stands in lane 0 (R215, R255). -/
def Lane.inWindow (l : Lane) (s : State) (k : Checks) : Prop :=
  (∀ r ∈ (l.fibre s).named k, r < (l.fibre s).window.length) ∧ (k.lane0 = true → (l.fibre s).lane = 0)

/-- No access of a fibre of the core is still to be performed (R90). -/
def State.noLate (s : State) (c : Nat) : Prop := ∀ p, (s.fibre c p).lates = []

/-- The state in which the lanes of a word begin: event WORDS is counted (R333). -/
def State.counted (s : State) (c : Nat) (fy : Ferry) : State := s.count c fy.ctx (fun x => { x with words := x.words + 1 })

/-- The ferry after a word that is no terminator: at the next word, one word of its clause gone (R132, R209). -/
def Ferry.onward (fy : Ferry) : Ferry :=
  { fy with pc := fy.pc + 8, pos := fy.pos + 1, clause := fy.clause.map (fun k => { k with left := k.left - 1 }) }

/-! ## What a word leaves alone -/

/-- Outside the fibres, the ferries and the event counts of core `c`, nothing differs: no other core, no other part of the core,
no byte of memory, nothing else in the package. -/
structure SameOutside (c : Nat) (s t : State) : Prop where
  package : t = { s with cores := t.cores }
  bytes   : ∀ a, Memory.get t.mem a = Memory.get s.mem a
  cores   : ∀ b, b ≠ c → t.core b = s.core b
  core    : t.core c = { s.core c with fibres := (t.core c).fibres, ferries := (t.core c).ferries, counters := (t.core c).counters }

/-- A word that changes only the fibres of its lanes: each lane whose guard holds makes `f` of its own fibre, read as the word
began; the ferry is then `fy'`, the event counts are those of `s0`, and nothing else differs. -/
structure LanesChange (f : Lane → State → Fibre → Fibre) (k : Checks) (c n : Nat) (fy fy' : Ferry) (s0 s t : State) : Prop where
  lanes   : ∀ l ∈ fy.toLanes c n, t.fibre c l.p = if l.guard s k then f l s (s.fibre c l.p) else s.fibre c l.p
  places  : ∀ p, p ∉ fy.lanes → t.fibre c p = s.fibre c p
  ferry   : AMap.find (t.core c).ferries n = some fy'
  ferries : ∀ m, m ≠ n → AMap.find (t.core c).ferries m = AMap.find (s.core c).ferries m
  words   : (t.core c).counters = (s0.core c).counters
  rest    : SameOutside c s t

/-- The instruction runs to its end in every lane: wherever its ferry performs it, its checks pass and every lane meets `P`, it
answers a next state, and that state differs in nothing but what `f` makes of the lanes' fibres and the ferry's advance. -/
def Changes (i : Instr) (k : Checks) (P : Lane → State → Prop) (f : Lane → State → Fibre → Fibre) : Prop :=
  ∀ (s : State) (c n : Nat) (fy : Ferry), Issues s c n fy → Admits s c n fy k →
    (∀ l ∈ fy.toLanes c n, l.inWindow s k ∧ (l.guard s k = true → P l s)) →
    ∃ t, exec i s = .next t ∧ LanesChange f k c n fy fy.onward (s.counted c fy) s t

/-! ## Halves of pair words (R205 to R207) -/

/-- The checks of a half: its guard and its registers; decoding has checked the rest. -/
def halfChecks (g : Nat) (regs : List Nat) : Checks :=
  { n := false, g := g, fl := .none, regs := regs, main := true, ctl := true, priv := false, term := false, word := 0 }

/-- The ferry stands at the second half of a word. -/
def Ferry.atHalf1 (fy : Ferry) : Bool := fy.pc.getLsbD 2

/-- The ferry after a half: at the other half of the word, or at the next word. -/
def Ferry.halfOnward (fy : Ferry) : Ferry :=
  if fy.atHalf1 then { fy with
    pc := fy.pc + 4, pos := fy.pos + 1, clause := fy.clause.map (fun k => { k with left := k.left - 1 }) }
  else { fy with pc := fy.pc + 4 }

/-- The counts after a half: a pair word counts once, at the half at which the ferry enters it (R333). -/
def State.countedHalf (s : State) (c : Nat) (fy : Ferry) : State :=
  if fy.atHalf1 && fy.pc != fy.entry then s else s.counted c fy

/-- A half runs to its end in every lane, and changes nothing but what `f` makes of the lanes' fibres and the ferry's advance. -/
def HalfChanges (i : Instr) (g : Nat) (regs : List Nat) (f : Lane → State → Fibre → Fibre) : Prop :=
  ∀ (s : State) (c n : Nat) (fy : Ferry), Issues s c n fy →
    (∀ l ∈ fy.toLanes c n, l.inWindow s (halfChecks g regs)) →
    ∃ t, exec i s = .next t ∧ LanesChange f (halfChecks g regs) c n fy fy.halfOnward (s.countedHalf c fy) s t

/-! ## Words that change more than their fibres -/

/-- A lane after a word: its effect where the guard holds; else nothing, but a terminator sends it on to the next block (R132). -/
def Lane.after (l : Lane) (k : Checks) (f : Lane → State → State) (s : State) : State :=
  if l.guard s k then f l s else if k.term then s.leaveTo l.c l.p (l.pc + 8) else s

/-- The lanes of a word in ascending order (R136), but for lanes that an earlier lane of the word has taken out of the ferry (R143). -/
def lanesAfter (k : Checks) (f : Lane → State → State) : List Lane → State → State
  | [], s => s
  | l :: ls, s => lanesAfter k f ls (if l.left s then s else l.after k f s)

/-- Each lane that is still in the ferry, in the state that the lanes before it leave, has its registers and meets `P`. -/
def LanesMeet (k : Checks) (P : Lane → State → Prop) (f : Lane → State → State) : List Lane → State → Prop
  | [], _ => True
  | l :: ls, s => (l.left s = false → l.inWindow s k ∧ (l.guard s k = true → P l s)) ∧
      LanesMeet k P f ls (if l.left s then s else l.after k f s)

/-- The instruction runs to its end in every lane: wherever its ferry performs it, its checks pass and every lane meets `P` in
its turn, it answers the state in which each lane in its turn has had the effect `f`, and the ferry has gone on. -/
def Performs (i : Instr) (k : Checks) (P : Lane → State → Prop) (f : Lane → State → State) : Prop :=
  ∀ (s : State) (c n : Nat) (fy : Ferry), Issues s c n fy → Admits s c n fy k →
    LanesMeet k P f (fy.toLanes c n) (s.counted c fy) →
    exec i s = .next ((lanesAfter k f (fy.toLanes c n) (s.counted c fy)).advance c n k.term)

/-- A RESID operation runs to its end (R328): in a ferry of one lane that is no helper, whose guard holds and whose window has the
registers, it answers a next state in which D holds a status, the registers not written and every byte of memory are as before, and
the ferry stands at the next word. -/
def ResidCompletes (i : Instr) (o : OwnOp) (written : List Nat) (ok : Lane → State → Prop) : Prop := i.wf = true →
  ∀ (s : State) (c n p : Nat) (fy : Ferry),
    let k := checksOf i o.ctl (written ++ [o.a.toNat, o.b.toNat])
    let l : Lane := { c := c, p := p, n := n, pos := fy.pos, pc := fy.pc }
    Issues s c n fy → Admits s c n fy k → fy.lanes = [p] → o.ctl.t = false → l.inWindow s k → l.guard s k = true → l.helper s = false →
    ok l s →
    ∃ t, exec i s = .next t ∧ fld ((t.fibre c p).reg o.d.toNat) 0 8 ≤ 2 ∧
      (∀ r, r ∉ written → (t.fibre c p).reg r = (s.fibre c p).reg r) ∧ (t.fibre c p).pred = (s.fibre c p).pred ∧
      (∀ a, Memory.get t.mem a = Memory.get s.mem a) ∧ AMap.find (t.core c).ferries n = some fy.onward

/-! ## Words that wait for a push (R91) -/

/-- A release or a fence waits first: its ferry's push begins, and the ferry holds the word until the push is over. -/
def PushesFirst (i : Instr) (k : Checks) : Prop :=
  ∀ (s : State) (c n : Nat) (fy : Ferry), Issues s c n fy → Admits s c n fy k → fy.hold = .none →
    s.activeLanes fy c n k ≠ [] →
    exec i s = .next ((s.pushFor c (s.activeLanes fy c n k)).1.updFerry c n (fun x => { x with
      hold := .release (s.pushFor c (s.activeLanes fy c n k)).2 i }))

/-- The ferry's hold is over, and it acts. -/
def State.unheld (s : State) (c n : Nat) : State :=
  { s.updFerry c n (fun x => { x with hold := .none }) with cur := .ferry c n }

/-- A word that a ferry holds has its effect in every lane once its push is over (RELEASE_PUSH_COMPLETE). -/
def ReleasePerforms (i : Instr) (k : Checks) (P : Lane → State → Prop) (f : Lane → State → State) : Prop :=
  ∀ (s : State) (c n : Nat) (fy : Ferry) (tc : Word), AMap.find (s.core c).ferries n = some fy → fy.lanes ≠ [] →
    fy.lanes.Nodup → fy.hold = .release tc i → s.releaseReady c (s.activeLanes fy c n k) tc i = true →
    let u := s.unheld c n
    let fy' : Ferry := { fy with hold := .none }
    Admits u c n fy' k → LanesMeet k P f (fy'.toLanes c n) (u.counted c fy') →
    exec (.releasePushComplete c n) s =
      .next { (lanesAfter k f (fy'.toLanes c n) (u.counted c fy')).advance c n k.term with cur := s.cur }

/-- A word that is a release where `rel` holds: it pushes first, and the push's end performs it; else it performs at once. -/
def PerformsOrdered (rel : Bool) (i : Instr) (k : Checks) (P : Lane → State → Prop) (f : Lane → State → State) : Prop :=
  if rel then PushesFirst i k ∧ ReleasePerforms i k P f else Performs i k P f

/-! ## Words that wait for acceptance, lane by lane (R118, R319, R325) -/

/-- The lanes that a command waits for: those with something to do that are no helpers, and helpers whose window lacks a register
that the word names (R143, R215). -/
def State.acceptLanes (s : State) (c n : Nat) (fy : Ferry) (k : Checks) : List Nat :=
  (s.activeLanes fy c n k).filter (fun p => !((s.fibre c p).helper && ((s.fibre c p).missing k.regs).isNone))

/-- A command's push begins, and its lanes wait for the engine. -/
def WaitsForEngine (i : Instr) (k : Checks) : Prop :=
  ∀ (s : State) (c n : Nat) (fy : Ferry), Issues s c n fy → Admits s c n fy k → fy.hold = .none →
    s.acceptLanes c n fy k ≠ [] →
    exec i s = .next ((s.pushFor c (s.acceptLanes c n fy k)).1.updFerry c n (fun x => { x with
      hold := .accept (s.pushFor c (s.acceptLanes c n fy k)).2 i (s.acceptLanes c n fy k) }))

/-- An engine accepts the next lane of a group: it has the effect `f`, and the ferry's other lanes go on waiting. -/
def EngineAccepts (event : Nat → Nat → Instr) (want : Instr → Bool) (i : Instr) (k : Checks) (P : Lane → State → Prop)
    (f : Lane → State → State) : Prop :=
  ∀ (s : State) (c g n p : Nat), s.nextAccept c g want = some (n, i, p) →
    let l : Lane := { c := c, p := p, n := n, pos := (s.ferry c n).pos, pc := (s.ferry c n).pc }
    let u := s.acceptCount c n
    l.inWindow u k → l.guard u k = true → P l u → exec (event c g) s = .next ((f l u).afterAccept c n p k.term)

/-! ## Accesses that stop (R7, R25, R27, R33, R338, R343) -/

/-- A trap whose record gives one word. -/
def trapWith (code : TrapCode) (info : Word) : Trap := { code := code, info0 := info, info1 := 0 }

/-- Each lane that meets `bad` traps at the word, in the state that `before` makes of the one it finds. -/
def TrapsWhere (rel : Bool) (i : Instr) (k : Checks) (bad : Lane → State → Prop) (before : Lane → State → State)
    (x : Lane → State → Trap) : Prop :=
  PerformsOrdered rel i k bad (fun l s => (before l s).takeTrap l.c l.p l.pc (x l s))

/-- Where an access of `n` bytes to a global address stops: an address that is not aligned traps MISALIGNED, one with a bit above 56
PROTECTION; on a page that is not present the lane's fibre parks at the word under a token of the page, or traps PAGE_FAULT where the fault
buffer is disabled. -/
def AccessStops (rel : Bool) (i : Instr) (k : Checks) (n : Nat) (kind : AccessKind) (may : Lane → State → Prop)
    (addr : Lane → State → Word) : Prop :=
  let plain (l : Lane) (s : State) : Prop := may l s ∧ (addr l s).toNat % n = 0 ∧ (addr l s).extractLsb' 57 7 = 0
  let found (l : Lane) (s : State) := s.translate l.c (l.ctx s) (addr l s).toNat false
  let joined (l : Lane) (s : State) (t : State) := t.joinWait (dieOf l.c) .fault (l.ctx s) (addr l s &&& 0x01FFFFFFFFFF0000) (addr l s)
    (.fibre l.c l.p) false kind l.pc.toNat
  TrapsWhere rel i k (fun l s => may l s ∧ (addr l s).toNat % n ≠ 0) (fun _ s => s) (fun l s => trapWith .misaligned (addr l s)) ∧
  TrapsWhere rel i k (fun l s => may l s ∧ (addr l s).toNat % n = 0 ∧ (addr l s).extractLsb' 57 7 ≠ 0) (fun _ s => s)
    (fun l s => trapWith .protection (addr l s)) ∧
  TrapsWhere rel i k (fun l s => plain l s ∧ ∃ t, found l s = (t, .error .page) ∧ t.fbufOn = false) (fun l s => (found l s).1)
    (fun l s => trapWith .pageFault (addr l s)) ∧
  PerformsOrdered rel i k
    (fun l s => plain l s ∧ ∃ t, found l s = (t, .error .page) ∧ t.fbufOn = true ∧ (joined l s t).isSome)
    (fun l s => match joined l s (found l s).1 with
      | some (u, token) => u.park l.c l.p l.pc .token token
      | none => s)

/-- A lane's address lies in neither segment of scratchpad nor in the window aperture. -/
def Lane.outside (l : Lane) (s : State) (a : Word) : Prop :=
  let g := s.groupOf l.c l.p
  (a.toNat < 0x100000 → g.scratchSize ≤ a.toNat) ∧
  (0x100000 ≤ a.toNat → a.toNat < 0x200000 → 0x100000 + (s.cluster l.c g.cluster).scratchSize ≤ a.toNat) ∧ inAperture a = false

/-- Where an access of `n` bytes to scratchpad stops: MISALIGNED, PROTECTION outside the segments, and in the aperture with `ap`. -/
def ScratchStops (rel : Bool) (i : Instr) (k : Checks) (n : Nat) (may nf : Lane → State → Prop) (addr : Lane → State → Word)
    (before : Lane → State → State) (ap : Lane → State → Option Trap) : Prop :=
  TrapsWhere rel i k (fun l s => may l s ∧ (addr l s).toNat % n ≠ 0) before (fun l s => trapWith .misaligned (addr l s)) ∧
  TrapsWhere rel i k (fun l s => may l s ∧ nf l s ∧ (addr l s).toNat % n = 0 ∧ l.outside s (addr l s)) before
    (fun l s => trapWith .protection (addr l s)) ∧
  TrapsWhere rel i k (fun l s => may l s ∧ (addr l s).toNat % n = 0 ∧ inAperture (addr l s) = true ∧ (ap l s).isSome) before
    (fun l s => (ap l s).getD (trapWith .window 0))

/-- The trap of an aperture access to a register that the window has not: its number. -/
def Lane.apertureTrap (l : Lane) (s : State) (a : Word) : Option Trap :=
  let r := (a.toNat - 0xFFF00000) / 8
  if (l.fibre s).window.length ≤ r then some (trapWith .window (wd r)) else none

/-- Where a peer access stops at its issue (R27): MISALIGNED; PROTECTION for a peer word with a bit above 9, a package outside the span,
or one that is neither this one nor configured; PEER_LOST for one declared dead. -/
def PeerStops (rel : Bool) (i : Instr) (k : Checks) (o : PeerOp) (may : Lane → State → Prop) : Prop :=
  let peer (l : Lane) (s : State) : Nat := ((l.reg s o.b).extractLsb' 0 10).toNat
  let aligned (l : Lane) (s : State) : Prop := may l s ∧ (peerAddr o l s).toNat % o.sz.bytes = 0
  let known (l : Lane) (s : State) : Prop :=
    (l.reg s o.b).extractLsb' 10 54 = 0 ∧ peer l s ∈ l.members s ∧ (peer l s = s.accid ∨ (s.peerEntry (peer l s)).getLsbD 16 = true)
  TrapsWhere rel i k (fun l s => may l s ∧ (peerAddr o l s).toNat % o.sz.bytes ≠ 0) (fun _ s => s)
    (fun l s => trapWith .misaligned (peerAddr o l s)) ∧
  TrapsWhere rel i k (fun l s => aligned l s ∧ ¬ known l s) (fun _ s => s) (fun l s => trapWith .protection (peerAddr o l s)) ∧
  TrapsWhere rel i k
    (fun l s => aligned l s ∧ known l s ∧ s.inHeap (l.ctx s) (peerAddr o l s).toNat o.sz.bytes = true ∧ peer l s ≠ s.accid ∧
      (s.peerEntry (peer l s)).getLsbD 17 = true) (fun _ s => s)
    (fun l s => { code := .peerLost, info0 := wd (peer l s), info1 := peerAddr o l s })

/-! ## Words that the checks stop (R215, R249) -/

/-- What `run` makes of a word whose checks fail. The core kind, a flag that FL does not name, a privileged word in a user context, a quad
word outside a Q block or outside a `.quads` group, and a misplaced terminator trap every lane, whatever its guard, in that order. A lane
whose window has not every register of the word traps WINDOW; here all lanes are such. -/
def ChecksTrap (run : State → Host.Outcome State Fault Refusal) (k : Checks) : Prop :=
  ∀ (s : State) (c n : Nat) (fy : Ferry), Issues s c n fy →
    let u := s.counted c fy
    let all (x : TrapCode) : Prop := run s = .next (u.trapFerry c n fy.pc (trapWith x k.word))
    let kind : Prop := (if isControl c then k.ctl else k.main) = true
    let flagOk : Prop := k.fl = .none ∨ (fy.flagOf k.fl).isSome
    let privOk : Prop := k.priv = false ∨ s.user fy.ctx = false
    let quads : Prop := ∀ p ∈ fy.lanes, (s.groupOf c p).quads = true
    let inQuad : Prop := (if fy.rs then fy.lanes.all (fun p => (s.fibre c p).blockQ) else fy.q) = true
    (¬ kind → all .illegalOp) ∧
    (kind → ¬ flagOk → all .illegalOp) ∧
    (kind → flagOk → ¬ privOk → all .priv) ∧
    (kind → flagOk → privOk → k.quad = true → ¬ quads ∨ (fy.rs = false ∧ fy.q = false) → all .illegalOp) ∧
    (kind → flagOk → privOk → (k.quad = true → quads ∧ inQuad) → fy.structureOk k.term = false → all .illegalOp) ∧
    (Admits s c n fy k → (∀ l ∈ fy.toLanes c n, ∃ r ∈ (l.fibre s).named k, (l.fibre s).window.length ≤ r) →
      run s = .next (((fy.toLanes c n).foldl (fun (t : State) l =>
        t.takeTrap l.c l.p l.pc (trapWith .window (wd (l.missingNumber t k)))) u).advance c n k.term))

/-! ## Atomics (R69, R266) -/

/-- What an atomic of a lane makes of the machine at a place of memory, after its fibre's accesses to its words (R87) and those of lower
lanes of the word (R85): `f` gives the new value, `stores` says whether there is one, and D takes the old value where it is wanted; or it
is put off, as `kind` of an access. -/
def Lane.rmwDoes (l : Lane) (s : State) (fl : Fl) (sz : Sz) (ord : Ord) (d : Option (BitVec 8)) (x : Rmw) (a : Word) (p : Place) : State :=
  let n := sz.bytes
  let u := (s.beforeLoad l.c l.p p a.toNat n (ordAcq ord)).askHost p.dom (p.pa / 128)
  if ordAcq ord = true ∧ u.podBusy p.dom p.pa = true ∨ u.atomicWaits l.c p.dom p.pa n = true ∨ ordAcq ord = false ∧ u.coin l.p 4100 = true then
    l.rmwLater u (p.late a) fl sz (ordAcq ord) d x.kind x.data (some (p.pa / 128))
  else
    let v := u.lanesFirst l.c l.p u.freeCtr (wordsOf p.pa n)
    let v := l.noteLoad v p (v.settleParts l.c p.dom [(p.pa, n)])
    let r := v.atomicBytes l.c (l.ctx v) p.dom p.pa n x.f
    let t := if x.stores r.2.1 then r.1.markWritten (dieOf l.c) p.e else r.1
    let t := if d.isNone && x.stores r.2.1 then l.noteStore t p a n else t
    let t := t.updFibre l.c l.p (fun f => { f with pushTc := later f.pushTc r.2.2 })
    match d with
    | some d => l.defer t fl (loadRegs sz false d r.2.1) [] 0 (some (p.pa / 128)) none sz
    | none => t

/-! ## Values (R223, R226) -/

/-- A function of three operands at an instruction's width: a 32-bit type takes the low halves and zeroes the high half of the
result, a 64-bit type takes all bits (R223). -/
def atWidth (t : Ty) (f : (w : Nat) → BitVec w → BitVec w → BitVec w → BitVec w) (a b c : Word) : Word :=
  if intWidth t = 32 then (f 32 (a.setWidth 32) (b.setWidth 32) (c.setWidth 32)).setWidth 64 else f 64 a b c

/-- Less, in the signedness of a type (R226). -/
def lessAt (t : Ty) {w : Nat} (x y : BitVec w) : Bool := if t.signed then x.slt y else x.ult y

/-- The exact product's width × 2 bits, in the signedness of a type (R226). -/
def wideProduct (t : Ty) {w : Nat} (x y : BitVec w) : BitVec (2 * w) :=
  if t.signed then x.signExtend (2 * w) * y.signExtend (2 * w) else x.setWidth (2 * w) * y.setWidth (2 * w)

/-- How many bits of a value are one. -/
def onesOf {w : Nat} (x : BitVec w) : Nat := (List.range w).countP (fun i => x.getLsbD i)

/-- How many zero bits stand before the highest one bit; all of them where there is none. -/
def zerosAbove {w : Nat} (x : BitVec w) : Nat := (List.range w).findIdx (fun i => x.getMsbD i)

/-- A fibre whose register `d` a lane has written, transiently where T says so (R148, R214). -/
def Lane.writes (l : Lane) (s : State) (t : Bool) (d : BitVec 8) (v : Word) (f : Fibre) : Fibre :=
  if t && !isControl l.c then f.writeTransient (s.coin l.p) l.pos d.toNat v else f.write d.toNat v

/-- A fibre to which a lane has given a result of a long computation that lands later, counted in the flag that FL names (R150). -/
def Lane.owes (l : Lane) (s : State) (fl : Fl) (regs : List (Nat × Word)) (fp : BitVec 5) (f : Fibre) : Fibre :=
  let k := (s.ferry l.c l.n).flagOf fl
  let x : Pending :=
    { flag := k, regs := regs, preds := [], fp := fp, line := none, await := none, peerSz := .b8, late := [], unit := true }
  ({ f with pending := f.pending ++ [x] } : Fibre).countUp k

/-- A well-formed word writes `v` to register D of each lane that performs it, and changes nothing else. -/
def WritesD (i : Instr) (k : Checks) (t : Bool) (d : BitVec 8) (v : Lane → State → Word) : Prop :=
  i.wf = true → Changes i k (fun _ _ => True) (fun l s => l.writes s t d (v l s))

/-- A word of the ALU class that writes a function of its operands at its width. -/
def AluWrites (mk : AluOp → Instr) (regs : AluOp → List Nat)
    (f : AluOp → (w : Nat) → BitVec w → BitVec w → BitVec w → BitVec w) : Prop :=
  ∀ o : AluOp, WritesD (mk o) (checksOf (mk o) o.ctl (regs o)) o.ctl.t o.d
    (fun l s => atWidth o.ty (f o) (l.reg s o.a) (l.reg s o.b) (l.reg s o.c))

/-- A well-formed word writes a word to D and adds flags to FPSTAT in each lane that performs it, and changes nothing else. -/
def WritesFp (i : Instr) (k : Checks) (t : Bool) (d : BitVec 8) (v : Lane → State → Word × BitVec 5) : Prop :=
  i.wf = true → Changes i k (fun _ _ => True) (fun l s f => (l.writes s t d (v l s).1 f).addFp (v l s).2)

/-- A word of the ALU class that writes a floating-point result and its flags (R189, R235). -/
def FloatWrites (mk : AluOp → Instr) (regs : AluOp → List Nat) (v : AluOp → Word → Word → Word → Word × BitVec 5) : Prop :=
  ∀ o : AluOp, WritesFp (mk o) (checksOf (mk o) o.ctl (regs o)) o.ctl.t o.d
    (fun l s => v o (l.reg s o.a) (l.reg s o.b) (l.reg s o.c))

/-- A word of the ALU class whose result and flags land later (R190, R234, R237). -/
def FloatLands (mk : AluOp → Instr) (regs : AluOp → List Nat) (v : AluOp → Word → Word → Word → Word × BitVec 5) : Prop :=
  ∀ o : AluOp, (mk o).wf = true → Changes (mk o) (checksOf (mk o) o.ctl (regs o)) (fun _ _ => True) (fun l s =>
    let r := v o (l.reg s o.a) (l.reg s o.b) (l.reg s o.c)
    l.owes s o.ctl.fl [(o.d.toNat, r.1)] r.2)

/-- A well-formed word writes one predicate of each lane that performs it, and changes nothing else. -/
def WritesPred (i : Instr) (k : Checks) (d : Nat) (v : Lane → State → Bool) : Prop :=
  i.wf = true → Changes i k (fun _ _ => True) (fun l s f => f.setPred d (v l s))

/-- A half that writes its register D. -/
def HalfWrites (mk : Half → Instr) (v : Half → Lane → State → Word) : Prop :=
  ∀ o : Half, (mk o).wf = true → HalfChanges (mk o) (Half.guardNo o) (Half.regs o) (fun l s => l.writes s o.t (o.d.setWidth 8) (v o l s))

/-- An integer half at its width: `f` of the register D and of S or the immediate (R206). -/
def HalfInt (mk : Half → Instr) (f : Half → (w : Nat) → BitVec w → BitVec w → BitVec w) : Prop :=
  HalfWrites mk (fun o l s => atWidth (htyOf o.ty) (fun w x y _ => f o w x y) (l.regN s o.d.toNat) (Half.src o l s) 0)

/-- A floating half: round to nearest even, no flush, and its flags (R177, R206). -/
def HalfFloats (mk : Half → Instr) (f : Fmt → Nat → Nat → Nat × BitVec 5) : Prop :=
  ∀ o : Half, (mk o).wf = true → HalfChanges (mk o) (Half.guardNo o) (Half.regs o) (fun l s fib =>
    let r := f (fmtOf (htyOf o.ty)) (fOf (htyOf o.ty) (l.regN s o.d.toNat)) (Half.fsrc o l s)
    (l.writes s o.t (o.d.setWidth 8) (wd r.1) fib).addFp r.2)

/-- The value of a pattern that is a finite number, exactly. -/
def FVal.exact : FVal → Option Rat
  | .zero _ => some 0
  | .fin n m e => some ((if n then -1 else 1) * (m : Rat) * (2 : Rat) ^ e)
  | _ => none

/-- The magnitude of a number. -/
def size (x : Rat) : Rat := if x < 0 then -x else x

/-- The registers D and A; D, A and B; D, A, B and C of a word (R199). -/
def useDA (o : AluOp) : List Nat := regsDA o.d o.a
def useDAB (o : AluOp) : List Nat := regsDAB o.d o.a o.b
def useDABC (o : AluOp) : List Nat := regsDABC o.d o.a o.b o.c

/-! ## Matrix streams (R282 to R284) -/

/-- The stream of group `g` of core `c` executes its next instruction. -/
structure StreamRuns (s : State) (c g : Nat) (x : Stream) : Prop where
  moves : s.cur = .stream c g
  here  : (s.group c g).stream = some x
  runs  : x.st = .running ∨ x.st = .waitClaim

/-- The stream at its next word. -/
def State.streamOn (s : State) (c g : Nat) (x : Stream) : State :=
  s.updStream c g (fun y => { y with pc := x.pc + 8, held := none, st := if y.st = .ended then .ended else .running })

/-- A stream instruction runs to its end wherever `P` holds: the state has had the effect `f`, and the stream goes on. -/
def StreamDoes (i : Instr) (P : Nat → Nat → Stream → State → Prop) (f : Nat → Nat → Stream → State → State) : Prop :=
  ∀ (s : State) (c g : Nat) (x : Stream), StreamRuns s c g x → P c g x s → exec i s = .next ((f c g x s).streamOn c g x)

/-! ## Words that work on registers alone -/

/-- The words and halves that read and write the registers, predicates and flags of their lanes (and a group register), and nothing
in any memory. -/
def registerOnly : Instr → Bool
  | .iadd _ | .isub _ | .iaddi _ | .imul _ | .imulh _ | .imad _ | .idiv _ | .irem _ | .imin _ | .imax _ | .iabs _
  | .ineg _ | .and _ | .or _ | .xor _ | .andn _ | .shl _ | .shr _ | .sar _ | .rot _ | .bfx _ | .bfi _ | .popc _ | .clz _
  | .brev _ | .lea _ | .movi _ | .movhi _ | .mov _ | .sadd _ | .idot4 _ | .permb _ | .fadd _ | .fsub _ | .fmul _
  | .ffma _ | .fmin _ | .fmax _ | .fdiv _ | .fsqrt _ | .frcp _ | .frsq _ | .fexp2 _ | .flog2 _ | .fsin _ | .fcos _
  | .fclass _ | .frnd _ | .fscale _ | .ffrxp _ | .cvtff _ | .cvtfi _ | .cvtif _ | .cvtn _ | .cvtw _ | .b4enc _ | .b4dec _
  | .icmp _ | .icmpi _ | .fcmp _ | .sel _ | .plop _ | .pmov _ | .qswz _ | .qddx _ | .qddy _ | .qvote _ | .rdsr _
  | .gmov _ | .gwr _ | .nano _ | .trap _ | .bkpt _ | .rcls _ | .fetchb _ | .rdtime _ | .perfr _ | .mfcr _ | .hnop _
  | .halfIadd _ | .halfIsub _ | .halfAnd _ | .halfOr _ | .halfXor _ | .halfShl _ | .halfShr _ | .halfSar _ | .halfMov _
  | .halfImin _ | .halfImax _ | .halfFadd _ | .halfFsub _ | .halfFmul _ | .halfFmin _ | .halfFmax _ | .halfMovi _
  | .halfIabs _ | .halfIneg _ => true
  | _ => false

/-! ## The turn of a ferry -/

/-- The state in which a ferry takes its turn: a fibre that was resumed in it is from now on like any other (R154), and the ferry
moves. -/
def State.ferryTurn (s : State) (c n : Nat) : State :=
  { (s.ferry c n).lanes.foldl (fun (t : State) p =>
      if (t.fibre c p).resumed then t.updFibre c p (fun f => { f with resumed := false }) else t) s with cur := .ferry c n }

/-! ## Steps of the machine's other agents -/

/-- Where `P` holds the step makes `f` of the state; elsewhere nothing changes. -/
def ActsWhen (i : Instr) (P : State → Prop) (f : State → State) : Prop :=
  ∀ s : State, (P s → exec i s = .next (f s)) ∧ (¬ P s → exec i s = .next s)

/-- The places of the fibres that wait on a core, in an entry or in the holding list. -/
def State.waiting (s : State) (c p : Nat) : Prop :=
  (∃ i e, (i, e) ∈ (s.core c).table ∧ p ∈ e.wvec) ∨ ∃ h ∈ (s.core c).holding, h.place = p

end Sys2Proof.Machine
end

