-- ==== Sys2Proof/Certificates/Slice0/Obligations.lean ====
section
/-! DEFINITION. The statements about the machine. -/

open Sys2Proof Sys2Proof.Machine

/-! ## Integer instructions -/

/-- Arithmetic, logic and counting (R226): sums, differences, products, their high halves and negations wrap at the width. -/
def Obligations.IntegerArithmetic : Prop :=
  AluWrites .iadd useDAB (fun _ _ x y _ => x + y) ∧
  AluWrites .isub useDAB (fun _ _ x y _ => x - y) ∧
  AluWrites .imul useDAB (fun _ _ x y _ => x * y) ∧
  AluWrites .imulh useDAB (fun o w x y _ => (wideProduct o.ty x y).extractLsb' w w) ∧
  AluWrites .imad useDABC (fun _ _ x y z => x * y + z) ∧
  AluWrites .ineg useDA (fun _ _ x _ _ => -x) ∧
  AluWrites .iabs useDA (fun _ _ x _ _ => if x.msb then -x else x) ∧
  AluWrites .imin useDAB (fun o _ x y _ => if lessAt o.ty y x then y else x) ∧
  AluWrites .imax useDAB (fun o _ x y _ => if lessAt o.ty x y then y else x) ∧
  AluWrites .and useDAB (fun _ _ x y _ => x &&& y) ∧
  AluWrites .or useDAB (fun _ _ x y _ => x ||| y) ∧
  AluWrites .xor useDAB (fun _ _ x y _ => x ^^^ y) ∧
  AluWrites .andn useDAB (fun _ _ x y _ => x &&& ~~~y) ∧
  AluWrites .mov useDA (fun _ _ x _ _ => x) ∧
  AluWrites .popc useDA (fun _ w x _ _ => BitVec.ofNat w (onesOf x)) ∧
  AluWrites .clz useDA (fun _ w x _ _ => BitVec.ofNat w (zerosAbove x)) ∧
  AluWrites .brev useDA (fun _ _ x _ _ => x.reverse)


/-- Shifts and rotations (R227), the count in OPX or in B modulo the width; bit fields (R228), from the descriptor in B and cut at
the width. -/
def Obligations.ShiftsAndBitFields : Prop :=
  let int (o : AluOp) : Prop := o.ty ∈ [Ty.i32, Ty.i64, Ty.u32, Ty.u64]
  let shift (o : AluOp) : Prop := int o ∧ (o.opx.getLsbD 7 = false → o.opx.extractLsb' 0 6 = 0) ∧
    (o.opx.getLsbD 7 = true → o.b = 0 ∧ (intWidth o.ty = 32 → o.opx.getLsbD 5 = false))
  (∀ o, ((Instr.shl o).wf = true ∨ (Instr.shr o).wf = true ∨ (Instr.sar o).wf = true → shift o ∧ o.opx.getLsbD 6 = false) ∧
    ((Instr.rot o).wf = true → shift o) ∧ ((Instr.bfx o).wf = true ∨ (Instr.bfi o).wf = true → int o)) ∧
  (
  let count (o : AluOp) (w : Nat) (y : BitVec w) : Nat := if o.opx.getLsbD 7 then o.opx.toNat % 64 else y.toNat % w
  let regs (o : AluOp) : List Nat := if o.opx.getLsbD 7 then useDA o else useDAB o
  AluWrites .shl regs (fun o w x y _ => x <<< count o w y) ∧
  AluWrites .shr regs (fun o w x y _ => x >>> count o w y) ∧
  AluWrites .sar regs (fun o w x y _ => x.sshiftRight (count o w y)) ∧
  AluWrites .rot regs (fun o w x y _ => if o.opx.getLsbD 6 then x.rotateRight (count o w y) else x.rotateLeft (count o w y))) ∧
  (
  let pos (w : Nat) (y : BitVec w) : Nat := (y.extractLsb' 0 6).toNat
  let len (w : Nat) (y : BitVec w) : Nat := if w ≤ pos w y then 0 else min (y.extractLsb' 8 7).toNat (w - pos w y)
  AluWrites .bfx useDAB (fun o w x y _ =>
    let field := (x >>> pos w y).setWidth (len w y)
    if o.ty.signed then field.signExtend w else field.setWidth w) ∧
  AluWrites .bfi useDABC (fun _ w x y z =>
    let mask := BitVec.ofNat w (2 ^ len w y - 1)
    (z &&& ~~~(mask <<< pos w y)) ||| ((x &&& mask) <<< pos w y)))


/-- LEA (R229): base and index modulo 2^64, the index taken from B as TY says and shifted by OPX[2:0]. The immediate instructions
(R230). -/
def Obligations.LeaAndImmediates : Prop :=
  (∀ o, (Instr.lea o).wf = true → o.ty ∈ [Ty.i32, Ty.u32, Ty.i64] ∧ o.opx.extractLsb' 3 5 = 0) ∧
  (∀ o, ((Instr.movi o).wf = true → o.a = 0) ∧ ((Instr.movhi o).wf = true → o.imm.extractLsb' 18 13 = 0)) ∧
  (∀ o : AluOp, WritesD (.lea o) (checksOf (.lea o) o.ctl (useDAB o)) o.ctl.t o.d (fun l s =>
    let y := l.reg s o.b
    let x : Word := match o.ty with
      | .i32 => (y.setWidth 32).signExtend 64
      | .u32 => (y.setWidth 32).setWidth 64
      | _ => y
    l.reg s o.a + x <<< (o.opx.toNat % 8))) ∧
  (∀ o : ImmOp,
    WritesD (.iaddi o) (checksOf (.iaddi o) o.ctl (regsDA o.d o.a)) o.ctl.t o.d
      (fun l s => l.reg s o.a + o.imm.signExtend 64) ∧
    WritesD (.movi o) (checksOf (.movi o) o.ctl [o.d.toNat]) o.ctl.t o.d (fun _ _ => o.imm.signExtend 64) ∧
    WritesD (.movhi o) (checksOf (.movhi o) o.ctl (regsDA o.d o.a)) o.ctl.t o.d (fun l s =>
      let k := 16 * (o.imm.extractLsb' 16 2).toNat
      (l.reg s o.a &&& ~~~(0xFFFF#64 <<< k)) ||| ((o.imm.extractLsb' 0 16).setWidth 64 <<< k)))

/-- SADD (R231) clamps the exact sum to the range of its type; IDOT4 (R232) adds four byte products to C, modulo 2^32, and zeroes the
high half of D; each byte of PERMB's result (R233) is the byte of A and B that four bits of C name. -/
def Obligations.SaturationDotAndBytes : Prop :=
  (
  (∀ o, (Instr.sadd o).wf = true → o.ty ∈ [Ty.i32, Ty.i64, Ty.u32, Ty.u64]) ∧
  AluWrites .sadd useDAB (fun o w x y _ =>
    if o.ty.signed then BitVec.ofInt w (max (-(2 ^ (w - 1))) (min (2 ^ (w - 1) - 1) (x.toInt + y.toInt)))
    else BitVec.ofNat w (min (2 ^ w - 1) (x.toNat + y.toNat)))) ∧
  (
  (∀ o, (Instr.idot4 o).wf = true → o.ty = .i8 ∨ o.ty = .u8) ∧
  ∀ o : AluOp, WritesD (.idot4 o) (checksOf (.idot4 o) o.ctl (useDABC o)) o.ctl.t o.d (fun l s =>
    let byte (w : Word) (i : Nat) : BitVec 32 :=
      if o.ty = .i8 then (w.extractLsb' (8 * i) 8).signExtend 32 else (w.extractLsb' (8 * i) 8).setWidth 32
    let a := l.reg s o.a
    let b := l.reg s o.b
    ((l.reg s o.c).setWidth 32 + byte a 0 * byte b 0 + byte a 1 * byte b 1 + byte a 2 * byte b 2 + byte a 3 * byte b 3).setWidth 64)) ∧
  (
  (∀ o, (Instr.permb o).wf = true → o.ty = .u64) ∧
  ∀ o : AluOp, ∃ v : Lane → State → Word,
    (∀ (l : Lane) (s : State) (i : Nat), i < 8 → (v l s).extractLsb' (8 * i) 8 =
      (l.reg s o.b ++ l.reg s o.a : BitVec 128).extractLsb' (8 * ((l.reg s o.c).extractLsb' (4 * i) 4).toNat) 8) ∧
    WritesD (.permb o) (checksOf (.permb o) o.ctl (useDABC o)) o.ctl.t o.d v)

/-- Division (R185, R234): a long-latency result, truncated toward zero, with R185's values where the divisor is zero.
The model's choice: that the result lands as a step of its own (log entry 18). -/
def Obligations.DivisionLandsLater : Prop :=
  let later (mk : AluOp → Instr) (f : AluOp → (w : Nat) → BitVec w → BitVec w → BitVec w → BitVec w) : Prop :=
    ∀ o : AluOp, (mk o).wf = true → Changes (mk o) (checksOf (mk o) o.ctl (useDAB o)) (fun _ _ => True) (fun l s =>
      l.owes s o.ctl.fl [(o.d.toNat, atWidth o.ty (f o) (l.reg s o.a) (l.reg s o.b) 0)] 0)
  later .idiv (fun o _ x y _ => if y = 0 then -1 else if o.ty.signed then x.sdiv y else x / y) ∧
  later .irem (fun o _ x y _ => if y = 0 then x else if o.ty.signed then x.srem y else x % y)


/-! ## Floating-point instructions -/

/-- The arithmetic of R235: each lane writes the rounded result and adds its flags to FPSTAT. -/
def Obligations.FloatArithmetic : Prop :=
  FloatWrites .fadd useDAB faddVal ∧ FloatWrites .fsub useDAB fsubVal ∧ FloatWrites .fmul useDAB fmulVal ∧
  FloatWrites .ffma useDABC ffmaVal ∧ FloatWrites .fmin useDAB fminVal ∧ FloatWrites .fmax useDAB fmaxVal ∧
  FloatLands .fdiv useDAB fdivVal ∧ FloatLands .fsqrt useDA fsqrtVal

/-- A finite result that differs from the exact result sets IX (R178, R179): with IX clear, sums, differences, products and fused
products of finite operands are exact, and so are FSCALE, CVTFF and CVTIF (R183, R184, R239, R240); a widening CVTFF sets no flag; FFRXP
splits a finite operand into a fraction from 1 to 2 and an exponent. -/
def Obligations.InexactResultSetsIx : Prop :=
  (∀ (t : Ty) (rm : Rm) (a b c : Nat) (x y z : Rat), (decodeF (fmtOf t) a).exact = some x → (decodeF (fmtOf t) b).exact = some y →
    (decodeF (fmtOf t) c).exact = some z →
    let right (r : Nat × BitVec 5) (v : Rat) : Prop :=
      r.2.getLsbD 0 = false → (decodeF (fmtOf t) r.1).exact = some v ∧ r.2 = 0
    right (fAdd (fmtOf t) rm false a b) (x + y) ∧ right (fSub (fmtOf t) rm false a b) (x - y) ∧
    right (fMul (fmtOf t) rm false a b) (x * y) ∧ right (fFma (fmtOf t) rm false a b c) (x * y + z)) ∧
  (∀ (o : AluOp) (a b : Word) (x : Rat), (inF (fmtOf o.ty) (ftzOf o) (fOf o.ty a)).exact = some x →
    let f := fmtOf o.ty
    let r := fscaleVal o a b 0
    (r.2.getLsbD 0 = false → (decodeF f r.1.toNat).exact = some (x * (2 : Rat) ^ (b.setWidth 32).toInt)) ∧
    (x ≠ 0 → ∃ (y : Rat) (e : Int), x = y * (2 : Rat) ^ e ∧ 1 ≤ size y ∧ size y < 2 ∧
      (o.opx.getLsbD 0 = false → (decodeF f (ffrxpVal o a 0 0).1.toNat).exact = some y ∧ (ffrxpVal o a 0 0).2 = 0) ∧
      (o.opx.getLsbD 0 = true → ffrxpVal o a 0 0 = ((BitVec.ofInt 32 e).setWidth 64, 0)))) ∧
  (∀ (o : AluOp) (a : Word) (x : Rat), (decodeF (fmtOf o.ty) (fOf o.ty a)).exact = some x →
    let r := cvtffVal o a 0 0
    (r.2.getLsbD 0 = false → (decodeF (fmtOf (targetOf o)) r.1.toNat).exact = some x) ∧
    ((fmtOf o.ty).widensTo (fmtOf (targetOf o)) = true → r.2 = 0)) ∧
  (∀ (o : AluOp) (a : Word),
    let x : Int := match o.ty with
      | .i8 => (a.setWidth 8).toInt
      | .u8 => (a.setWidth 8).toNat
      | .i32 => (a.setWidth 32).toInt
      | .u32 => (a.setWidth 32).toNat
      | .i64 => a.toInt
      | _ => a.toNat
    let r := cvtifVal o a 0 0
    r.2.getLsbD 0 = false → (decodeF (fmtOf (targetOf o)) r.1.toNat).exact = some (x : Rat))

/-- NaN operands (R180, R236): the first NaN among A, B and C is the result, quieted, and a signalling one sets IV. -/
def Obligations.NanOperandIsResult : Prop :=
  ∀ (t : Ty) (rm : Rm) (ftz : Bool) (a b c : Nat),
    let f := fmtOf t
    let loud (v : FVal) : Bool := match v with
      | .nan _ q _ => !q
      | _ => false
    let first (vs : List FVal) : Option (Nat × BitVec 5) := (vs.find? FVal.isNan).bind (fun v => match v with
      | .nan n _ p => some (nanTo f n p, if vs.any loud then fpIV else 0)
      | _ => none)
    let x := inF f ftz a
    let y := inF f ftz b
    (∀ r, first [x, y] = some r → fAdd f rm ftz a b = r ∧ fSub f rm ftz a b = r ∧ fMul f rm ftz a b = r ∧ fDiv f rm ftz a b = r) ∧
    (∀ r, first [x] = some r → fSqrt f rm ftz a = r) ∧
    (∀ r, first [x, y, inF f ftz c] = some r → (fFma f rm ftz a b c).1 = r.1 ∧
      (r.2 = fpIV → (fFma f rm ftz a b c).2 = fpIV))

/-- The approximate functions, classes, integral rounding, scaling and extraction (R188, R235, R238, R239); conversions and the B4
instructions (R240 to R243).
FCLASS gives the class of its operand; a B4 code stands for the value of R186's table times its scale; an element is encoded as the
nearest of the values of its block, ties to the even code (R187); a block's scale is the least that reaches its largest magnitude.
The model's choice: an approximate result within its bound is a free function of the operand, and FLOG2 of 1 sets UF (log entries 10 and 24). -/
def Obligations.FloatFunctionsAndConversions : Prop :=
  FloatWrites .frcp useDA (approxVal 0) ∧ FloatWrites .frsq useDA (approxVal 1) ∧ FloatWrites .fexp2 useDA (approxVal 2) ∧
  FloatWrites .flog2 useDA (approxVal 3) ∧ FloatWrites .fsin useDA (approxVal 4) ∧ FloatWrites .fcos useDA (approxVal 5) ∧
  (∀ o, WritesD (.fclass o) (checksOf (.fclass o) o.ctl (useDA o)) o.ctl.t o.d (fun l s => fclassVal o.ty (l.reg s o.a) 0 0)) ∧
  FloatWrites .frnd useDA frndVal ∧ FloatWrites .fscale useDAB fscaleVal ∧ FloatWrites .ffrxp useDA ffrxpVal ∧
  FloatWrites .cvtff useDA cvtffVal ∧ FloatWrites .cvtfi useDA cvtfiVal ∧ FloatWrites .cvtif useDA cvtifVal ∧
  FloatWrites .cvtn useDAB cvtnVal ∧ FloatWrites .cvtw useDA cvtwVal ∧
  (∀ o, WritesD (.b4dec o) (checksOf (.b4dec o) o.ctl (useDAB o)) o.ctl.t o.d (fun l s => b4decVal o (l.reg s o.a) (l.reg s o.b) 0)) ∧
  (∀ o, (Instr.b4enc o).wf = true →
    let src (l : Lane) (s : State) (i : Nat) : Word := l.regN s (o.a.toNat + i)
    let many := if o.opx.getLsbD 2 then 8 else 16
    let block (l : Lane) (s : State) : Nat × List Nat × BitVec 5 := b4Block (o.opx.toNat % 4) false
      ((List.range many).flatMap (fun i => [decodeF .f32 (fld (src l s i) 0 32), decodeF .f32 (fld (src l s i) 32 32)]))
    let put (l : Lane) (s : State) (i : Nat) (v : Word) (f : Fibre) : Fibre := l.writes s o.ctl.t (BitVec.ofNat 8 (o.d.toNat + i)) v f
    Changes (.b4enc o) (checksOf (.b4enc o) o.ctl (b4EncRegs o)) (fun _ _ => True) (fun l s f =>
      if o.opx.getLsbD 3 then
        let r := b4EncElem (l.reg s o.a) (l.reg s o.b)
        (l.writes s o.ctl.t o.d r.1 f).addFp r.2
      else
        let r := block l s
        let f := put l s 0 (packCodes (r.2.1.take 16)) f
        (if o.opx.getLsbD 2 then put l s 1 (wd r.1) f
         else put l s 2 (wd r.1) (put l s 1 (packCodes (r.2.1.drop 16)) f)).addFp r.2.2)) ∧
  -- the classes of R238
  (∀ (t : Ty) (a : Word),
    let f := fmtOf t
    let v := fclassVal t a 0 0
    match decodeF f (fOf t a) with
    | .inf n => v = if n then 0x001 else 0x080
    | .zero n => v = if n then 0x008 else 0x010
    | .nan _ q _ => v = if q then 0x200 else 0x100
    | .fin n m e => ∀ x : Rat, (FVal.fin n m e).exact = some x →
      v = if size x < (2 : Rat) ^ f.emin then (if n then 0x004 else 0x020) else (if n then 0x002 else 0x040)) ∧
  -- the codes of R186
  (
  let mags : Nat → List Rat := fun t => match t with
    | 1 => [0, 1/2, 1, 3/2, 2, 3, 4, 6]
    | 2 => [0, 1/8, 1/4, 1/2, 1, 2, 4, 8]
    | _ => [0, 1, 2, 3, 4, 6, 8, 16]
  let code (t c : Nat) : Rat := if t = 0 then (if c < 8 then (c : Rat) else (c : Rat) - 16)
    else if c < 8 then (mags t).getD c 0 else -(mags t).getD (c - 8) 0
  let least (t : Nat) : Rat := if t = 0 then -8 else code t 15
  let most (t : Nat) : Rat := code t 7
  let unit (e : Nat) : Rat := (2 : Rat) ^ ((e : Int) - 32)
  (∀ (o : AluOp) (a b : Word) (j : Nat), j < 2 →
    let sc := b.setWidth 8
    let c := (a.extractLsb' (8 * (o.opx.toNat % 8) + 4 * j) 4).toNat
    let r := ((b4decVal o a b 0).extractLsb' (32 * j) 32).toNat
    if (sc.extractLsb' 0 6).toNat = 63 then r = 0x7FC00000
    else (decodeF .f32 r).exact = some (code (sc.extractLsb' 6 2).toNat c * unit (sc.extractLsb' 0 6).toNat)) ∧
  -- the element form: the nearest value of the block, ties to even; IX where it differs, OF where it saturates (R187, R243)
  (∀ (a b : Word),
    let sc := b.setWidth 8
    let t := (sc.extractLsb' 6 2).toNat
    let e := (sc.extractLsb' 0 6).toNat
    let r := b4EncElem a b
    let c := (r.1.extractLsb' 0 4).toNat
    let x := decodeF .f32 (a.setWidth 32).toNat
    r.1.extractLsb' 4 4 = 0 ∧ r.1.extractLsb' 16 48 = 0 ∧
    (e = 63 ∨ x.exact = none → c = 0 ∧ r.1.extractLsb' 8 8 = (sc ||| 0x3F) ∧ r.2 = fpIV) ∧
    (∀ v : Rat, e ≠ 63 → x.exact = some v →
      let q := v / unit e
      r.1.extractLsb' 8 8 = sc ∧
      (∀ k, k < 16 → size (code t c - q) ≤ size (code t k - q) ∧
        (size (code t c - q) = size (code t k - q) → code t k = code t c ∨ c % 2 = 0)) ∧
      (r.2.getLsbD 0 = true ↔ code t c ≠ q) ∧ (r.2.getLsbD 2 = true ↔ q < least t ∨ most t < q))) ∧
  -- the block form: NaN where an element is no number, else the least scale that reaches every magnitude, from 0 to 62
  (∀ (t : Nat) (ps : List Nat), t < 4 →
    let vs := ps.map (decodeF .f32)
    let r := b4Block t false vs
    let e := r.1 % 64
    r.1 / 64 = t ∧ r.2.1.length = ps.length ∧
    ((∃ v ∈ vs, v.exact = none) → e = 63 ∧ r.2.2 = fpIV ∧ ∀ c ∈ r.2.1, c = 0) ∧
    ((∀ v ∈ vs, v.exact.isSome) → e ≤ 62 ∧ r.2.1 = vs.map (fun v => (b4Encode r.1 false v).1) ∧
      (∀ v ∈ vs, ∀ x, v.exact = some x → size x ≤ most t * unit e ∨ e = 62) ∧
      (e = 0 ∨ ∃ v ∈ vs, ∃ x, v.exact = some x ∧ most t * unit e < 2 * size x))))


/-- CVTFI (R184): a NaN gives 0 and IV; a value beyond a bound gives the bound and IV alone; a value within rounds, and IX tells
whether it was an integer; the bounds are those of the result's type. FRND (R239) gives the integral value nearest in its direction,
without a flag. CVTN packs four converted values, to nearest even, and CVTW widens two exactly (R241, R242). -/
def Obligations.FloatToIntegerSaturates : Prop :=
  (∀ (t : Ty) (rm : Rm) (lo hi : Int) (a : Nat), lo ≤ 0 → 0 ≤ hi → -(2 : Int) ^ 63 ≤ lo → hi < (2 : Int) ^ 64 →
    let r := cvtFI (fmtOf t) rm lo hi a
    let v := decodeF (fmtOf t) a
    lo ≤ r.1 ∧ r.1 ≤ hi ∧
    (v.isNan = true → r = (0, fpIV)) ∧
    (∀ n, v = .inf n → r = (if n then lo else hi, fpIV)) ∧
    (∀ x : Rat, v.exact = some x → (r.2 = 0 ∨ r.2 = fpIX ∨ r.2 = fpIV) ∧ (r.2 = 0 → (r.1 : Rat) = x) ∧
      (r.2 ≠ fpIV → (r.1 : Rat) - 1 < x ∧ x < r.1 + 1) ∧
      (r.2 = fpIV → (x < lo ∧ r.1 = lo) ∨ ((hi : Rat) < x ∧ r.1 = hi)))) ∧
  (∀ (o : AluOp) (a : Word) (lo hi : Int), (targetOf o, lo, hi) ∈ [(Ty.i32, (-(2 ^ 31) : Int), (2 ^ 31 - 1 : Int)), (.u32, 0, 2 ^ 32 - 1),
      (.i64, -(2 ^ 63), 2 ^ 63 - 1), (.u64, 0, 2 ^ 64 - 1), (.i8, -128, 127), (.u8, 0, 255)] →
    let r := cvtFI (fmtOf o.ty) o.rm lo hi (fOf o.ty a)
    cvtfiVal o a 0 0 = (if intWidth (targetOf o) = 64 ∧ targetOf o ≠ .i8 ∧ targetOf o ≠ .u8 then BitVec.ofInt 64 r.1
      else (BitVec.ofInt 32 r.1).setWidth 64, r.2)) ∧
  (∀ (o : AluOp) (a : Word) (x : Rat), (inF (fmtOf o.ty) (ftzOf o) (fOf o.ty a)).exact = some x →
    let r := frndVal o a 0 0
    ∃ y : Int, r.2 = 0 ∧ (decodeF (fmtOf o.ty) r.1.toNat).exact = some (y : Rat) ∧
      (match o.rm with
       | .rne => size (x - y) ≤ 1 / 2 ∧ (size (x - y) = 1 / 2 → y % 2 = 0)
       | .rtz => size y ≤ size x ∧ size (x - y) < 1
       | .rup => x ≤ y ∧ (y : Rat) < x + 1
       | .rdn => (y : Rat) ≤ x ∧ x < y + 1)) ∧
  (∀ (o : AluOp) (a b : Word), targetOf o ∈ [Ty.f16, Ty.bf16, Ty.e4m3, Ty.e5m2, Ty.i8, Ty.u8] →
    let t := targetOf o
    let k := if t = .f16 ∨ t = .bf16 then 16 else 8
    let src (i : Nat) : Nat := ((b ++ a : BitVec 128).extractLsb' (32 * i) 32).toNat
    let one (i : Nat) : BitVec k × BitVec 5 :=
      if t = .i8 then (BitVec.ofInt k (cvtFI .f32 .rne (-128) 127 (src i)).1, (cvtFI .f32 .rne (-128) 127 (src i)).2)
      else if t = .u8 then (BitVec.ofInt k (cvtFI .f32 .rne 0 255 (src i)).1, (cvtFI .f32 .rne 0 255 (src i)).2)
      else (BitVec.ofNat k (cvtFF .f32 (fmtOf t) .rne o.sat (src i)).1, (cvtFF .f32 (fmtOf t) .rne o.sat (src i)).2)
    let r := cvtnVal o a b 0
    (∀ i, i < 4 → r.1.extractLsb' (k * i) k = (one i).1) ∧ (k = 8 → r.1.extractLsb' 32 32 = 0) ∧
    r.2 = ((one 0).2 ||| (one 1).2 ||| (one 2).2 ||| (one 3).2)) ∧
  (∀ (o : AluOp) (a : Word) (i : Nat) (x : Rat), targetOf o ∈ [Ty.f16, Ty.bf16, Ty.e4m3, Ty.e5m2, Ty.i8, Ty.u8] → i < 2 →
    let t := targetOf o
    let k := if t = .f16 ∨ t = .bf16 then 16 else 8
    let src := a.extractLsb' (k * (i + if o.opx.getLsbD 4 then 2 else 0)) k
    (if t = .i8 then x = src.toInt else if t = .u8 then x = src.toNat else (decodeF (fmtOf t) src.toNat).exact = some x) →
    (decodeF .f32 ((cvtwVal o a 0 0).1.extractLsb' (32 * i) 32).toNat).exact = some x)

/-! ## Predicates -/

/-- Compares (R244, R245): the condition, combined with pc, goes to pd. FCMP's conditions are those of the values, −0 = +0; a NaN is
unordered, and sets IV where it is signalling, or where the condition is LT to GE. -/
def Obligations.ComparesWritePredicate : Prop :=
  (∀ o, WritesPred (.icmp o) (checksOf (.icmp o) o.ctl (regsDA o.a o.b)) o.d.toNat (fun l s =>
    let holds {w : Nat} (x y : BitVec w) : Bool := match o.opx.toNat % 16 with
      | 0 => x == y
      | 1 => x != y
      | 2 => lessAt o.ty x y
      | 3 => !lessAt o.ty y x
      | 4 => lessAt o.ty y x
      | _ => !lessAt o.ty x y
    let a := l.reg s o.a
    let b := l.reg s o.b
    let r := if intWidth o.ty = 32 then holds (a.setWidth 32) (b.setWidth 32) else holds a b
    let p := l.pred s o.c.toNat
    match o.opx.toNat / 16 with
    | 0 => r
    | 1 => r && p
    | 2 => r || p
    | _ => r != p)) ∧
  (∀ o, WritesPred (.icmpi o) (checksOf (.icmpi o) o.ctl [o.a.toNat]) (o.d.toNat % 16) (fun l s =>
    let a := l.reg s o.a
    let b := o.imm.signExtend 64
    let less (x y : Word) : Bool := if o.d.getLsbD 7 then x.slt y else x.ult y
    match o.d.toNat / 16 % 8 with
    | 0 => a == b
    | 1 => a != b
    | 2 => less a b
    | 3 => !less b a
    | 4 => less b a
    | _ => !less a b)) ∧
  (∀ o, (Instr.fcmp o).wf = true → Changes (.fcmp o) (checksOf (.fcmp o) o.ctl (regsDA o.a o.b)) (fun _ _ => True) (fun l s f =>
    let x := inF (fmtOf o.ty) (ftzOf o) (fOf o.ty (l.reg s o.a))
    let y := inF (fmtOf o.ty) (ftzOf o) (fOf o.ty (l.reg s o.b))
    let r := floatCond (o.opx.toNat % 16) x y
    let p := l.pred s o.c.toNat
    (f.setPred o.d.toNat (match o.opx.toNat / 16 with
      | 0 => r.1
      | 1 => r.1 && p
      | 2 => r.1 || p
      | _ => r.1 != p)).addFp r.2)) ∧
  (∀ (f : Fmt) (k a b : Nat),
    let x := decodeF f a
    let y := decodeF f b
    let c := floatCond k x y
    let on (less equal more : Bool) : Bool := match k with
      | 0 => equal
      | 1 => !equal
      | 2 => less
      | 3 => less || equal
      | 4 => more
      | 5 => more || equal
      | 6 => false
      | _ => true
    (∀ v w : Rat, x.exact = some v → y.exact = some w → c = (on (decide (v < w)) (decide (v = w)) (decide (w < v)), 0)) ∧
    (∀ n m, x = .inf n → y = .inf m → c = (on (n && !m) (n == m) (m && !n), 0)) ∧
    (∀ n, x = .inf n → y.exact.isSome → c = (on n false (!n), 0)) ∧
    (∀ n, x.exact.isSome → y = .inf n → c = (on (!n) false n, 0)) ∧
    ((x.isNan || y.isNan) = true → c.1 = decide (k = 1 ∨ k = 6) ∧
      (c.2 = fpIV ∨ c.2 = 0) ∧ (c.2 = fpIV ↔ (2 ≤ k ∧ k ≤ 5) ∨ (∃ b p, x = .nan b false p) ∨ ∃ b p, y = .nan b false p)))

/-- SEL (R246) copies all 64 bits of A where the predicate in C is 1, else those of B; PLOP (R247) takes the bit of its table that
three predicates index; PMOV (R248) gives the predicate word with bit 15 read as 1, or takes the predicates that B selects from A. -/
def Obligations.PredicateWords : Prop :=
  (∀ o, (Instr.sel o).wf = true → o.c.toNat < 16 ∧ o.mod = 0) ∧
  (∀ o, (Instr.plop o).wf = true → o.d.toNat < 16 ∧ o.a.toNat < 16 ∧ o.b.toNat < 16 ∧ o.c.toNat < 16 ∧ o.mod.toNat < 256) ∧
  (∀ o, (Instr.pmov o).wf = true → o.mod.extractLsb' 1 14 = 0 ∧ (o.mod.getLsbD 0 = false → o.a = 0 ∧ o.b = 0) ∧
    (o.mod.getLsbD 0 = true → o.d = 0)) ∧
  (∀ o : OwnOp, WritesD (.sel o) (checksOf (.sel o) o.ctl (regsDAB o.d o.a o.b)) o.ctl.t o.d
    (fun l s => if l.pred s (o.c.extractLsb' 0 4).toNat then l.reg s o.a else l.reg s o.b)) ∧
  (∀ o : OwnOp, WritesPred (.plop o) (checksOf (.plop o) o.ctl []) (o.d.toNat % 16) (fun l s =>
    let p (k : BitVec 8) : Nat := (l.pred s (k.toNat % 16)).toNat
    o.mod.getLsbD (4 * p o.a + 2 * p o.b + p o.c))) ∧
  (∀ o : OwnOp, (Instr.pmov o).wf = true →
    (o.mod.getLsbD 0 = false → ∃ v : Lane → State → Word,
      (∀ l s i, (v l s).getLsbD i = (decide (i < 16) && (decide (i = 15) || l.pred s i))) ∧
      Changes (.pmov o) (checksOf (.pmov o) o.ctl [o.d.toNat]) (fun _ _ => True) (fun l s => l.writes s o.ctl.t o.d (v l s))) ∧
    (o.mod.getLsbD 0 = true → ∃ v : Lane → State → Fibre → BitVec 16,
      (∀ l s f i, (v l s f).getLsbD i =
        if i < 15 ∧ (l.reg s o.b).getLsbD i = true then (l.reg s o.a).getLsbD i else f.pred.getLsbD i) ∧
      Changes (.pmov o) (checksOf (.pmov o) o.ctl (regsDA o.a o.b)) (fun _ _ => True) (fun l s f => { f with pred := v l s f })))


/-! ## Quads, special registers and group registers -/

/-- QSWZ (R250) copies register A of another member of the quad; QDDX and QDDY (R251) give the difference of two members' registers
as FSUB makes it; QVOTE (R252) gives every member the same vote. -/
def Obligations.QuadWords : Prop :=
  (
  ∀ o : OwnOp, WritesD (.qswz o) (quadChecks (.qswz o) o.ctl (regsDAB o.d o.a o.b)) o.ctl.t o.d (fun l s =>
    l.member s (match o.mod.toNat % 4 with
      | 0 => l.qlane ^^^ 1
      | 1 => l.qlane ^^^ 2
      | 2 => l.qlane ^^^ 3
      | _ => (l.reg s o.b).toNat % 4) o.a)) ∧
  (
  let pick (l : Lane) (o : AluOp) (fine : Nat → Nat) : Nat := if o.opx.getLsbD 0 then 0 else fine l.qlane
  (∀ o, WritesFp (.qddx o) (quadChecks (.qddx o) o.ctl (regsDA o.d o.a)) o.ctl.t o.d (fun l s =>
    let q := pick l o (fun q => 2 * (q / 2))
    fsubVal o (l.member s (q + 1) o.a) (l.member s q o.a) 0)) ∧
  (∀ o, WritesFp (.qddy o) (quadChecks (.qddy o) o.ctl (regsDA o.d o.a)) o.ctl.t o.d (fun l s =>
    let q := pick l o (fun q => q % 2)
    fsubVal o (l.member s (q + 2) o.a) (l.member s q o.a) 0))) ∧
  (
  ∀ o : OwnOp, WritesPred (.qvote o) (quadChecks (.qvote o) o.ctl []) (o.d.toNat % 16) (fun l s =>
    let p (none : Bool) (q : Nat) : Bool :=
      if o.mod.getLsbD 2 && l.memberHelper s q then none else l.memberPred s q (o.a.toNat % 16)
    let all (none : Bool) : Bool := p none 0 && p none 1 && p none 2 && p none 3
    match o.mod.toNat % 4 with
    | 0 => p false 0 || p false 1 || p false 2 || p false 3
    | 1 => all true
    | _ => all true || !(p true 0 || p true 1 || p true 2 || p true 3)))


/-- GMOV and GWR (R255): a group register to D; a register of lane 0 to a group register, but a helper writes none. FSPAWN (R256): a
lane whose target is a code address takes the lowest free lane of its group, where there is one. -/
def Obligations.GroupRegistersAndFspawn : Prop :=
  (∀ o, WritesD (.gmov o) (mainChecks (.gmov o) o.ctl [o.d.toNat]) o.ctl.t o.d (fun l s => l.greg s o.a)) ∧
  (∀ o, (Instr.gwr o).wf = true →
    Performs (.gwr o) { mainChecks (.gwr o) o.ctl [o.a.toNat] with lane0 := true } (fun _ _ => True) (fun l s =>
      if l.helper s then s
      else s.updGroup l.c (l.fibre s).gslot (fun g => { g with gregs := g.gregs.set o.d.toNat (l.reg s o.a) }))) ∧
  (∀ o : OwnOp, (Instr.fspawn o).wf = true →
    Performs (.fspawn o) (mainChecks (.fspawn o) o.ctl (regsDA o.a o.b))
      (fun l s => fld (l.reg s o.b) 48 16 = 0 ∧ fld (l.reg s o.b) 0 3 = 0)
      (fun l s =>
        let slot := (l.fibre s).gslot
        let free := (List.range (s.group l.c slot).width).find? (fun i => !s.hasFibre l.c ((s.group l.c slot).first + i))
        let answer (b : Bool) : State := s.updFibre l.c l.p (fun f => f.setPred (o.d.toNat % 16) b)
        match free with
        | some lane => if l.helper s then answer false else (answer true).spawn l.c slot lane ((l.reg s o.b).setWidth 48) (l.reg s o.a)
        | none => answer false))


/-! ## Pair words -/

/-- The halves of R206, integer and floating; the floating ones round to nearest even, are never flushed, and set their flags. -/
def Obligations.PairHalves : Prop :=
  (∀ o, (Instr.hnop o).wf = true → HalfChanges (.hnop o) 15 [] (fun _ _ f => f)) ∧
  HalfInt .halfIadd (fun _ _ x y => x + y) ∧ HalfInt .halfIsub (fun _ _ x y => x - y) ∧
  HalfInt .halfAnd (fun _ _ x y => x &&& y) ∧ HalfInt .halfOr (fun _ _ x y => x ||| y) ∧
  HalfInt .halfXor (fun _ _ x y => x ^^^ y) ∧ HalfInt .halfShl (fun _ w x y => x <<< (y.toNat % w)) ∧
  HalfInt .halfShr (fun _ w x y => x >>> (y.toNat % w)) ∧ HalfInt .halfSar (fun _ w x y => x.sshiftRight (y.toNat % w)) ∧
  HalfInt .halfMov (fun _ _ _ y => y) ∧ HalfInt .halfMovi (fun _ _ _ y => y) ∧
  HalfInt .halfImin (fun o _ x y => if lessAt (htyOf o.ty) y x then y else x) ∧
  HalfInt .halfImax (fun o _ x y => if lessAt (htyOf o.ty) x y then y else x) ∧
  HalfInt .halfIabs (fun _ _ _ y => if y.msb then -y else y) ∧ HalfInt .halfIneg (fun _ _ _ y => -y) ∧
  HalfFloats .halfFadd (fun f a b => fAdd f .rne false a b) ∧ HalfFloats .halfFsub (fun f a b => fSub f .rne false a b) ∧
  HalfFloats .halfFmul (fun f a b => fMul f .rne false a b) ∧ HalfFloats .halfFmin (fun f a b => fMinMax f false false a b) ∧
  HalfFloats .halfFmax (fun f a b => fMinMax f false true a b)


/-- Whatever becomes of a word that works on registers alone, whether its lanes have its effect, trap or wait: no byte of memory, no
cache, no other core, no engine and no register of the package changes, where no access of its core's fibres is still to be performed. -/
def Obligations.RegisterWordsLeaveTheRest : Prop :=
  ∀ (i : Instr) (s t : State) (c n : Nat), registerOnly i = true → s.cur = .ferry c n → s.noLate c → exec i s = .next t →
    (∀ a, Memory.get t.mem a = Memory.get s.mem a) ∧ t.dies = s.dies ∧ (∀ b, b ≠ c → t.core b = s.core b) ∧
    (t.core c).l1 = (s.core c).l1 ∧ (t.core c).icache = (s.core c).icache ∧ (t.core c).dtlb = (s.core c).dtlb ∧
    (t.core c).slots = (s.core c).slots ∧ (t.core c).clusters = (s.core c).clusters ∧
    t.gtb = s.gtb ∧ t.regs = s.regs ∧ t.plat = s.plat ∧ t.fabric = s.fabric ∧ t.grids = s.grids ∧ t.queues = s.queues ∧
    t.nets = s.nets ∧ t.handles = s.handles ∧ t.saved = s.saved ∧ t.messages = s.messages


/-! ## Memory -/

/-- Effective addresses (R202, R203, R258, R265): a group register, a 32-bit offset register and an immediate, modulo 2^64. -/
def Obligations.EffectiveAddresses : Prop :=
  let ext (os : Bool) (w : Word) : Word := if os then (w.setWidth 32).signExtend 64 else (w.setWidth 32).setWidth 64
  (∀ (o : MemOp) (l : Lane) (s : State), memAddr o l s = l.greg s o.a + ext o.os (l.reg s o.b) * wd o.sz.bytes +
    (if o.nf then 0 else o.imm7.signExtend 64 * wd o.sz.bytes)) ∧
  (∀ (o : AtomOp) (l : Lane) (s : State), atomAddr o l s = l.greg s o.a + ext o.os (l.reg s o.b) * wd o.sz.bytes +
    o.imm4.signExtend 64 * wd o.sz.bytes) ∧
  (∀ (o : PeerOp) (l : Lane) (s : State), peerAddr o l s = l.reg s o.a + o.imm4.signExtend 64 * wd o.sz.bytes)

/-- LD and LDV (R257 to R261): a lane whose access resolves receives the bytes at its address, with NF its predicate set; with NF,
a stop that R260 names gives zero and clears the predicate. A load is performed at its issue, or later, in 8-byte accesses of
their own, or ahead of the words before it (R85, R90); accesses of the fibre to its words come before it (R87). Without NF a lane whose
access stops traps or parks (R33, R258, R338).
The model's choice: which of the three (log entries 18 and 56). -/
def Obligations.GlobalLoads : Prop :=
  let loads (i : Instr) (k : Checks) (o : MemOp) (ver : Lane → State → Option (BitVec 16)) : Prop := i.wf = true →
    let at_ (l : Lane) (s : State) := s.resolve l.c (l.ctx s) (memAddr o l s) o.sz.bytes .read (ver l s) true
    let res (b : Bool) : List (Nat × Bool) := if o.nf then [((o.imm7.extractLsb' 0 4).toNat, b)] else []
    Performs i k
      (fun l s => ∃ t p, at_ l s = (t, .ok p))
      (fun l s => match at_ l s with
        | (t, .ok p) =>
          let a := memAddr o l s
          let acq := o.ord == .acq
          let sx := o.sx && p.e.kind != 2
          let gives (r : State × Nat) : State :=
            l.defer r.1 o.ctl.fl (loadRegs o.sz sx o.d r.2) (res true) 0 (some (p.pa / 128)) none o.sz
          match t.takeEarly l.c l.p p a o.sz.bytes acq with
          | some r => gives r
          | none =>
            let u := t.beforeLoad l.c l.p p a.toNat o.sz.bytes acq
            if p.waitsLoad u o.sz.bytes acq = true ∨ acq = false ∧ p.lax = true ∧ u.coin l.p 4098 = true then
              l.defer u o.ctl.fl [] (res true) 0 (some (p.pa / 128)) none o.sz (l.lates u .load (p.late a) o sx 0)
            else gives (l.loadAt u p a o.sz.bytes acq)
        | _ => s) ∧
    Performs i k
      (fun l s => o.nf = true ∧ ∃ t x, at_ l s = (t, .error x) ∧ t.nfZero (Via.of l.c) (l.ctx s) (memAddr o l s) (ver l s) x = true)
      (fun l s => l.defer (at_ l s).1 o.ctl.fl (loadRegs o.sz false o.d 0) (res false) 0 none none o.sz) ∧
    (o.nf = false → AccessStops false i k o.sz.bytes .read (fun _ _ => True) (memAddr o))
  ∀ o : MemOp, loads (.ld o) (checksOf (.ld o) o.ctl (memRegs o)) o (fun _ _ => none) ∧
    loads (.ldv o) (checksOf (.ldv o) o.ctl (memRegs o ++ [o.c.toNat])) o (fun l s => some ((l.reg s o.c).setWidth 16))

/-- ST (R257 to R259, R91): a lane whose access resolves stores the low bytes of D at its address, at once or later in 8-byte accesses
(R85, R90), after the fibre's own accesses to those words (R87) and those of lower lanes of the word that go before it; a helper stores
nothing; a lane whose access stops traps or parks (R33, R338); with REL the ferry pushes first.
The model's choice: when a plain store or a release's own store is performed, and that a helper makes no check (log entries 18 and 70). -/
def Obligations.GlobalStores : Prop :=
  ∀ o : MemOp, (Instr.st o).wf = true →
    let at_ (l : Lane) (s : State) := s.resolve l.c (l.ctx s) (memAddr o l s) o.sz.bytes .write none true
    PerformsOrdered (o.ord == .rel) (.st o) (checksOf (.st o) o.ctl (memRegs o))
      (fun l s => l.helper s = true ∨ ∃ t p, at_ l s = (t, .ok p))
      (fun l s => if l.helper s then s else match at_ l s with
        | (t, .ok p) =>
          let ps := p.e.parts (memAddr o l s).toNat p.pa o.sz.bytes
          let u := t.settleAt l.c l.p ps
          if p.lax = true ∧ u.coin l.p 4099 = true then l.storeLater u (p.late (memAddr o l s)) o
          else
            let v := u.lanesFirst l.c l.p u.freeCtr (ps.flatMap (fun x => wordsOf x.1 x.2))
            l.storeAt v p (memAddr o l s) o.sz.bytes (storeData o.sz o.d l v) (o.ord == .rel)
        | _ => s) ∧
    AccessStops (o.ord == .rel) (.st o) (checksOf (.st o) o.ctl (memRegs o)) o.sz.bytes .write (fun l s => l.helper s = false) (memAddr o)

/-- LDS and STS (R22, R25, R257, R258): scratchpad segments and the window aperture; a helper stores to the aperture only; bytes of
a segment outside those stored are as before. An address that is not aligned traps MISALIGNED, one outside the segments and the aperture
PROTECTION (R7, R25), and a register of the aperture that the window has not WINDOW.
The model's choice: when an access is performed, and that a helper's store that is not performed makes no check (log entries 18
and 70). -/
def Obligations.ScratchpadAccesses : Prop :=
  let aperture (o : MemOp) (l : Lane) (s : State) : Option Trap := l.apertureTrap s (memAddr o l s)
  (∀ o : MemOp, (Instr.lds o).wf = true →
    let k := mainChecks (.lds o) o.ctl (memRegs o)
    let counted (l : Lane) (s : State) : State := l.countBanks s k (memAddr o) o.sz.bytes false false
    let res (b : Bool) : List (Nat × Bool) := if o.nf then [((o.imm7.extractLsb' 0 4).toNat, b)] else []
    Performs (.lds o) k
      (fun l s => ∃ t, l.scrTarget s (memAddr o l s) o.sz.bytes = .ok t)
      (fun l s => match l.scrTarget s (memAddr o l s) o.sz.bytes with
        | .ok t =>
          let w := if o.ord = .acq then (counted l s).noEarly l.c l.p else counted l s
          let u := w.settleScr l.c l.p t o.sz.bytes
          if o.ord ≠ .acq ∧ t.banked = true ∧ w.coin l.p 4098 = true then
            l.defer u o.ctl.fl [] (res true) 0 none none o.sz (l.lates u .load (.scratch t) o o.sx 0)
          else
            let v := match t with
              | .window r b => l.apertureRead u r b o.sz.bytes
              | t => u.scrRead l.c (l.fibre u).gslot t o.sz.bytes
            l.defer u o.ctl.fl (loadRegs o.sz o.sx o.d v) (res true) 0 none none o.sz
        | .error _ => s) ∧
    Performs (.lds o) k
      (fun l s => o.nf = true ∧ ∃ t, l.scrTarget s (memAddr o l s) o.sz.bytes = .error t ∧ t.code = .protection)
      (fun l s => l.defer (counted l s) o.ctl.fl (loadRegs o.sz false o.d 0) (res false) 0 none none o.sz) ∧
    ScratchStops false (.lds o) k o.sz.bytes (fun _ _ => True) (fun _ _ => o.nf = false) (memAddr o) counted (aperture o)) ∧
  (∀ o : MemOp, (Instr.sts o).wf = true →
    let k := mainChecks (.sts o) o.ctl (memRegs o)
    let counted (l : Lane) (s : State) : State := l.countBanks s k (memAddr o) o.sz.bytes false true
    PerformsOrdered (o.ord == .rel) (.sts o) k
      (fun l s => (l.helper s = true ∧ inAperture (memAddr o l s) = false) ∨ ∃ t, l.scrTarget s (memAddr o l s) o.sz.bytes = .ok t)
      (fun l s =>
        let u := counted l s
        if l.helper s = true ∧ inAperture (memAddr o l s) = false then u
        else match l.scrTarget s (memAddr o l s) o.sz.bytes with
        | .ok (.window r b) => l.apertureWrite u r b o.sz.bytes (storeData o.sz o.d l s)
        | .ok t =>
          let u := u.settleScr l.c l.p t o.sz.bytes
          if u.coin l.p 4099 = true then l.storeLater u (.scratch t) o
          else
            let v := u.lanesFirst l.c l.p u.freeCtr (t.wordsOf o.sz.bytes)
            v.scrWrite l.c (l.fibre v).gslot t o.sz.bytes (storeData o.sz o.d l v)
        | .error _ => s) ∧
    ScratchStops (o.ord == .rel) (.sts o) k o.sz.bytes (fun l s => l.helper s = false) (fun _ _ => True) (memAddr o) counted
      (aperture o)) ∧
  (∀ (s : State) (c g off n v a : Nat), Memory.wf (s.group c g).scratch = true → a < off ∨ off + n ≤ a →
    Memory.get ((s.scrWrite c g (.group off) n v).group c g).scratch a = Memory.get (s.group c g).scratch a) ∧
  (∀ (s : State) (c g off n v : Nat), Memory.wf (s.group c g).scratch = true →
    (s.scrWrite c g (.group off) n v).scrRead c g (.group off) n = v % 2 ^ (8 * n))

/-- A write at the home (R17, R67) reads back there, every byte of other words as before. A plain store of whole words (R42) is what
the core's own next load returns; nothing at home, in a die's L2 or in another core changes, and every other word in the core's L1
is as before.
The model's choice: the home L2 and memory are one place (log entries 1 and 14). -/
def Obligations.StoresReadBack : Prop :=
  (∀ (s : State) (pa n v : Nat), s.Inv →
    ((s.devWrite pa n v).devRead pa n).2 = v % 2 ^ (8 * n) ∧
    (∀ a, a / 4 ∉ wordsOf pa n → Memory.get (s.devWrite pa n v).mem a = Memory.get s.mem a) ∧
    (s.devWrite pa n v).Inv) ∧
  (∀ (s : State) (c : Nat) (ctx : BitVec 12) (dom : Domain) (pa n v : Nat), n = 4 ∨ n = 8 ∨ n = 16 → pa % n = 0 →
    let t := s.storeBytes c ctx dom pa n v
    (t.loadBytes c ctx dom pa n).2.1 = v % 2 ^ (8 * n) ∧ t.mem = s.mem ∧ t.dies = s.dies ∧
    (∀ b, b ≠ c → t.core b = s.core b) ∧
    (∀ wn, wn ∉ wordsOf pa n → t.l1Word c wn = s.l1Word c wn))


/-- LDP and STP (R27, R263, R264): this package's own object where the peer is this package, at its home and after the core's own words
of it are pushed (R87, R92), with the settle mark and notices of what it reads (R95); else a copy that is kept, or a request to the peer.
An address that is not aligned traps MISALIGNED, a peer word with a bit above 9, a package outside the span or one that is neither this
one nor configured PROTECTION, a dead peer PEER_LOST.
The model's choice: when an own access is performed, and whether a kept copy is used (log entries 18 and 56). -/
def Obligations.PeerAccesses : Prop :=
  let peer (o : PeerOp) (l : Lane) (s : State) : Nat := ((l.reg s o.b).extractLsb' 0 10).toNat
  let clear (o : PeerOp) (l : Lane) (s : State) : Prop := s.peerTrap (l.ctx s) (l.members s) (l.reg s o.b) (peerAddr o l s) o.sz.bytes = none
  let half (o : PeerOp) : Nat := min o.sz.bytes 8
  (∀ o : PeerOp, (Instr.ldp o).wf = true →
    let k := checksOf (.ldp o) o.ctl (pairRegs (o.sz == .b16) o.d ++ [o.a.toNat, o.b.toNat])
    let acq := o.ord == .acq
    let at_ (l : Lane) (s : State) := s.peerPlace (l.ctx s) (peerAddr o l s) (half o) .read
    let before (l : Lane) (s t : State) (p : Place) : State := t.beforeLoad l.c l.p p (peerAddr o l s).toNat o.sz.bytes acq
    let waits (l : Lane) (u : State) (p : Place) : Bool := p.waitsLoad u o.sz.bytes acq || !acq && u.coin l.p 4098
    let own (l : Lane) (s u : State) (p : Place) :=
      (u.atHome l.c p (peerAddr o l s).toNat o.sz.bytes).peerRead (l.ctx s) (peerAddr o l s) (half o) (o.sz.bytes / half o)
    let kept (l : Lane) (s : State) : Option PeerCopy :=
      if o.ord = .acq ∨ s.readsLine l.c l.p (peer o l s) (peerAddr o l s) = true then none
      else s.peerCopy l.c (peer o l s) (peerAddr o l s) o.sz.bytes
    let ask (l : Lane) (s : State) :=
      (if acq then s.noEarly l.c l.p else s).sendPeer (peer o l s) (.read (peerAddr o l s) o.sz.bytes) (.fibre l.c l.p) true l.pc
    Performs (.ldp o) k
      (fun l s => clear o l s ∧ peer o l s = s.accid ∧ ∃ t p, at_ l s = (t, .ok p) ∧
        (waits l (before l s t p) p = false → ∃ v bs, own l s (before l s t p) p = (v, .ok bs)))
      (fun l s => match at_ l s with
        | (t, .ok p) =>
          let u := before l s t p
          if waits l u p = true then
            l.defer u o.ctl.fl [] [] 0 none none o.sz (l.latesOf u .peerLoad (p.late (peerAddr o l s)) o.sz o.d false acq 0)
          else match own l s u p with
            | (v, .ok bs) =>
              l.defer (l.noteLoad v p (v.settleParts l.c p.dom (p.e.parts (peerAddr o l s).toNat p.pa o.sz.bytes))) o.ctl.fl
                (loadRegs o.sz false o.d (numOf bs)) [] 0 none none o.sz
            | _ => s
        | _ => s) ∧
    Performs (.ldp o) k
      (fun l s => clear o l s ∧ peer o l s ≠ s.accid ∧ (kept l s).isSome)
      (fun l s => match kept l s with
        | some x => l.defer (s.useCopy l.c x) o.ctl.fl (loadRegs o.sz false o.d
            (numOf ((x.bytes.drop ((peerAddr o l s).toNat - x.va.toNat)).take o.sz.bytes))) [] 0 none none o.sz
        | none => s) ∧
    Performs (.ldp o) k
      (fun l s => clear o l s ∧ peer o l s ≠ s.accid ∧ kept l s = none ∧ (ask l s).isSome)
      (fun l s => match ask l s with
        | some (t, tag) =>
          let u := l.defer t o.ctl.fl (loadRegs o.sz false o.d 0) [] 0 none
            (some (peer o l s, planeOf (peerAddr o l s).toNat, tag)) o.sz
          if o.ord = .acq then u.updFerry l.c l.n (fun fy => { fy with hold := .acquire }) else u
        | none => s) ∧
    PeerStops false (.ldp o) k o (fun _ _ => True)) ∧
  (∀ o : PeerOp, (Instr.stp o).wf = true →
    let k := checksOf (.stp o) o.ctl (pairRegs (o.sz == .b16) o.d ++ [o.a.toNat, o.b.toNat])
    let data (l : Lane) (s : State) : List Byte := Machine.bytesOf o.sz.bytes (storeData o.sz o.d l s)
    let at_ (l : Lane) (s : State) := s.peerPlace (l.ctx s) (peerAddr o l s) (half o) .write
    let ws (l : Lane) (s : State) (p : Place) : List Nat :=
      (p.e.parts (peerAddr o l s).toNat p.pa o.sz.bytes).flatMap (fun x => wordsOf x.1 x.2)
    let before (l : Lane) (s t : State) (p : Place) : State := t.settleWords l.c l.p (ws l s p)
    let own (l : Lane) (s u : State) (p : Place) :=
      ((u.lanesFirst l.c l.p u.freeCtr (ws l s p)).atHome l.c p (peerAddr o l s).toNat o.sz.bytes).peerWrite (l.ctx s)
        (peerAddr o l s) (half o) (data l s) (o.sz.bytes / half o)
    let ask (l : Lane) (s : State) :=
      s.sendPeer (peer o l s) (.write (peerAddr o l s) (data l s) (List.replicate o.sz.bytes true)) (.fibre l.c l.p) false l.pc
    PerformsOrdered (o.ord == .rel) (.stp o) k
      (fun l s => l.helper s = true ∨ clear o l s ∧ (if peer o l s = s.accid then ∃ t p, at_ l s = (t, .ok p) ∧
        ((before l s t p).coin l.p 4099 = false → ∃ v x, own l s (before l s t p) p = (v, .ok x)) else (ask l s).isSome))
      (fun l s => if l.helper s then s
        else if peer o l s = s.accid then match at_ l s with
          | (t, .ok p) =>
            let u := before l s t p
            if u.coin l.p 4099 = true then
              l.putLater u o.sz (l.latesOf u .peerStore (p.late (peerAddr o l s)) o.sz o.d false false (numOf (data l s)))
            else match own l s u p with
              | (v, .ok x) => (v.noteSentAll l.c p.dom (ws l s p)).updFibre l.c l.p (fun f => { f with pushTc := later f.pushTc x })
              | _ => s
          | _ => s
        else match ask l s with
          | some (t, _) => t
          | none => s) ∧
    PeerStops (o.ord == .rel) (.stp o) k o (fun l s => l.helper s = false))

/-! ## Atomics -/

/-- The read-modify-write operations (R203, R266), at a width of 4 or 8 bytes: those of integers; FADD in binary32 at 4 bytes and binary64
at 8, rounded to nearest even with no operand or result flushed, a NaN operand's result as R180 gives it. -/
def Obligations.AtomicOperations : Prop :=
  (∀ (n : Nat) (m v : BitVec (8 * n)), n = 4 ∨ n = 8 →
    let gives (op : Aop) (x : BitVec (8 * n)) : Prop := aopVal n op m.toNat v.toNat = x.toNat
    gives .add (m + v) ∧ gives .mins (if v.slt m then v else m) ∧ gives .maxs (if m.slt v then v else m) ∧
    gives .minu (if v.ult m then v else m) ∧ gives .maxu (if m.ult v then v else m) ∧ gives .and (m &&& v) ∧ gives .or (m ||| v) ∧
    gives .xor (m ^^^ v) ∧ gives .exch v ∧ gives .incw (if v.ule m then 0 else m + 1) ∧
    gives .decw (if m = 0 ∨ v.ult m then v else m - 1) ∧
    (∀ w : BitVec (8 * n), casVal n v.toNat w.toNat m.toNat = if m = v then w.toNat else m.toNat)) ∧
  (∀ (n : Nat) (f : Fmt) (m v : BitVec (8 * n)), n = 4 ∧ f = .f32 ∨ n = 8 ∧ f = .f64 →
    let r := aopVal n .fadd m.toNat v.toNat
    -- the sum of two finite values, rounded once; exact where no flag says otherwise
    r = (fAdd f .rne false m.toNat v.toNat).1 ∧
    (∀ x y : Rat, (decodeF f m.toNat).exact = some x → (decodeF f v.toNat).exact = some y →
      (fAdd f .rne false m.toNat v.toNat).2 = 0 → (decodeF f r).exact = some (x + y)) ∧
    -- a NaN among them is the result, quieted: memory's first
    (∀ b q p, decodeF f m.toNat = .nan b q p → r = nanTo f b p) ∧
    (∀ b q p, (decodeF f m.toNat).isNan = false → decodeF f v.toNat = .nan b q p → r = nanTo f b p) ∧
    -- infinities: one is the sum, and two that differ give the default NaN
    (∀ b, decodeF f m.toNat = .inf b → (decodeF f v.toNat).exact.isSome → r = m.toNat) ∧
    (∀ b, decodeF f m.toNat = .inf b → decodeF f v.toNat = .inf (!b) → (decodeF f r).isNan = true))

/-- ATOM, ACAS and RED (R265 to R267): one read-modify-write per lane, in scratchpad or in memory, after the fibre's own accesses to
its words (R87); D takes the old value; the page shows the write where one is made (R16); a helper performs nothing and its D takes
zero; a release pushes first. A lane whose access stops traps or parks (R33, R338); the window aperture traps PROTECTION (R25).
The model's choice: an atomic is one step at its place, and may be performed later (log entries 18 and 57). -/
def Obligations.LocalAtomics : Prop :=
  let does (i : Instr) (o : AtomOp) (regs : List Nat) (d : Option (BitVec 8)) (x : Lane → State → Rmw) : Prop := i.wf = true →
    let k : Checks := { checksOf i o.ctl regs with ctl := !o.scr }
    let old (l : Lane) (s : State) (v : Nat) (line : Option Nat) : State := match d with
      | some d => l.defer s o.ctl.fl (loadRegs o.sz false d v) [] 0 line none o.sz
      | none => s
    let at_ (l : Lane) (s : State) := s.resolve l.c (l.ctx s) (atomAddr o l s) o.sz.bytes .atomic none false
    let counted (l : Lane) (s : State) : State := l.countBanks s k (atomAddr o) o.sz.bytes true true
    let real (l : Lane) (s : State) : Prop := l.helper s = false
    PerformsOrdered (ordRel o.ord) i k
      (fun l s => l.helper s = true ∨
        (if o.scr then ∃ t, l.scrTarget s (atomAddr o l s) o.sz.bytes = .ok t ∧ ∀ r b, t ≠ .window r b
         else ∃ t p, at_ l s = (t, .ok p)))
      (fun l s =>
        if l.helper s then old l s 0 none
        else if o.scr then
          match l.scrTarget s (atomAddr o l s) o.sz.bytes with
          | .ok t =>
            let u := (counted l s).settleScr l.c l.p t o.sz.bytes
            let u := if ordAcq o.ord then u.noEarly l.c l.p else u
            if ordAcq o.ord = false ∧ u.coin l.p 4100 = true then
              l.rmwLater u (.scratch t) o.ctl.fl o.sz false d (x l s).kind (x l s).data none
            else
              let u := u.lanesFirst l.c l.p u.freeCtr (t.wordsOf o.sz.bytes)
              let m := u.scrRead l.c (l.fibre u).gslot t o.sz.bytes
              old l (u.scrWrite l.c (l.fibre u).gslot t o.sz.bytes ((x l s).f m)) m none
          | .error _ => s
        else match at_ l s with
          | (t, .ok p) => l.rmwDoes t o.ctl.fl o.sz o.ord d (x l s) (atomAddr o l s) p
          | _ => s) ∧
    (o.scr = false → AccessStops (ordRel o.ord) i k o.sz.bytes .atomic real (atomAddr o)) ∧
    (o.scr = true → ScratchStops (ordRel o.ord) i k o.sz.bytes real (fun _ _ => True) (atomAddr o) counted
      (fun l s => some (trapWith .protection (atomAddr o l s))))
  let aop (o : AtomOp) (old : Bool) (l : Lane) (s : State) : Rmw :=
    { f := fun m => aopVal o.sz.bytes o.aop m (l.reg s o.c).toNat, stores := fun _ => true, kind := .aop o.aop old,
      data := (l.reg s o.c).toNat }
  let cas (o : AtomOp) (l : Lane) (s : State) : Rmw :=
    { f := casVal o.sz.bytes (l.reg s o.c).toNat (l.regN s (o.c.toNat + 1)).toNat,
      stores := fun m => decide (m % 2 ^ (8 * o.sz.bytes) = (l.reg s o.c).toNat % 2 ^ (8 * o.sz.bytes)),
      kind := .cas (l.regN s (o.c.toNat + 1)).toNat, data := (l.reg s o.c).toNat }
  (∀ o, does (.atom o) o (atomRegs o true false) (some o.d) (aop o true)) ∧
  (∀ o, does (.acas o) o (atomRegs o true true) (some o.d) (cas o)) ∧
  (∀ o, does (.red o) o (atomRegs o false false) none (aop o false))

/-- ATOMP, ACASP and REDP (R268): on this package's own object, or asked of the peer that holds it; a peer access that stops at its
issue traps (R27), and an own object on a formatted page traps FORMAT_SIZE (R20).
The model's choice: when an own atomic is performed (log entry 18). -/
def Obligations.PeerAtomics : Prop :=
  let does (i : Instr) (o : PeerOp) (regs : List Nat) (d : Option (BitVec 8)) (x : Lane → State → Rmw)
      (op : Lane → State → FabricOp) : Prop :=
    i.wf = true →
    let k := checksOf i o.ctl regs
    let peer (l : Lane) (s : State) : Nat := ((l.reg s o.b).extractLsb' 0 10).toNat
    let clear (l : Lane) (s : State) : Prop :=
      s.peerTrap (l.ctx s) (l.members s) (l.reg s o.b) (peerAddr o l s) o.sz.bytes = none
    let old (l : Lane) (s : State) (v : Nat) : State := match d with
      | some d => l.defer s o.ctl.fl (loadRegs o.sz false d v) [] 0 none none o.sz
      | none => s
    let own (l : Lane) (s : State) := s.peerPlace (l.ctx s) (peerAddr o l s) o.sz.bytes .atomic
    let ask (l : Lane) (s : State) :=
      (if ordAcq o.ord then s.noEarly l.c l.p else s).sendPeer (peer l s) (op l s) (.fibre l.c l.p) d.isSome l.pc
    PerformsOrdered (ordRel o.ord) i k
      (fun l s => l.helper s = true ∨ clear l s ∧
        (if peer l s = s.accid then ∃ t p, own l s = (t, .ok p) ∧ p.e.kind ≠ 2 else (ask l s).isSome))
      (fun l s =>
        if l.helper s then old l s 0
        else if peer l s = s.accid then match own l s with
          | (t, .ok p) => l.rmwDoes t o.ctl.fl o.sz o.ord d (x l s) (peerAddr o l s) p
          | _ => s
        else match ask l s with
          | some (t, tag) => match d with
            | some d =>
              let u := l.defer t o.ctl.fl (loadRegs o.sz false d 0) [] 0 none
                (some (peer l s, planeOf (opVa (op l s)).toNat, tag)) o.sz
              if ordAcq o.ord then u.updFerry l.c l.n (fun fy => { fy with hold := .acquire }) else u
            | none => t
          | none => s) ∧
    TrapsWhere (ordRel o.ord) i k
      (fun l s => l.helper s = false ∧ clear l s ∧ peer l s = s.accid ∧ ∃ t p, own l s = (t, .ok p) ∧ p.e.kind = 2)
      (fun l s => (own l s).1) (fun l s => trapWith .formatSize (peerAddr o l s)) ∧
    PeerStops (ordRel o.ord) i k o (fun l s => l.helper s = false)
  let aop (o : PeerOp) (old : Bool) (l : Lane) (s : State) : Rmw :=
    { f := fun m => aopVal o.sz.bytes o.aop m (l.reg s o.c).toNat, stores := fun _ => true, kind := .aop o.aop old,
      data := (l.reg s o.c).toNat }
  let cas (o : PeerOp) (l : Lane) (s : State) : Rmw :=
    { f := casVal o.sz.bytes (l.reg s o.c).toNat (l.regN s (o.c.toNat + 1)).toNat,
      stores := fun m => decide (m % 2 ^ (8 * o.sz.bytes) = (l.reg s o.c).toNat % 2 ^ (8 * o.sz.bytes)),
      kind := .cas (l.regN s (o.c.toNat + 1)).toNat, data := (l.reg s o.c).toNat }
  (∀ o, does (.atomp o) o (peerRegs o true false) (some o.d) (aop o true)
    (fun l s => .atomic (peerAddr o l s) o.sz o.aop (l.reg s o.c) true)) ∧
  (∀ o, does (.acasp o) o (peerRegs o true true) (some o.d) (cas o)
    (fun l s => .cas (peerAddr o l s) o.sz (l.reg s o.c) (l.regN s (o.c.toNat + 1)))) ∧
  (∀ o, does (.redp o) o (peerRegs o false false) none (aop o false)
    (fun l s => .atomic (peerAddr o l s) o.sz o.aop (l.reg s o.c) false))

/-! ## Fences, barriers, batches, phase objects, joins and pauses -/

/-- FENCE (R91, R104, R269, R270): REL and AR push first, ACQ only waits; when it is performed, D takes the status of the stores
lost, the count of losses starts again, an AR fence settles the
fibre's loads, and no load performed before the fence stands for one after it, but past a FENCE.REL without a mask (R90).
The model's choice: what a release waits for (log entries 55 and 57). -/
def Obligations.FenceReportsLosses : Prop :=
  ∀ o : OwnOp, (Instr.fence o).wf = true →
    let k := checksOf (.fence o) o.ctl [o.d.toNat]
    let kind := (o.mod.extractLsb' 8 2).toNat
    let status (f : Fibre) : Word := if f.lossCount = 0 then 0
      else 1#64 ||| (BitVec.ofNat 64 (min 32767 f.lossCount) <<< 1) ||| (BitVec.ofNat 64 (f.lossId.getD 0 % 1024) <<< 16)
    (kind = 1 → ∀ (s : State) (c n : Nat) (fy : Ferry), Issues s c n fy → Admits s c n fy k → s.activeLanes fy c n k ≠ [] →
      exec (.fence o) s = .next (((s.activeLanes fy c n k).foldl (fun (t : State) p => t.settleLoads c p) s).updFerry c n
        (fun x => { x with hold := .release 0 (.fence o) }))) ∧
    (kind ≠ 1 → PushesFirst (.fence o) k) ∧
    ReleasePerforms (.fence o) k (fun _ _ => True) (fun l s => s.updFibre l.c l.p (fun f =>
      { l.writes s o.ctl.t o.d (status (l.fibre s)) f with
        lossCount := 0, lossId := none, early := if kind = 2 ∧ o.mod.extractLsb' 0 6 = 0 then f.early else [],
        settle := if kind = 3 then 0 else f.settle, notices := if kind = 3 then [] else f.notices }))

/-- BAR, BARA and BARC (R145, R271, R272): a fibre arrives once its accesses are performed, those at peers among them (R91, R99, R100);
BAR and BARC wait at the next block, BARA goes on. The phase records who has arrived, once. -/
def Obligations.Barriers : Prop :=
  let waits (l : Lane) (s : State) (kind : WaitKind) (n : Nat) : State :=
    (s.updFibre l.c l.p (fun f => { f with waitk := kind, barn := n })).leaveTo l.c l.p (l.pc + 8)
  let free (l : Lane) (s : State) : Prop := s.owesAck l.c l.p = false
  (∀ o, (Instr.bar o).wf = true → Performs (.bar o) { termChecks (.bar o) o.ctl [] with ctl := false } free
    (fun l s => (waits l (s.settleFibre l.c l.p) .groupBarrier (o.mod.toNat % 16)).arriveGroup l.c l.p (o.mod.toNat % 16))) ∧
  (∀ o, (Instr.bara o).wf = true → Performs (.bara o) (mainChecks (.bara o) o.ctl []) free
    (fun l s => (s.settleFibre l.c l.p).arriveGroup l.c l.p (o.mod.toNat % 16))) ∧
  (∀ o, (Instr.barc o).wf = true → Performs (.barc o) { termChecks (.barc o) o.ctl [] with ctl := false } free
    (fun l s => (waits l (s.settleFibre l.c l.p) .clusterBarrier 0).arriveCluster l.c l.p)) ∧
  (∀ (b : Barrier) (p q : Nat) (now limit : Word), (q ∈ (b.arrive p now limit).arrived ↔ q = p ∨ q ∈ b.arrived) ∧
    (b.first.isSome = true → (b.arrive p now limit).first = b.first))

/-- CCLOSE and CWAIT (R273): the open batch closes; CWAIT goes on where at most n batches are outstanding, CCLOSE where the new one
is no 33rd; else the ferry waits as it was. QJOIN (R277) enters one join, pushed like a command, in each queue of its mask, but none
from a helper; NANO (R278) holds the ferry until the GTB has come t ticks further.
The model's choice: a wait leaves the ferry where it is (log entry 55). -/
def Obligations.BatchesJoinsPauses : Prop :=
  (
  let closes (i : Instr) (k : Checks) (n : Nat) : Prop := i.wf = true →
    Performs i k (fun l s => (s.closed l.c l.p).length ≤ n)
      (fun l s => (s.noEarly l.c l.p).updFibre l.c l.p (fun f => { f with openBatch := [], closedBatches := s.closed l.c l.p })) ∧
    (∀ (s : State) (c m : Nat) (fy : Ferry) (p : Nat), Issues s c m fy → Admits s c m fy k → fy.lanes = [p] →
      (∀ l ∈ fy.toLanes c m, l.guard s k = true ∧ n < (s.closed c p).length) → exec i s = .next s)
  (∀ o, closes (.cclose o) (mainChecks (.cclose o) o.ctl []) 32) ∧
  (∀ o, closes (.cwait o) (mainChecks (.cwait o) o.ctl []) (o.mod.extractLsb' 0 5).toNat)) ∧
  (
  (∀ o, (Instr.qjoin o).wf = true → Performs (.qjoin o) (mainChecks (.qjoin o) o.ctl []) (fun _ _ => True) (fun l s =>
    if l.helper s then s
    else (s.pushFor l.c [l.p]).1.enqueueJoin l.c (l.fibre s).gslot l.p (o.mod.setWidth 7) (s.pushFor l.c [l.p]).2)) ∧
  (∀ o, (Instr.nano o).wf = true → Performs (.nano o) (checksOf (.nano o) o.ctl []) (fun _ _ => True) (fun l s =>
    s.updFerry l.c l.n (fun x => { x with hold := .nano (s.gtb + o.mod.setWidth 64) }))))

/-- An arrival at a phase object (R275): with PEND above 1 it falls by one; else PH flips and PEND takes EXP. Nothing else of the
word changes. -/
def Obligations.PhaseArrival : Prop :=
  ∀ w : Word,
    let r := arrivePhase w
    r.1.extractLsb' 0 16 = w.extractLsb' 0 16 ∧ r.1.extractLsb' 33 31 = w.extractLsb' 33 31 ∧
    (if 1 < (w.extractLsb' 16 16).toNat then
      r.2 = false ∧ r.1.extractLsb' 16 16 = w.extractLsb' 16 16 - 1 ∧ r.1.getLsbD 32 = w.getLsbD 32
     else r.2 = true ∧ r.1.extractLsb' 16 16 = w.extractLsb' 0 16 ∧ r.1.getLsbD 32 = !w.getLsbD 32)

/-- MBARR and MBWAIT (R274, R276): an arrival at a declared object, once the fibre's accesses are performed (R100); a wait that, after
the fibre's own accesses to the object (R87), goes on where PH differs from the parity in A, and else waits at the next block; an object that is not declared raises PROTECTION. -/
def Obligations.PhaseObjects : Prop :=
  let declared (l : Lane) (s : State) (n : Nat) : Prop := 8 * n + 8 ≤ (s.group l.c (l.fibre s).gslot).scratchSize
  let undeclared (l : Lane) (s : State) (n : Nat) : State :=
    s.takeTrap l.c l.p l.pc { code := .protection, info0 := wd (8 * n), info1 := 0 }
  let ph (l : Lane) (s : State) (n : Nat) : Bool := (s.phaseWord l.c (l.fibre s).gslot n).getLsbD 32
  let own (l : Lane) (s : State) (n : Nat) : State := (s.settleScr l.c l.p (.group (8 * n)) 8).noEarly l.c l.p
  (∀ o, (Instr.mbarr o).wf = true →
    let n := o.mod.toNat % 16
    let k := mainChecks (.mbarr o) o.ctl []
    Performs (.mbarr o) k (fun l s => declared l s n ∧ s.owesAck l.c l.p = false)
      (fun l s => (s.settleFibre l.c l.p).arriveAt l.c (l.fibre s).gslot n) ∧
    Performs (.mbarr o) k (fun l s => ¬ declared l s n) (fun l s => undeclared l s n)) ∧
  (∀ o, (Instr.mbwait o).wf = true →
    let n := o.mod.toNat % 16
    let k := { termChecks (.mbwait o) o.ctl [o.a.toNat] with ctl := false }
    Performs (.mbwait o) k (fun l s => declared l s n) (fun l s =>
      let u := own l s n
      if ph l u n ≠ (l.reg u o.a).getLsbD 0 then u.leaveTo l.c l.p (l.pc + 8)
      else (u.updFibre l.c l.p (fun f => { f with waitk := .phase, barn := n })).leaveTo l.c l.p (l.pc + 8)) ∧
    Performs (.mbwait o) k (fun l s => ¬ declared l s n) (fun l s => undeclared l s n))


/-! ## Control transfers and traps -/

/-- The transfers of R279 and R280: to the target; a target above 48 bits traps PROTECTION, and a computed target that is not
aligned ILLEGAL_TARGET, both at the terminator and with no link written. TRAP and BKPT (R281): SWTRAP with the code and the value of
A, its PC at the next word; BKPT with its own PC; neither by a helper. -/
def Obligations.ControlTransfers : Prop :=
  (
  let goes (i : Instr) (k : Checks) (computed : Bool) (R : Lane → State → Prop) (target : Lane → State → Word)
      (link : Lane → State → State) : Prop := i.wf = true →
    Performs i k (fun l s => R l s ∧ (target l s).extractLsb' 48 16 = 0 ∧ (computed = true → (target l s).extractLsb' 0 3 = 0))
      (fun l s => (link l s).leaveTo l.c l.p ((target l s).setWidth 48)) ∧
    Performs i k (fun l s => R l s ∧ (target l s).extractLsb' 48 16 ≠ 0)
      (fun l s => s.takeTrap l.c l.p l.pc { code := .protection, info0 := target l s, info1 := 0 }) ∧
    Performs i k (fun l s => R l s ∧ computed = true ∧ (target l s).extractLsb' 48 16 = 0 ∧ (target l s).extractLsb' 0 3 ≠ 0)
      (fun l s => s.takeTrap l.c l.p l.pc { code := .illegalTarget, info0 := target l s, info1 := 0 })
  let any (_ : Lane) (_ : State) : Prop := True
  let keep (_ : Lane) (s : State) : State := s
  let next (l : Lane) (s : State) (d : BitVec 8) : State := s.updFibre l.c l.p (fun f => f.write d.toNat (l.pc.setWidth 64 + 8))
  let off (l : Lane) (imm : BitVec 31) : Word := l.pc.setWidth 64 + 8 * imm.signExtend 64
  let inTable (o : ImmOp) (l : Lane) (s : State) : Prop :=
    ((l.reg s o.a).setWidth 32).toNat < (o.imm.extractLsb' 16 11).toNat + 1
  (∀ o, goes (.br o) (termChecks (.br o) o.ctl []) false any (fun l _ => off l o.imm) keep) ∧
  (∀ o, goes (.call o) (termChecks (.call o) o.ctl [o.d.toNat]) false any (fun l _ => off l o.imm) (fun l s => next l s o.d)) ∧
  (∀ o, goes (.jmpr o) (termChecks (.jmpr o) o.ctl [o.a.toNat]) true any (fun l s => l.reg s o.a) keep) ∧
  (∀ o, goes (.ret o) (termChecks (.ret o) o.ctl [o.a.toNat]) true any (fun l s => l.reg s o.a) keep) ∧
  (∀ o, goes (.callr o) (termChecks (.callr o) o.ctl (regsDA o.d o.a)) true any (fun l s => l.reg s o.a) (fun l s => next l s o.d)) ∧
  (∀ o, goes (.brx o) (termChecks (.brx o) o.ctl [o.a.toNat]) true (inTable o) (fun l s =>
    l.pc.setWidth 64 + 8 * (o.imm.extractLsb' 0 16).signExtend 64 +
      ((l.reg s o.a).setWidth 32).setWidth 64 <<< ((o.imm.extractLsb' 27 4).toNat + 4)) keep) ∧
  (∀ o, (Instr.brx o).wf = true → Performs (.brx o) (termChecks (.brx o) o.ctl [o.a.toNat]) (fun l s => ¬ inTable o l s)
    (fun l s => s.leaveTo l.c l.p (l.pc + 8))) ∧
  (∀ o, (Instr.yield o).wf = true → Performs (.yield o) (termChecks (.yield o) o.ctl []) (fun _ _ => True)
    (fun l s => s.leaveTo l.c l.p (l.pc + 8))) ∧
  (∀ o, (Instr.exit o).wf = true → Performs (.exit o) (termChecks (.exit o) o.ctl []) (fun _ _ => True)
    (fun l s => s.endFibre l.c l.p))) ∧
  (
  (∀ o, (Instr.trap o).wf = true → Performs (.trap o) (checksOf (.trap o) o.ctl [o.a.toNat]) (fun _ _ => True) (fun l s =>
    if l.helper s then s else s.takeTrap l.c l.p (l.pc + 8)
      { code := .swtrap, info0 := l.reg s o.a, info1 := (o.mod.extractLsb' 0 12).setWidth 64 })) ∧
  (∀ o, (Instr.bkpt o).wf = true → Performs (.bkpt o) (checksOf (.bkpt o) o.ctl []) (fun _ _ => True) (fun l s =>
    if l.helper s then s else s.takeTrap l.c l.p l.pc { code := .bkpt, info0 := 0, info1 := 0 })))


/-- Taking a trap (R154, R345): the fibre is parked with WAITK trap at the PC given, in no ferry and no block entry; one record is
pushed to the trap queue of its context, with the words of R345; its registers are those after the results of arithmetic units have
landed (R234, R237), and memory is as before. Accesses that are still to be performed are performed first. Parking under a token (R154,
R338): the same with WAITK token and no record; who joins the wait table stands in the entry of its kind, context and key. -/
def Obligations.TakingATrap : Prop :=
  let leaves (s : State) (c p : Nat) (t : State) (pc : BitVec 48) : Prop :=
    let f := (s.fibre c p).landUnits
    (t.fibre c p).pc = pc ∧ (t.fibre c p).window = f.window ∧ (t.fibre c p).trans = [] ∧
    (t.fibre c p).pred = f.pred ∧ (t.fibre c p).fpstat = f.fpstat ∧ (t.fibre c p).flags = f.flags ∧
    (∀ n fy, (n, fy) ∈ (t.core c).ferries → p ∉ fy.lanes) ∧ (∀ i e, (i, e) ∈ (t.core c).table → p ∉ e.wvec) ∧
    (∀ q, q ≠ p → t.fibre c q = s.fibre c q) ∧ (∀ b, b ≠ c → t.core b = s.core b) ∧ t.mem = s.mem
  (∀ (s : State) (c p : Nat) (pc : BitVec 48) (x : Trap), isControl c = false → (s.fibre c p).lates = [] →
    let t := s.takeTrap c p pc x
    let f := (s.fibre c p).landUnits
    let g := s.group c f.gslot
    leaves s c p t pc ∧ (t.fibre c p).waitk = .trap ∧
    ∃ r : TrapPush, t.trapPushes = s.trapPushes ++ [r] ∧ r.ctx = g.ctx ∧ r.words.length = 8 ∧
      (g.grid < 2 ^ 32 → fld (r.words.getD 0 0) 32 32 = g.grid) ∧ fld (r.words.getD 0 0) 8 12 = g.ctx.toNat ∧
      fld (r.words.getD 0 0) 0 8 = x.code.num ∧
      fld (r.words.getD 1 0) 0 48 = pc.toNat ∧ fld (r.words.getD 1 0) 56 6 = f.lane % 64 ∧ fld (r.words.getD 1 0) 62 2 = 0 ∧
      (g.index < 2 ^ 32 → fld (r.words.getD 2 0) 32 32 = g.index) ∧ fld (r.words.getD 2 0) 24 8 = c % 160 ∧
      r.words.getD 3 0 = 0 ∧ r.words.getD 4 0 = x.info0 ∧ r.words.getD 5 0 = x.info1 ∧ r.words.getD 6 0 = s.gtb ∧ r.words.getD 7 0 = 0) ∧
  (∀ (s : State) (c p : Nat) (pc : BitVec 48) (i : Nat), isControl c = false → (s.fibre c p).lates = [] →
    let t := s.park c p pc .token i
    leaves s c p t pc ∧ (t.fibre c p).waitk = .token ∧ (t.fibre c p).token = i ∧ t.trapPushes = s.trapPushes) ∧
  (∀ (s u : State) (d : Nat) (kind : TokenKind) (ctx : BitVec 12) (key va : Word) (w : Waiter) (eng : Bool) (k : AccessKind) (pc i : Nat),
    s.joinWait d kind ctx key va w eng k pc = some (u, i) →
    (∃ e, AMap.find (u.die d).wait i = some e ∧ e.kind = kind ∧ e.ctx = ctx ∧ e.key = key ∧ w ∈ e.waiters) ∧
    u.mem = s.mem ∧ u.cores = s.cores ∧ ∀ b, b ≠ d → u.die b = s.die b)

/-- The checks of R215 and R249 that trap: a word of the other kind of core, an illegal FL, a quad word outside a Q block or a `.quads`
group and a broken block structure trap ILLEGAL_OP in every lane, a privileged word in a user context traps PRIV in every lane; where
registers that the word names lie past its window, a lane traps WINDOW with the number of one of them. So for every checked word, and so
`exec` for words of each class.
The model's choice: which of several missing registers the record gives (log entry 7). -/
def Obligations.EncodingChecksTrap : Prop :=
  (∀ (k : Checks) (body : Lane → State → LaneEnd), ChecksTrap (issue k body) k) ∧
  (∀ (k : Checks) (body : Lane → State → LaneEnd) (l : Lane) (s : State),
    let absent (r : Nat) : Prop := r ∈ (l.fibre s).named k ∧ (l.fibre s).window.length ≤ r
    let m := l.missingNumber s k
    ∀ r, absent r → absent m ∧ ((∀ q, absent q → q = r) → m = r) ∧
      l.perform k body s = some (s.takeTrap l.c l.p l.pc (trapWith .window (wd m)))) ∧
  (∀ o : AluOp,
    ChecksTrap (exec (.iadd o)) (checksOf (.iadd o) o.ctl (useDAB o)) ∧ ChecksTrap (exec (.imad o)) (checksOf (.imad o) o.ctl (useDABC o)) ∧
    ChecksTrap (exec (.idiv o)) (checksOf (.idiv o) o.ctl (useDAB o)) ∧ ChecksTrap (exec (.lea o)) (checksOf (.lea o) o.ctl (useDAB o)) ∧
    ChecksTrap (exec (.fadd o)) (checksOf (.fadd o) o.ctl (useDAB o)) ∧ ChecksTrap (exec (.fsqrt o)) (checksOf (.fsqrt o) o.ctl (useDA o)) ∧
    ChecksTrap (exec (.cvtff o)) (checksOf (.cvtff o) o.ctl (useDA o)) ∧
    ChecksTrap (exec (.qddx o)) (quadChecks (.qddx o) o.ctl (useDA o)) ∧ ChecksTrap (exec (.qddy o)) (quadChecks (.qddy o) o.ctl (useDA o))) ∧
  (∀ o : ImmOp,
    ChecksTrap (exec (.iaddi o)) (checksOf (.iaddi o) o.ctl (regsDA o.d o.a)) ∧ ChecksTrap (exec (.br o)) (termChecks (.br o) o.ctl []) ∧
    ChecksTrap (exec (.call o)) (termChecks (.call o) o.ctl [o.d.toNat])) ∧
  (∀ o : MemOp,
    ChecksTrap (exec (.ld o)) (checksOf (.ld o) o.ctl (memRegs o)) ∧ ChecksTrap (exec (.lds o)) (mainChecks (.lds o) o.ctl (memRegs o)) ∧
    ChecksTrap (exec (.pref o)) (checksOf (.pref o) o.ctl [o.b.toNat])) ∧
  (∀ o : OwnOp,
    ChecksTrap (exec (.sel o)) (checksOf (.sel o) o.ctl (regsDAB o.d o.a o.b)) ∧
    ChecksTrap (exec (.qswz o)) (quadChecks (.qswz o) o.ctl (regsDAB o.d o.a o.b)) ∧
    ChecksTrap (exec (.qvote o)) (quadChecks (.qvote o) o.ctl []) ∧
    ChecksTrap (exec (.rdsr o)) (checksOf (.rdsr o) o.ctl [o.d.toNat]) ∧ ChecksTrap (exec (.gmov o)) (mainChecks (.gmov o) o.ctl [o.d.toNat]) ∧
    ChecksTrap (exec (.fspawn o)) (mainChecks (.fspawn o) o.ctl (regsDA o.a o.b)) ∧
    ChecksTrap (exec (.exit o)) (termChecks (.exit o) o.ctl []) ∧
    ChecksTrap (exec (.bar o)) { termChecks (.bar o) o.ctl [] with ctl := false } ∧
    ChecksTrap (exec (.trap o)) (checksOf (.trap o) o.ctl [o.a.toNat]) ∧
    ChecksTrap (exec (.tcopy o)) (mainChecks (.tcopy o) o.ctl (descRegs o.a)) ∧
    ChecksTrap (exec (.rqry o)) (mainChecks (.rqry o) o.ctl (rqryRegs o)) ∧
    ChecksTrap (exec (.rqnext o)) { mainChecks (.rqnext o) o.ctl [o.a.toNat, o.b.toNat] with block := some o.d.toNat } ∧
    ChecksTrap (exec (.texs o)) (mainChecks (.texs o) o.ctl (regsDABC o.d o.a o.b o.c)) ∧
    ChecksTrap (exec (.qpop o)) (checksOf (.qpop o) o.ctl [o.d.toNat, o.a.toNat]) ∧
    ChecksTrap (exec (.residRead o)) (checksOf (.residRead o) o.ctl [o.d.toNat, o.d.toNat + 1, o.d.toNat + 2, o.a.toNat, o.b.toNat]) ∧
    ChecksTrap (exec (.lnchLaunch o)) { checksOf (.lnchLaunch o) o.ctl (regsDABC o.d o.a o.b o.c) with main := false } ∧
    ChecksTrap (exec (.mfcr o)) { checksOf (.mfcr o) o.ctl [o.d.toNat] with priv := decide ((o.mod.extractLsb' 0 9).toNat ∉ [1, 2, 3]) } ∧
    ChecksTrap (exec (.halt o)) { checksOf (.halt o) o.ctl [o.a.toNat] with priv := true } ∧
    ChecksTrap (exec (.rdtime o)) (checksOf (.rdtime o) o.ctl [o.d.toNat]))

/-! ## Matrix streams -/

/-- Stream registers, loops, claims and the end of a stream (R290 to R292).
The model's choice: slots are claimed in ascending order (log entry 26). -/
def Obligations.StreamControl : Prop :=
  (∀ o, (Instr.mmovi o).wf = true → StreamDoes (.mmovi o) (fun _ _ _ _ => True) (fun c g x s =>
    let v := (o.imm.extractLsb' 0 16).setWidth 64 <<< (16 * (o.imm.extractLsb' 16 2).toNat)
    let keep := if o.imm.getLsbD 18 then 0 else x.reg o.d &&& ~~~(0xFFFF#64 <<< (16 * (o.imm.extractLsb' 16 2).toNat))
    s.updStream c g (fun y => { y with m := y.m.set o.d.toNat (keep ||| v) }))) ∧
  (∀ o, (Instr.madd o).wf = true → StreamDoes (.madd o) (fun _ _ _ _ => True) (fun c g x s =>
    let v := x.reg o.a + if o.mod.getLsbD 14 then (o.mod.extractLsb' 0 14).signExtend 64 else x.reg o.b
    s.updStream c g (fun y => { y with m := y.m.set o.d.toNat v }))) ∧
  (∀ o, (Instr.mloop o).wf = true →
    StreamDoes (.mloop o) (fun _ _ x _ => x.reg o.a = 1) (fun c g _ s =>
      s.updStream c g (fun y => { y with m := y.m.set o.a.toNat 0 })) ∧
    (∀ s c g x, StreamRuns s c g x → x.reg o.a ≠ 1 →
      let target := x.pc.setWidth 64 + 8 * o.imm.signExtend 64
      target.extractLsb' 48 16 = 0 →
      exec (.mloop o) s = .next ((s.updStream c g (fun y => { y with m := y.m.set o.a.toNat (x.reg o.a - 1) })).updStream c g
        (fun y => { y with pc := target.setWidth 48, held := none })))) ∧
  (∀ o, (Instr.mstop o).wf = true → StreamDoes (.mstop o) (fun _ _ x _ => x.chain = none) (fun c g _ s =>
    (s.freeLogical c g (fun _ => true)).updStream c g (fun y => { y with st := .ended }))) ∧
  (∀ o, (Instr.mclaim o).wf = true →
    let ns := claimRange o
    let queued (c g : Nat) (s : State) : State :=
      if g ∈ (s.core c).claims then s else s.updCore c (fun k => { k with claims := k.claims ++ [g] })
    let granted (c g : Nat) (s : State) : Prop :=
      ((queued c g s).core c).claims.head? = some g ∧ ns.length ≤ ((queued c g s).freeSlotsOf c).length
    StreamDoes (.mclaim o)
      (fun c g _ s => (∀ i ∈ ns, s.slotOf c g i = none) ∧ granted c g s)
      (fun c g _ s => ((queued c g s).bindSlots c g (((queued c g s).freeSlotsOf c).zip ns)).updCore c (fun k => { k with
        claims := k.claims.filter (· != g) })) ∧
    (∀ s c g x, StreamRuns s c g x → (∀ i ∈ ns, s.slotOf c g i = none) → ¬ granted c g s →
      exec (.mclaim o) s = .next ((queued c g s).updStream c g (fun y => { y with st := .waitClaim })))) ∧
  (∀ o, (Instr.mrel o).wf = true → StreamDoes (.mrel o)
    (fun c g _ s => ∀ i ∈ claimRange o, (s.slotOf c g i).isSome ∧ s.fillPending c g i = false)
    (fun c g _ s => s.freeLogical c g (fun i => decide (i ∈ claimRange o))))

/-- Operand slots, accumulator tiles, chains and phase signals (R191 to R194, R293 to R297).
The model's choice: the sign of a zero sum and the order of the checks (log entries 16 and 26). -/
def Obligations.StreamTiles : Prop :=
  let fills (mk : OwnOp → Instr) (isB : Bool) : Prop := ∀ o, (mk o).wf = true →
    let rows (c : Nat) (x : Stream) (s : State) (g : Nat) :=
      s.readTile c g (OwnOp.tyOf o 11) (bitsAt o.mod.toNat 8 2) (o.mod.getLsbD 10) (x.reg o.a) (x.reg o.b)
    StreamDoes (mk o)
      (fun c g x s => ∃ n sl t bs, x.operand (o.mod.getLsbD 0) o.d = .ok n ∧ s.slotOf c g n = some sl ∧ rows c x s g = (t, .ok bs))
      (fun c g x s => match x.operand (o.mod.getLsbD 0) o.d, rows c x s g with
        | .ok n, (t, .ok bs) => match s.slotOf c g n with
          | some sl => t.fillSlot c sl.1 sl.2 isB (OwnOp.tyOf o 11) bs
          | none => s
        | _, _ => s)
  fills .mlda false ∧ fills .mldb true ∧
  (∀ o, (Instr.mzero o).wf = true → StreamDoes (.mzero o)
    (fun _ _ x _ => ∃ t, x.newTile (OwnOp.tyOf o 11) (o.mod.getLsbD 0) o.d = .ok t)
    (fun c g x s => match x.newTile (OwnOp.tyOf o 11) (o.mod.getLsbD 0) o.d with
      | .ok t => s.updStream c g (fun y => (y.clearTile (OwnOp.tyOf o 11) t).tagTile (OwnOp.tyOf o 11) t)
      | .error _ => s)) ∧
  (∀ o, (Instr.mldc o).wf = true →
    let ty := OwnOp.tyOf o 11
    let read (c g : Nat) (x : Stream) (s : State) := readAll (scrReader c g) (elemSize ty)
      ((List.range 256).map (fun e => x.reg o.a + x.reg o.b * wd (e / 16) + wd (e % 16 * elemSize ty))) s
    StreamDoes (.mldc o)
      (fun c g x s => (∃ t, x.newTile ty (o.mod.getLsbD 0) o.d = .ok t) ∧ ∃ t vs, read c g x s = (t, .ok vs))
      (fun c g x s => match x.newTile ty (o.mod.getLsbD 0) o.d, read c g x s with
        | .ok t, (u, .ok vs) => u.updStream c g (fun y =>
          (vs.foldl (fun (r : Stream × Nat) v => (r.1.putElem ty t r.2 v, r.2 + 1)) (y, 0)).1.tagTile ty t)
        | _, _ => s)) ∧
  (∀ o, (Instr.mdrain o).wf = true →
    let ty := OwnOp.tyOf o 11
    let rows (x : Stream) : List Word := (List.range 16).map (fun i => x.reg o.a + x.reg o.b * wd i)
    StreamDoes (.mdrain o)
      (fun c g x s => ∃ t acc, x.operand (o.mod.getLsbD 0) o.d = .ok t ∧ tagTy (x.tag t) = some acc ∧ drainOk acc ty = true ∧
        x.inChain (tileUnits acc t) = false ∧
        s.drainStop c g (elemSize ty) (rows x) (if ty = .b4 then 9 else 16 * elemSize ty) = none)
      (fun c g x s => match x.operand (o.mod.getLsbD 0) o.d with
        | .ok t => match tagTy (x.tag t) with
          | some acc => ((List.range 16).zip (rows x)).foldl
            (fun s p => s.scrPut c g p.2 (drainRow x acc ty (bitsAt o.mod.toNat 9 2) t p.1)) s
          | none => s
        | .error _ => s)) ∧
  (∀ o, (Instr.mbegin o).wf = true → StreamDoes (.mbegin o) (fun _ _ x _ => x.chain = none) (fun c g _ s =>
    s.updStream c g (fun y => { y with chain := some { any := o.mod.getLsbD 0, written := [], later := [] } }))) ∧
  (∀ o, (Instr.mend o).wf = true → StreamDoes (.mend o) (fun _ _ x _ => x.chain.isSome) (fun c g x s =>
    match x.chain with
    | some k => s.updStream c g (fun y => { y.mmaAny (Config.freeNat s.freeCtr) k.later with chain := none })
    | none => s)) ∧
  (∀ o, (Instr.mma o).wf = true →
    let tya := OwnOp.tyOf o 11
    let tyb := OwnOp.tyOf o 7
    let us (t : Nat) : List Nat := tileUnits (accTy tya) t
    let ready (c g : Nat) (x : Stream) (s : State) (t sa sb : Nat) (a b : Memory) (k : Chain) : Prop :=
      x.operand (o.mod.getLsbD 0) o.d = .ok t ∧ x.operand (o.mod.getLsbD 1) o.a = .ok sa ∧ x.operand (o.mod.getLsbD 2) o.b = .ok sb ∧
      s.mmaSlot c g sa false tya = .ok a ∧ s.mmaSlot c g sb true tyb = .ok b ∧ ¬ (accTy tya = .f64 ∧ t % 2 = 1) ∧
      (us t).map (fun u => x.tag u) = tileTags (accTy tya) ∧ x.chain = some k ∧ s.arrayUp c = true
    ∀ (s : State) (c g : Nat) (x : Stream) (t sa sb : Nat) (a b : Memory) (k : Chain), StreamRuns s c g x →
      ready c g x s t sa sb a b k →
      let k' := { k with written := (us t).filter (fun u => decide (u ∉ k.written)) ++ k.written }
      exec (.mma o) s = .next ((s.updStream c g (fun y =>
        if k.any then { y with chain := some { k' with later := k.later ++ [{ tile := t, tya := tya, tyb := tyb, a := a, b := b }] } }
        else { y.mmaNow t tya tyb a b with chain := some k' })).streamOn c g x)) ∧
  (∀ o, (Instr.msig o).wf = true → StreamDoes (.msig o)
    (fun c g _ s => 8 * (o.mod.toNat % 16) + 8 ≤ (s.group c g).scratchSize) (fun c g _ s => s.arriveAt c g (o.mod.toNat % 16))) ∧
  (∀ o, (Instr.mwait o).wf = true →
    let n := o.mod.toNat % 16
    let passes (c g : Nat) (x : Stream) (s : State) : Bool := (s.phaseWord c g n).getLsbD 32 != (x.reg o.a).getLsbD 0
    StreamDoes (.mwait o) (fun c g x s => 8 * n + 8 ≤ (s.group c g).scratchSize ∧ passes c g x s = true) (fun _ _ _ s => s) ∧
    (∀ s c g x, StreamRuns s c g x → 8 * n + 8 ≤ (s.group c g).scratchSize → passes c g x s = false →
      exec (.mwait o) s = .next (s.updStream c g (fun y => { y with st := .waitPhase n }))))

/-- An INT8 MMA (R192, R296): each element of the tile gains the exact dot product of its rows, modulo 2^32. -/
def Obligations.Int8MmaIsDotProduct : Prop :=
  ∀ (x : Stream) (t e : Nat) (a b : Memory), e < 256 →
    let dot : Int := (List.range 256).foldl (fun v k => v + slotInt a (e / 16) k * slotInt b (e % 16) k) 0
    (((x.mmaNow t .i8 .i8 a b).elem .i32 t e : Nat) : Int) = ((x.elem .i32 t e : Int) + dot) % 2 ^ 32


/-! ## Copy and collective engines -/

/-- Copy and collective commands (R298 to R309): a lane whose operands are in range pushes what it has stored and enters its command
at the end of a queue of its group; a copy joins the open batch; a helper enters none; operands out of range trap PROTECTION.
The model's choice: the order of the checks and the INFO words of a trap at issue (log entries 28 and 32). -/
def Obligations.EngineCommands : Prop :=
  let does (i : Instr) (k : Checks) (ok : Lane → State → Prop) (f : Lane → State → State) : Prop := i.wf = true →
    Performs i k (fun l s => l.helper s = true ∨ ok l s) (fun l s => if l.helper s then s else f l s)
  let refuses (i : Instr) (k : Checks) (bad : Lane → State → Prop) : Prop := i.wf = true →
    Performs i k (fun l s => l.helper s = false ∧ bad l s)
      (fun l s => s.takeTrap l.c l.p l.pc { code := .protection, info0 := 0, info1 := 0 })
  let slot (o : OwnOp) (l : Lane) (s : State) : Nat := fld ((l.desc s o.a).getD 1 0) 0 6
  (∀ o, let path := (o.mod.extractLsb' 9 3).toNat
    does (.tcopy o) (mainChecks (.tcopy o) o.ctl (descRegs o.a))
      (fun l s => if path < 4 then boxOk (l.desc s o.a) = true
        else slotDescOk (l.desc s o.a) = true ∧ (s.slotOf l.c (l.fibre s).gslot (slot o l s)).isSome)
      (fun l s => l.command s (o.mod.extractLsb' 7 2).toNat true (.copy (o.mod.extractLsb' 12 3).toNat path (l.desc s o.a) (arriveOf o))) ∧
    refuses (.tcopy o) (mainChecks (.tcopy o) o.ctl (descRegs o.a))
      (fun l s => (if path < 4 then boxOk (l.desc s o.a) else slotDescOk (l.desc s o.a)) = false)) ∧
  (∀ o, let k := mainChecks (.tcopyp o) o.ctl (descRegs o.a ++ [o.b.toNat])
    does (.tcopyp o) k (fun l s => boxOk (l.desc s o.a) = true)
      (fun l s => l.command s (o.mod.extractLsb' 7 2).toNat true
        (.copyPeer (o.mod.extractLsb' 12 3).toNat (o.mod.extractLsb' 9 3).toNat (l.desc s o.a) (l.reg s o.b) (arriveOf o))) ∧
    refuses (.tcopyp o) k (fun l s => boxOk (l.desc s o.a) = false)) ∧
  (∀ o, let k := mainChecks (.tfill o) o.ctl (regsDAB o.d o.a o.b)
    let whole (l : Lane) (s : State) : Prop := (l.reg s o.b).toNat % 2 ^ (o.mod.extractLsb' 12 3).toNat = 0
    does (.tfill o) k whole
      (fun l s => l.command s (o.mod.extractLsb' 7 2).toNat true
        (.fill (o.mod.extractLsb' 12 3).toNat (o.mod.extractLsb' 9 3 == 1) (l.reg s o.d) (l.reg s o.a) (l.reg s o.b) (arriveOf o))) ∧
    refuses (.tfill o) k (fun l s => ¬ whole l s)) ∧
  (∀ o, let k := mainChecks (.halo o) o.ctl (descRegs o.a ++ [o.b.toNat, o.c.toNat])
    does (.halo o) k (fun l s => boxOk (l.desc s o.a) = true)
      (fun l s => l.command s 4 false
        (.halo (o.mod.extractLsb' 12 3).toNat (o.mod.getLsbD 11) (l.desc s o.a) (l.reg s o.b) (l.reg s o.c))) ∧
    refuses (.halo o) k (fun l s => boxOk (l.desc s o.a) = false)) ∧
  (∀ o, let k := mainChecks (.ared o) o.ctl [o.a.toNat, o.b.toNat, o.c.toNat]
    let z := aredSize (OwnOp.tyOf o 11)
    let n (l : Lane) (s : State) : Nat := (l.reg s o.c).toNat
    let counts (l : Lane) (s : State) : Prop := 0 < n l s ∧ n l s < 2 ^ 32
    does (.ared o) k
      (fun l s => counts l s ∧ s.collTrap (l.ctx s) (l.reg s o.a) z (z * n l s) = none ∧
        s.collTrap (l.ctx s) (l.reg s o.b) z (z * n l s) = none ∧
        partOverlap (l.reg s o.a).toNat (l.reg s o.b).toNat (z * n l s) = false)
      (fun l s => l.command (s.countCollective (s.group l.c (l.fibre s).gslot).grid) 4 false
        (.ared (OwnOp.tyOf o 11) (o.mod.extractLsb' 9 2).toNat (o.mod.getLsbD 8) (l.reg s o.a) (l.reg s o.b) (l.reg s o.c))) ∧
    refuses (.ared o) k (fun l s => ¬ counts l s)) ∧
  (∀ o, let k := mainChecks (.bcast o) o.ctl [o.a.toNat, o.b.toNat, o.c.toNat]
    let n (l : Lane) (s : State) : Nat := (l.reg s o.b).toNat
    let counts (l : Lane) (s : State) : Prop := 0 < n l s ∧ n l s ≤ 2 ^ 40 ∧ (l.reg s o.c).toNat < (l.members s).length
    does (.bcast o) k (fun l s => counts l s ∧ s.collTrap (l.ctx s) (l.reg s o.a) 1 (n l s) = none)
      (fun l s => l.command (s.countCollective (s.group l.c (l.fibre s).gslot).grid) 4 false
        (.bcast (l.reg s o.a) (l.reg s o.b) (l.reg s o.c))) ∧
    refuses (.bcast o) k (fun l s => ¬ counts l s)) ∧
  -- a command enters its queue behind all others, with a number of its own
  (∀ (s : State) (c g q p : Nat) (body : CommandBody) (tc : Word), q < (s.group c g).queues.length →
    ((s.enqueue c g q p body tc).group c g).queues.getD q [] =
      (s.group c g).queues.getD q [] ++ [Command.fresh (s.group c g).nextCmd p body tc (s.fibre c p).biLines] ∧
    (∀ j, j ≠ q → ((s.enqueue c g q p body tc).group c g).queues.getD j [] = (s.group c g).queues.getD j []) ∧
    (s.enqueue c g q p body tc).mem = s.mem)

/-! ## Ray, radiance, raster, texture and record queues -/

/-- RQRY and RQNEXT (R312, R313, R315): a query that opens walks its structure, and its result and the query's standing are kept; one
that goes on is decided first; a token that names no open query gives STALE.
The model's choice: the walk is one step, and parts of DEPTH and of the token are free (log entries 36 and 40). -/
def Obligations.RayQueries : Prop :=
  let done (l : Lane) (s : State) : State := s.settleFibre l.c l.p
  let lands (l : Lane) (s : State) (fl : Fl) (q : Query) (regs : List (Nat × Word)) : State :=
    (l.defer s fl regs [] 0 none none .b8).updFibre l.c l.p (fun f => { f with query := some { q with parked := none, out := regs } })
  let size (q : Query) : Nat := if q.notrap then 10 else 4
  let asks (e : RayEnd) : Bool := match e with
    | .candidate _ | .depth _ _ _ _ => true
    | _ => false
  (∀ o, (Instr.rqry o).wf = true →
    let fresh (l : Lane) (s : State) : Prop := ∀ q, (l.fibre (done l s)).query = some q → q.parked ≠ some l.pc
    Performs (.rqry o) (mainChecks (.rqry o) o.ctl (rqryRegs o))
      (fun l s => fresh l s ∧ ∃ s1 q s2 q2 e, l.openQuery (done l s) o = (s1, .ok (q, true)) ∧
        Query.walk l walkBound q s1 = some (.over s2 q2 e))
      (fun l s => match l.openQuery (done l s) o with
        | (s1, .ok (q, _)) => match Query.walk l walkBound q s1 with
          | some (.over s2 q2 e) =>
            lands l s2 o.ctl.fl { q2 with ended := !asks e } (blockRegs o.d (size q2) (e.words q2.token s2.freeCtr))
          | _ => s
        | _ => s) ∧
    Performs (.rqry o) (mainChecks (.rqry o) o.ctl (rqryRegs o))
      (fun l s => fresh l s ∧ ∃ s1 q, l.openQuery (done l s) o = (s1, .ok (q, false)))
      (fun l s => match l.openQuery (done l s) o with
        | (s1, .ok (q, _)) => lands l s1 o.ctl.fl { q with ended := true } (statusRegs o.d (size q) 6)
        | _ => s)) ∧
  (∀ o, (Instr.rqnext o).wf = true →
    let k := { mainChecks (.rqnext o) o.ctl [o.a.toNat, o.b.toNat] with block := some o.d.toNat }
    let next (l : Lane) (s : State) (q : Query) := q.decide (fld (l.reg (done l s) o.b) 0 2) (BitVec.ofNat 32 (fld (l.reg (done l s) o.b) 32 32))
    let open_ (l : Lane) (s : State) (q : Query) : Prop := (l.fibre (done l s)).query = some q ∧ q.ended = false ∧ l.reg (done l s) o.a = q.token ∧
      q.parked ≠ some l.pc
    let block (l : Lane) (s : State) : Nat := (l.fibre (done l s)).queryBlock
    Performs (.rqnext o) k (fun l s => ∃ q q2 e, open_ l s q ∧ next l s q = (q2, some e))
      (fun l s => match (l.fibre (done l s)).query with
        | some q => match next l s q with
          | (q2, some e) =>
            lands l (done l s) o.ctl.fl { q2 with ended := true } (blockRegs o.d (block l s) (e.words q2.token (done l s).freeCtr))
          | _ => s
        | none => s) ∧
    Performs (.rqnext o) k (fun l s => ∃ q q2 s3 q3 e, open_ l s q ∧ next l s q = (q2, none) ∧
        Query.walk l walkBound q2 (done l s) = some (.over s3 q3 e))
      (fun l s => match (l.fibre (done l s)).query with
        | some q => match Query.walk l walkBound (next l s q).1 (done l s) with
          | some (.over s3 q3 e) =>
            lands l s3 o.ctl.fl { q3 with ended := !asks e } (blockRegs o.d (size q3) (e.words q3.token s3.freeCtr))
          | _ => s
        | none => s) ∧
    Performs (.rqnext o) k
      (fun l s => ∀ q, (l.fibre (done l s)).query = some q → q.parked ≠ some l.pc ∧ (q.ended = true ∨ l.reg (done l s) o.a ≠ q.token))
      (fun l s => l.defer (done l s) o.ctl.fl (statusRegs o.d (block l s) 5) [] 0 none none .b8))

/-- RCQ, RCQT and RCFLIP (R317 to R319): the colour and pd of a query; a sample that is good enters the graphics queue, and pd awaits
it; a publication waits for its slot, and its weights are then on their way to every die.
The model's choice: the order of roundings, and when a sample and a flip are taken (log entries 37 and 38). -/
def Obligations.RadianceWords : Prop :=
  let gives (o : OwnOp) (l : Lane) (s : State) (t : State) (pd : Bool) (await : Option (Nat × Nat × BitVec 16)) : State :=
    l.defer t o.ctl.fl [(o.d.toNat, (l.radianceQuery s o).1)] [((o.c.extractLsb' 0 4).toNat, pd)] 0 none await .b8
  (∀ o, (Instr.rcq o).wf = true → Performs (.rcq o) (mainChecks (.rcq o) o.ctl (rcqRegs o)) (fun _ _ => True)
    (fun l s => gives o l s s (l.radianceQuery s o).2 none)) ∧
  (∀ o, (Instr.rcqt o).wf = true → Performs (.rcqt o) (mainChecks (.rcqt o) o.ctl (rcqRegs o ++ [o.b.toNat])) (fun _ _ => True)
    (fun l s =>
      if (l.radianceQuery s o).2 && !l.helper s && sampleOk (l.reg s o.b) then
        let id := (s.group l.c (l.fibre s).gslot).nextCmd
        l.command (gives o l s s true (some (sampleAwait (slotNo o) id))) 6 false
          (.sample (slotNo o) [l.regN s o.a.toNat, l.regN s (o.a.toNat + 1), l.regN s (o.a.toNat + 2), l.reg s o.b])
      else gives o l s s false none)) ∧
  (∀ o, (Instr.rcflip o).wf = true →
    let k := checksOf (.rcflip o) o.ctl []
    let owns (l : Lane) (s : State) : Prop := flag (s.net (slotNo o)).reg 15 = true ∧ fld (s.net (slotNo o)).reg 0 12 = (l.ctx s).toNat
    WaitsForEngine (.rcflip o) k ∧
    EngineAccepts .rcflipAccept (fun i => match i with
        | .rcflip _ => true
        | _ => false) (.rcflip o) k
      (fun l s => owns l s ∧ (s.net (slotNo o)).pend = none ∧ l.graphicsFree s = true ∧
        (s.die (fld (s.net (slotNo o)).reg 12 2)).dead = false)
      (fun l s =>
        let x := s.net (slotNo o)
        let r : AMap (BitVec 16) := (List.range netWords).map (fun i => (i, x.publish i))
        (s.enqueue l.c (l.fibre s).gslot 6 l.p (.flip (slotNo o)) s.gtb).setNet (slotNo o)
          { x with incoming := (List.range 4).map (fun d => (d, r)) }) ∧
    -- a home die that is dead publishes nothing: the command completes without it (R82)
    EngineAccepts .rcflipAccept (fun i => match i with
        | .rcflip _ => true
        | _ => false) (.rcflip o) k
      (fun l s => owns l s ∧ (s.net (slotNo o)).pend = none ∧ l.graphicsFree s = true ∧
        (s.die (fld (s.net (slotNo o)).reg 12 2)).dead = true)
      (fun l s => s.enqueue l.c (l.fibre s).gslot 6 l.p (.flip (slotNo o)) s.gtb) ∧
    EngineAccepts .rcflipAccept (fun i => match i with
        | .rcflip _ => true
        | _ => false) (.rcflip o) k
      (fun l s => ¬ owns l s)
      (fun l s => s.raiseDue l.c l.p { code := .protection, info0 := 0, info1 := 0 } none))

/-- QPUSH and QPOP (R320 to R323): a push is a release; a record that finds room is written and pd set; a pop of a record gives its
words; with TRY a full or an empty queue only clears pd.
The model's choice: the budget is checked before the queue (log entry 42). -/
def Obligations.RecordQueues : Prop :=
  (∀ o, (Instr.qpush o).wf = true →
    let k := checksOf (.qpush o) o.ctl [o.a.toNat, o.b.toNat]
    let take (l : Lane) (s : State) (n : Nat) : Except Trap (List Word) :=
      match windowTrapOf (l.fibre s) o.b.toNat n with
      | some t => .error t
      | none => .ok ((List.range n).map (fun i => l.regN s (o.b.toNat + i)))
    let push (l : Lane) (s : State) := s.queuePush (Via.of l.c) (l.ctx s) (l.reg s o.a) (take l s)
    let pd (l : Lane) (s : State) (b : Bool) : State := s.updFibre l.c l.p (fun f => f.setPred (o.c.extractLsb' 0 4).toNat b)
    PushesFirst (.qpush o) k ∧
    ReleasePerforms (.qpush o) k
      (fun l s => l.helper s = false ∧ l.overBudget s = false ∧ ∃ t ws tc h, push l s = .done t ws tc h)
      (fun l s => match push l s with
        | .done t _ tc _ =>
          let t := if isControl l.c then t else t.updGrid (s.groupOf l.c l.p).grid (fun x => { x with pushes := x.pushes + 1 })
          pd l (l.noteTc t tc) true
        | _ => s) ∧
    ReleasePerforms (.qpush o) k
      (fun l s => o.mod.getLsbD 0 = true ∧ l.helper s = false ∧ l.overBudget s = false ∧ ∃ t h, push l s = .blocked t h)
      (fun l s => match push l s with
        | .blocked t _ => pd l t false
        | _ => s) ∧
    ReleasePerforms (.qpush o) k (fun l s => l.helper s = true) (fun l s => pd l s false) ∧
    ReleasePerforms (.qpush o) k (fun l s => l.helper s = false ∧ l.overBudget s = true)
      (fun l s => (pd l s false).updGrid (s.groupOf l.c l.p).grid (fun x => { x with drops := x.drops + 1, ampl := true }))) ∧
  (∀ o, (Instr.qpop o).wf = true →
    let k := checksOf (.qpop o) o.ctl [o.d.toNat, o.a.toNat]
    let check (l : Lane) (s : State) (h : QueueHead) : Option Trap :=
      if h.bound then some { code := .queueFault, info0 := l.reg s o.a, info1 := 0 } else windowTrapOf (l.fibre s) o.d.toNat h.regs
    let pop (l : Lane) (s : State) := (s.settleFibre l.c l.p).queuePop (Via.of l.c) (l.ctx s) (l.reg s o.a) (check l s)
    let give (l : Lane) (s : State) (ws : List Word) (b : Bool) : State :=
      l.defer s o.ctl.fl (blockRegs o.d ws.length ws) [((o.c.extractLsb' 0 4).toNat, b)] 0 none none .b8
    Performs (.qpop o) k (fun l s => ∃ t ws tc h, pop l s = .done t ws tc h)
      (fun l s => match pop l s with
        | .done t ws tc _ => give l (l.noteTc t tc) ws true
        | _ => s) ∧
    Performs (.qpop o) k (fun l s => o.mod.getLsbD 0 = true ∧ ∃ t h, pop l s = .blocked t h)
      (fun l s => match pop l s with
        | .blocked t h => give l t (List.replicate h.regs 0) false
        | _ => s))

/-- RCLS, RSUB and TEXS (R324 to R327): the signed area and its comparison with the threshold; a submission that the target's home
die accepts, or a trap at the next block; the colour of a texture sample.
The model's choice: when a submission traps, and infinite coordinates (log entries 39 and 41). -/
def Obligations.RasterAndTexture : Prop :=
  (∀ o, (Instr.rcls o).wf = true →
    let area (l : Lane) (s : State) : F32 := signedArea (l.regN s o.a.toNat) (l.regN s (o.a.toNat + 1)) (l.regN s (o.a.toNat + 2))
    Changes (.rcls o) (checksOf (.rcls o) o.ctl (o.d.toNat :: (List.range 3).map (fun i => o.a.toNat + i))) (fun _ _ => True)
      (fun l s f => (l.writes s o.ctl.t o.d ((area l s).setWidth 64) f).setPred (o.c.extractLsb' 0 4).toNat
        (f32Le (s.thresh (l.ctx s)) (area l s &&& 0x7FFFFFFF)))) ∧
  -- the area, each operation rounded once, of vertices whose x is bits 31:0 and whose y is bits 63:32; the comparison
  (let sub (a b : F32) : F32 := BitVec.ofNat 32 (fSub .f32 .rne false a.toNat b.toNat).1
   let mul (a b : F32) : F32 := BitVec.ofNat 32 (fMul .f32 .rne false a.toNat b.toNat).1
   let fma (a b c : F32) : F32 := BitVec.ofNat 32 (fFma .f32 .rne false a.toNat b.toNat c.toNat).1
   let x (w : Word) : F32 := w.extractLsb' 0 32
   let y (w : Word) : F32 := w.extractLsb' 32 32
   (∀ v0 v1 v2 : Word, signedArea v0 v1 v2 = mul (fma (sub (x v1) (x v0)) (sub (y v2) (y v0))
      (mul (sub (x v2) (x v0)) (sub (y v1) (y v0)) ^^^ 0x80000000)) 0x3F000000) ∧
   signedArea 0 0x41000000 0x40C0000000000000 = 0x41C00000 ∧
   (∀ a b c : F32, lerp a b c = fma c (sub b a) a)) ∧
  (∀ (a b : F32) (v w : Rat), (decodeF .f32 a.toNat).exact = some v → (decodeF .f32 b.toNat).exact = some w → f32Le a b = decide (v ≤ w)) ∧
  (∀ a b : F32, (decodeF .f32 a.toNat).isNan = true ∨ (decodeF .f32 b.toNat).isNan = true → f32Le a b = false) ∧
  -- a submission takes SEQ, which goes up by 1, and goes to the dies that own a tile it covers
  (∀ (l : Lane) (s : State) (target : Word) (verts : List Word) (ps : List Place) (p : Place) (d : List Word),
    let covered := coveredPixels (targetOf_ d) verts
    let owner (q : Nat × Nat × Option F32) : Nat := (q.1 / 64 + q.2.1 / 64) % 4
    let seq : BitVec 32 := (d.getD 3 0).extractLsb' 32 32
    let t := s.submit l target verts ps d
    ps[3]? = some p → covered ≠ [] → (∀ q ∈ covered, (s.die (owner q)).dead = false) →
    (∃ z ∈ t.subs, z.seq = seq ∧ z.target = target ∧ z.verts = verts ∧ z.desc = d ∧ z.count = 0 ∧
      ∀ k, k ∈ z.todo ↔ ∃ q ∈ covered, owner q = k) ∧
    t.mem = (s.writePlaces (Via.dev (dieOf l.c)) (l.ctx s) [(p, wd (((d.getD 3 0).extractLsb' 0 32).toNat + (seq.toNat + 1) % 2 ^ 32 * 2 ^ 32))]).1.mem) ∧
  -- a triangle covers a pixel whose centre lies inside its three edges
  (∀ (p0 p1 p2 : Int × Int) (zs : List F32) (x y : Nat),
    let e (a b : Int × Int) : Int := (b.1 - a.1) * (256 * (y : Int) + 128 - a.2) - (b.2 - a.2) * (256 * (x : Int) + 128 - a.1)
    let es := [e p1 p2, e p2 p0, e p0 p1]
    let area : Int := e p1 p2 + e p2 p0 + e p0 p1
    let hit : Bool := (pixelDepth [p0, p1, p2] zs x y).1
    (area = 0 → hit = false) ∧ ((∀ k ∈ es, 0 < k) ∨ (∀ k ∈ es, k < 0) → hit = true) ∧
    ((0 < area ∧ ∃ k ∈ es, k < 0) ∨ (area < 0 ∧ ∃ k ∈ es, 0 < k) → hit = false)) ∧
  (∀ o, (Instr.rsub o).wf = true →
    let k := checksOf (.rsub o) o.ctl (rsubRegs o)
    let want (i : Instr) : Bool := match i with
      | .rsub _ => true
      | _ => false
    let target (l : Lane) (s : State) := s.readTarget (dieOf l.c) (l.ctx s) (l.reg s o.a)
    let buffer (l : Lane) (s : State) : State × Bool := match target l s with
      | (t, .ok (_, d)) => t.bufferOk (dieOf l.c) (l.ctx t) (targetOf_ d)
      | (t, _) => (t, false)
    let verts (l : Lane) (s : State) : List Word := (List.range 5).map (fun i => l.regN s (o.b.toNat + i))
    let fails (l : Lane) (s t : State) (code : TrapCode) : State := t.raiseDue l.c l.p { code := code, info0 := l.reg s o.a, info1 := 0 } none
    WaitsForEngine (.rsub o) k ∧
    EngineAccepts .rsubAccept want (.rsub o) k
      (fun l s => l.queueClear s = true ∧ ∃ t ps d, target l s = (t, .ok (ps, d)) ∧ targetOk d = true ∧ (targetOf_ d).abort = false ∧ (buffer l s).2 = true)
      (fun l s => match target l s with
        | (_, .ok (ps, d)) => (buffer l s).1.submit l (l.reg s o.a) (verts l s) ps d
        | _ => s) ∧
    EngineAccepts .rsubAccept want (.rsub o) k
      (fun l s => l.queueClear s = true ∧ ∃ t ps d, target l s = (t, .ok (ps, d)) ∧ targetOk d = true ∧ (targetOf_ d).abort = false ∧
        (buffer l s).2 = false)
      (fun l s => fails l s (buffer l s).1 .protection) ∧
    EngineAccepts .rsubAccept want (.rsub o) k
      (fun l s => l.queueClear s = true ∧ ∃ t ps d, target l s = (t, .ok (ps, d)) ∧ targetOk d = true ∧ (targetOf_ d).abort = true)
      (fun l s => fails l s (target l s).1 .rasterLinkLost) ∧
    EngineAccepts .rsubAccept want (.rsub o) k
      (fun l s => l.queueClear s = true ∧ ∃ t ps d, target l s = (t, .ok (ps, d)) ∧ targetOk d = false)
      (fun l s => fails l s (target l s).1 .protection)) ∧
  (∀ o, (Instr.texs o).wf = true →
    Performs (.texs o) (mainChecks (.texs o) o.ctl (regsDABC o.d o.a o.b o.c))
      (fun l s => ∃ t v, l.texture (s.settleFibre l.c l.p) o = (t, .ok v))
      (fun l s => match l.texture (s.settleFibre l.c l.p) o with
        | (t, .ok v) => l.defer t o.ctl.fl [(o.d.toNat, v)] [] 0 none none .b8
        | _ => s) ∧
    Performs (.texs o) (mainChecks (.texs o) o.ctl (regsDABC o.d o.a o.b o.c))
      (fun l s => (l.reg (s.settleFibre l.c l.p) o.b).toNat % 32 ≠ 0)
      (fun l s => (s.settleFibre l.c l.p).takeTrap l.c l.p l.pc { code := .misaligned, info0 := l.reg (s.settleFibre l.c l.p) o.b, info1 := 0 })) ∧
  -- levels, wrapped indices and texels
  (∀ (x : Texture) (n : Nat), let texels : Nat := max 1 (x.wid / 2 ^ n) * max 1 (x.hgt / 2 ^ n)
    let after : Nat := levelStart x n + (if x.fmt = 1 then 8 else 4) * texels
    levelStart x 0 = 0 ∧ levelStart x (n + 1) % 256 = 0 ∧ after ≤ levelStart x (n + 1) ∧ levelStart x (n + 1) < after + 256) ∧
  (∀ (x : Texture) (lod : F32), (decodeF .f32 lod.toNat).isNan = true → levelOf x lod = 0) ∧
  (∀ (x : Texture) (lod : F32) (v : Rat), (decodeF .f32 lod.toNat).exact = some v → x.lm1 < 16 →
    (v ≤ 0 → levelOf x lod = 0) ∧ (x.lm1 ≤ v → levelOf x lod = x.lm1) ∧
    (0 ≤ v → v ≤ x.lm1 → size ((levelOf x lod : Rat) - v) ≤ 1 / 2)) ∧
  (∀ (n c k : Nat) (neg : Bool) (i : Int), 0 < n → let at_ (wrap : Nat) (i : Int) : Nat := wrapIndex wrap n c k neg (some i)
    (∀ w, w < 3 → 0 ≤ i → i < n → at_ w i = i.toNat) ∧ (i < 0 → at_ 0 i = 0) ∧ (n ≤ i → at_ 0 i = n - 1) ∧
    at_ 1 (i + n) = at_ 1 i ∧ at_ 2 (i + 2 * n) = at_ 2 i ∧ at_ 2 (-1 - i) = at_ 2 i) ∧
  (∀ v i : Nat, i < 4 →
    (decodeTexel 0 v).getD i 0 = BitVec.ofNat 32 (fDiv .f32 .rne false (natF32 (v / 2 ^ (8 * i) % 256)).toNat (natF32 255).toNat).1 ∧
    (decodeF .f32 ((decodeTexel 1 v).getD i 0).toNat).exact = (decodeF .f16 (v / 2 ^ (16 * i) % 2 ^ 16)).exact ∧
    decodeTexel 2 v = [BitVec.ofNat 32 v, 0, 0, 0x3F800000]) ∧
  (∀ n, n < 256 → (decodeF .f32 (natF32 n).toNat).exact = some (n : Rat))

/-! ## Residency, versions, maintenance, time -/

/-- RESID (R328, R329, R143): CREATE takes the lowest free handle; the others act on the context's handle and answer its fields; a
number that is no handle answers NOHANDLE; READ gives the base, the pages and the sequence number too; a helper issues none. Each
operation answers a next state in which D holds a status, the lane's other registers and memory are as before, and the ferry
stands at the next word; DESTROY does so where the handle is not being moved.
The model's choice: the TIER of a tensor in both tiers is free (log entry 43). -/
def Obligations.ResidencyOperations : Prop :=
  let none_ : Word := 2
  let status (h : Handle) : Word := wd (h.prio * 2 ^ 27 + h.second.toNat * 2 ^ 26 +
    (match h.st with
      | .idle => 0
      | .moving => 1
      | .noframes => 2) * 2 ^ 24 + h.pinGot * 2 ^ 20 + h.pinReq * 2 ^ 16 + h.num * 2 ^ 8)
  let put (o : OwnOp) (l : Lane) (s : State) (v : Word) : State := s.updFibre l.c l.p (fun f => l.writes s o.ctl.t o.d v f)
  let hd (o : OwnOp) (l : Lane) (s : State) : Option Handle := s.handle (l.ctx s) ((l.reg s o.a).extractLsb' 0 6).toNat
  let on (i : Instr) (o : OwnOp) (ok : State → Handle → Prop) (f : Lane → State → Handle → State) : Prop := i.wf = true →
    let k := checksOf i o.ctl (regsDAB o.d o.a o.b)
    Performs i k (fun l s => l.helper s = true) (fun _ s => s) ∧
    Performs i k (fun l s => l.helper s = false ∧ hd o l s = none) (fun l s => put o l s none_) ∧
    Performs i k (fun l s => l.helper s = false ∧ ∃ h, hd o l s = some h ∧ ok s h)
      (fun l s => match hd o l s with
        | some h => f l s h
        | none => s)
  let answers (o : OwnOp) (l : Lane) (t : State) (h : Handle) : State := match t.handle h.ctx h.num with
    | some x => put o l t (status x)
    | none => put o l t 0
  (∀ o, (Instr.residCreate o).wf = true →
    let k := checksOf (.residCreate o) o.ctl (regsDAB o.d o.a o.b)
    Performs (.residCreate o) k (fun l s => l.helper s = true) (fun _ s => s) ∧
    Performs (.residCreate o) k (fun l s => l.helper s = false) (fun l s =>
      let r := s.residCreate (l.ctx s) (l.reg s o.a) (l.reg s o.b)
      put o l r.1 r.2)) ∧
  (∀ o, on (.residDestroy o) o (fun _ h => h.st ≠ .moving) (fun l s h =>
    put o l ({ s with handles := s.handles.filter (fun x => x.seq != h.seq) } : State).repin (status { h with pinGot := 0 }))) ∧
  (∀ o, on (.residSetprio o) o (fun _ _ => True) (fun l s h =>
    answers o l (s.updHandle h.seq (fun x => { x with prio := ((l.reg s o.b).extractLsb' 0 3).toNat })) h)) ∧
  (∀ o, on (.residSetpin o) o (fun _ _ => True) (fun l s h =>
    let p := ((l.reg s o.b).extractLsb' 0 4).toNat
    if 8 < p then put o l s 1
    else answers o l ((s.updHandle h.seq (fun x => { x with pinReq := p, pinGot := s.grantPin x p })).markPins h.seq) h)) ∧
  (∀ o, on (.residPromote o) o (fun _ _ => True) (fun l s h =>
    if h.second = false ∧ h.st ≠ .moving then answers o l s h
    else answers o l ({ s.updHandle h.seq (fun x => { x with st := .moving }) with moves := s.moves ++ [(h.seq, false)] }) h)) ∧
  (∀ o, on (.residDemote o) o (fun _ _ => True) (fun l s h =>
    if s.pinned h then put o l s 1
    else if h.second = true ∧ h.st ≠ .moving then answers o l s h
    else answers o l { s.updHandle h.seq (fun x => { x with st := .moving }) with moves := s.moves ++ [(h.seq, true)] } h)) ∧
  (∀ o, (Instr.residRead o).wf = true →
    let k := checksOf (.residRead o) o.ctl [o.d.toNat, o.d.toNat + 1, o.d.toNat + 2, o.a.toNat, o.b.toNat]
    let three (l : Lane) (s : State) (v a b : Word) : State := s.updFibre l.c l.p (fun f =>
      ((l.writes s o.ctl.t o.d v f).write (o.d.toNat + 1) a).write (o.d.toNat + 2) b)
    Performs (.residRead o) k (fun l s => l.helper s = true) (fun _ s => s) ∧
    Performs (.residRead o) k (fun l s => l.helper s = false ∧ hd o l s = none) (fun l s => three l s none_ 0 0) ∧
    Performs (.residRead o) k (fun l s => l.helper s = false ∧ ∃ h, hd o l s = some h) (fun l s => match hd o l s with
      | some h => three l s (status h) h.base (wd (h.pages + h.seq * 2 ^ 32))
      | none => s)) ∧
  -- each operation runs to its end: in a ferry of one lane that is no helper, it answers a next state on these conditions alone
  (∀ o, ResidCompletes (.residCreate o) o [o.d.toNat] (fun _ _ => True)) ∧
  (∀ o, ResidCompletes (.residDestroy o) o [o.d.toNat] (fun l s =>
    ∀ h, s.handle (l.ctx s) ((l.reg s o.a).extractLsb' 0 6).toNat = some h → h.st ≠ .moving)) ∧
  (∀ o, ResidCompletes (.residSetprio o) o [o.d.toNat] (fun _ _ => True)) ∧
  (∀ o, ResidCompletes (.residSetpin o) o [o.d.toNat] (fun _ _ => True)) ∧
  (∀ o, ResidCompletes (.residPromote o) o [o.d.toNat] (fun _ _ => True)) ∧
  (∀ o, ResidCompletes (.residDemote o) o [o.d.toNat] (fun _ _ => True)) ∧
  (∀ o, ResidCompletes (.residRead o) o [o.d.toNat, o.d.toNat + 1, o.d.toNat + 2] (fun _ _ => True))

/-- VPUB and VRECL (R118, R121, R330): each waits for its region's engine. At acceptance VPUB publishes the write version and returns
it; VRECL sets HZ to the version it names and returns 0, or returns 1 where that version is reclaimed already; a version that may
not be published or reclaimed traps VERSION_WINDOW.
The model's choice: when a die sees the new values is free (log entry 44). -/
def Obligations.VersionsPublished : Prop :=
  let table (l : Lane) (s : State) (r : Nat) : List Word := s.versionWords (r % 4) (l.ctx s) r
  let free (l : Lane) (s : State) (r : Nat) : Prop := s.snapTrap (l.ctx s) r = none ∧ l.snapFree s r = true
  let put (o : OwnOp) (l : Lane) (s : State) (v : Word) : State := s.updFibre l.c l.p (fun f => l.writes s o.ctl.t o.d v f)
  let values (l : Lane) (s : State) (r : Nat) : Word := wd (VersionEntry.wv (table l s r) + VersionEntry.hz (table l s r) * 2 ^ 16)
  let traps (l : Lane) (s : State) (r : Nat) : State :=
    s.takeTrap l.c l.p l.pc { code := .versionWindow, info0 := wd r, info1 := values l s r }
  (∀ o, (Instr.vpub o).wf = true →
    let k := checksOf (.vpub o) o.ctl [o.d.toNat]
    let r := (o.mod.extractLsb' 0 4).toNat
    let want (i : Instr) : Bool := match i with
      | .vpub _ => true
      | _ => false
    WaitsForEngine (.vpub o) k ∧
    EngineAccepts .vpubAccept want (.vpub o) k
      (fun l s => free l s r ∧ VersionEntry.horizon (table l s r) ≠ 2 ^ 15)
      (fun l s =>
        let t := table l s r
        let u := VersionEntry.wv t
        let s1 := s.accepted l r (.vpub (r % 4) r) none
        put o l (s1.putVersion (l.ctx s) r (VersionEntry.with t ((u + 1) % 65536) (VersionEntry.hz t))
          ((List.range 4).filter (fun d => d == r % 4 || s.coin d 2))) (wd u)) ∧
    EngineAccepts .vpubAccept want (.vpub o) k (fun l s => free l s r ∧ VersionEntry.horizon (table l s r) = 2 ^ 15)
      (fun l s => traps l s r)) ∧
  (∀ o, (Instr.vrecl o).wf = true →
    let k := checksOf (.vrecl o) o.ctl (regsDA o.d o.a)
    let r := (o.mod.extractLsb' 0 4).toNat
    let x (l : Lane) (s : State) : Nat := ((l.reg s o.a).extractLsb' 0 16).toNat
    let age (l : Lane) (s : State) : Nat := VersionEntry.age (table l s r) (x l s)
    let want (i : Instr) : Bool := match i with
      | .vrecl _ => true
      | _ => false
    WaitsForEngine (.vrecl o) k ∧
    EngineAccepts .vreclAccept want (.vrecl o) k
      (fun l s => free l s r ∧ 0 < age l s ∧ age l s < 2 ^ 15 ∧ age l s < VersionEntry.horizon (table l s r))
      (fun l s => put o l ((s.accepted l r (.vrecl (r % 4) r (BitVec.ofNat 16 (x l s))) (some 0)).putVersion (l.ctx s) r
        (VersionEntry.with (table l s r) (VersionEntry.wv (table l s r)) (x l s)) (List.range 4)) 0) ∧
    EngineAccepts .vreclAccept want (.vrecl o) k
      (fun l s => free l s r ∧ 0 < age l s ∧ age l s < 2 ^ 15 ∧ VersionEntry.horizon (table l s r) ≤ age l s)
      (fun l s => put o l s 1) ∧
    EngineAccepts .vreclAccept want (.vrecl o) k
      (fun l s => free l s r ∧ (age l s = 0 ∨ 2 ^ 15 ≤ age l s)) (fun l s => traps l s r))

/-- CWB, CINV, IINV and FETCHB (R58, R59, R331): every line that meets the range is maintained, from the first, or from the line where
the word parked, and after the fibre's own accesses; a count of zero does nothing; a range
that ends above 2^57 traps PROTECTION; FETCHB discards the fetch view. PREF (R262) may do nothing; else it fills the line of its
address in the L1, or the words of the line in the die L2.
The model's choice: maintenance completes at once, its completion times kept for the next release (log entry 58). -/
def Obligations.CacheMaintenance : Prop :=
  (
  let does (i : Instr) (o : OwnOp) (act : Lane → State → Nat → State) : Prop := i.wf = true →
    let k := checksOf i o.ctl [o.a.toNat, o.b.toNat]
    let start (l : Lane) (s : State) : Nat := (l.reg s o.a).toNat
    let n (l : Lane) (s : State) : Nat := (l.reg s o.b).toNat
    let lines (l : Lane) (s : State) : State × Option (AccessStop × Nat) :=
      let u := s.settleFibre l.c l.p
      let first := match (l.fibre u).maint with
        | some (q, i) => if q = l.pc then max i (start l s / 128) else start l s / 128
        | none => start l s / 128
      u.overLines l.c (l.ctx u) (act l) first ((start l s + n l s - 1) / 128 + 1 - first)
    Performs i k (fun l s => n l s = 0) (fun _ s => s) ∧
    Performs i k (fun l s => 0 < n l s ∧ start l s + n l s ≤ 2 ^ 57 ∧ ∃ t, lines l s = (t, none))
      (fun l s => (lines l s).1.updFibre l.c l.p (fun f => { f with maint := none })) ∧
    Performs i k (fun l s => 0 < n l s ∧ 2 ^ 57 < start l s + n l s)
      (fun l s => s.takeTrap l.c l.p l.pc { code := .protection, info0 := l.reg s o.a, info1 := 0 })
  (∀ o, does (.cwb o) o (fun l s line =>
    let r := s.pushWords l.c ((List.range 32).map (fun i => 32 * line + i))
    (r.1.updFibre l.c l.p (fun f => { f with pushTc := later f.pushTc r.2 })).updCore l.c (fun k => { k with
      pushTc := later k.pushTc r.2 }))) ∧
  (∀ o, does (.cinv o) o Lane.dropClean) ∧
  (∀ o, does (.iinv o) o (iinvLine (o.mod.getLsbD 0))) ∧
  (∀ o, (Instr.fetchb o).wf = true → Changes (.fetchb o) (checksOf (.fetchb o) o.ctl []) (fun _ _ => True)
    (fun _ _ f => { f with view := [] })) ∧
  -- CINV loses no dirty word
  (∀ (l : Lane) (s : State) (line wn : Nat) (w : CacheWord), s.l1Word l.c wn = some w → w.mask ≠ 0 →
    (l.dropClean s line).l1Word l.c wn = some w)) ∧
  (
  ∀ o : MemOp, (Instr.pref o).wf = true →
    let at_ (l : Lane) (s : State) := s.resolve l.c (l.ctx s) (memAddr o l s) o.sz.bytes .read none true
    Performs (.pref o) (checksOf (.pref o) o.ctl [o.b.toNat]) (fun _ _ => True)
      (fun l s => if s.coin l.p 4096 then s else match at_ l s with
        | (t, .error _) => t
        | (t, .ok p) =>
          let pa := if p.e.kind = 2 then p.e.addr + (elemBits p.e.efmt ((memAddr o l s).toNat % 65536 / 4)).1 / 8 else p.pa
          if p.e.uncached then t
          else if o.d.getLsbD 0 then t.l2Fill (dieOf l.c) (l.ctx t) p.dom (pa / 128) else t.l1Fill l.c (l.ctx t) p.dom (pa / 128)))

/-- RDTIME (R332) gives the GTB, with ORD once the fibre's accesses are performed, those at peers among them; PERFR (R333) gives the count of its
event, for the issuing context on the issuing core or for the package, with this word counted; RDSR (R254) gives the special register
that A selects, by the table of R254, FPSTAT with the flags of every store issued and with what may have landed (R190), cleared with CLR.
The model's choice: CYCLES is twice the GTB (log entries 58 and 59). -/
def Obligations.TimeCountsAndSpecials : Prop :=
  let main_ (l : Lane) (s : State) (f : Fibre) (k : Nat) : Nat :=
    let g := s.group l.c f.gslot
    let rcd : List Word := ((s.grid g.grid).map (fun x => x.rcd)).getD []
    let bound := ((s.grid g.grid).bind (fun x => x.binding)).isSome
    let shape := rcd.getD 4 0
    let at_ (i : Nat) : Nat := (shape.extractLsb' (20 * i) 20).toNat
    let spanned := (rcd.getD 5 0).getLsbD 32
    match k with
    | 0 => f.lane
    | 1 => f.lane % 4
    | 2 => g.index
    | 3 => if bound then g.index else g.index % at_ 0
    | 4 => if bound then 0 else g.index / at_ 0 % at_ 1
    | 5 => if bound then 0 else g.index / (at_ 0 * at_ 1)
    | 6 => if bound then 0 else at_ 0
    | 7 => if bound then 0 else at_ 1
    | 8 => if bound then 0 else at_ 2
    | 9 => g.width
    | 10 => g.rank
    | 11 => ((rcd.getD 5 0).extractLsb' 2 5).toNat + 1
    | 12 => l.c % 160
    | 13 => dieOf l.c
    | 14 => s.accid
    | 15 => if spanned then ((rcd.getD 8 0).extractLsb' 0 10).toNat else 0
    | 16 => if spanned then ((rcd.getD 8 0).extractLsb' 16 10).toNat + 1 else 1
    | 17 => f.helper.toNat
    | 18 => match f.role with
      | .compute => 0
      | .copy => 1
      | .epilogue => 2
    | 19 => s.gtb.toNat
    | 21 => g.ctx.toNat
    | _ => s.incarn.toNat
  let control (l : Lane) (s : State) (k : Nat) : Nat :=
    match k with
    | 0 => l.p % 8
    | 12 => (l.c - 640) % 16
    | 13 => dieOf l.c
    | 14 => s.accid
    | 19 => s.gtb.toNat
    | 21 => (s.ctxOf l.c l.p).toNat
    | 22 => s.incarn.toNat
    | _ => 0
  (∀ o : OwnOp, (Instr.rdtime o).wf = true →
    (o.mod.getLsbD 0 = false → Changes (.rdtime o) (checksOf (.rdtime o) o.ctl [o.d.toNat]) (fun _ _ => True)
      (fun l s => l.writes s o.ctl.t o.d s.gtb)) ∧
    (o.mod.getLsbD 0 = true → Performs (.rdtime o) (checksOf (.rdtime o) o.ctl [o.d.toNat])
      (fun l s => (∀ x ∈ (l.fibre s).pending, x.await = none) ∧ s.owesAck l.c l.p = false)
      (fun l s => (s.settleFibre l.c l.p).updFibre l.c l.p (fun f => l.writes (s.settleFibre l.c l.p) o.ctl.t o.d s.gtb f)))) ∧
  (∀ o : OwnOp, (Instr.perfr o).wf = true →
    let e := (o.mod.extractLsb' 0 8).toNat
    Performs (.perfr o) { checksOf (.perfr o) o.ctl [o.d.toNat] with priv := decide (8 ≤ e ∧ e < 12) } (fun _ _ => True) (fun l s =>
      let k := AMap.getD (s.core l.c).counters (l.ctx s).toNat Counters.zero
      let mine (n : Nat) (v : Nat) : Nat := if flag (s.net n).reg 15 && fld (s.net n).reg 0 12 == (l.ctx s).toNat then v else 0
      let v : Nat := match e with
        | 0 => 2 * s.gtb.toNat
        | 1 => k.words
        | 2 => k.selections
        | 3 => k.l1fills
        | 4 => k.tlbmiss
        | 5 => k.bankcyc
        | 8 => s.fabric.staleDrops.toNat
        | 9 => s.fabric.dupDrops.toNat
        | 10 => s.fabric.resends.toNat
        | 11 => s.fabric.biSent.toNat
        | 12 => mine 0 (s.net 0).dropped
        | 13 => mine 1 (s.net 1).dropped
        | 14 => mine 0 (s.net 0).steps
        | _ => mine 1 (s.net 1).steps
      s.updFibre l.c l.p (fun f => l.writes s o.ctl.t o.d (wd (min (2 ^ 64 - 1) v)) f))) ∧
  (∀ o : OwnOp, (Instr.rdsr o).wf = true →
    (o.a ≠ 20 → Changes (.rdsr o) (checksOf (.rdsr o) o.ctl [o.d.toNat]) (fun _ _ => True) (fun l s f =>
      l.writes s o.ctl.t o.d (wd (if isControl l.c then control l s o.a.toNat else main_ l s f o.a.toNat)) f)) ∧
    (o.a = 20 → Performs (.rdsr o) (checksOf (.rdsr o) o.ctl [o.d.toNat]) (fun _ _ => True) (fun l s =>
      let t := s.settleFlags l.c l.p
      t.updFibre l.c l.p (fun f =>
        let f := f.landFlags (t.coin l.p)
        let g := l.writes t o.ctl.t o.d (f.fpstat.setWidth 64) f
        if o.mod.getLsbD 0 then { g with fpstat := 0 } else g))))


/-! ## System words -/

/-- MTCR and MFCR (R335): a value in range is written and 0 returned, one out of range leaves the register and returns 1; a register
written reads back; privileged registers are privileged words. HALT (R336): a control thread ends, a fibre traps as TRAP with code
0xFFF does, and the halt message is sent. CKPT (R337): the thread waits while the package makes its cut, and goes on with the status in D
when the cut may not be taken, or is over and its manifest written.
The model's choice: the order of the reasons of CKPT, and that a cut copies a word at a time (log entry 53). -/
def Obligations.SystemWords : Prop :=
  (
  let no (o : OwnOp) : Nat := (o.mod.extractLsb' 0 9).toNat
  let put (o : OwnOp) (l : Lane) (s : State) (v : Word) : State := s.updFibre l.c l.p (fun f => l.writes s o.ctl.t o.d v f)
  let user (n : Nat) : Bool := decide (n ∈ [1, 2, 3])
  (∀ o, (Instr.mtcr o).wf = true →
    let k := { checksOf (.mtcr o) o.ctl (regsDA o.d o.a) with priv := !user (no o) }
    Performs (.mtcr o) k (fun l s => controlOk (no o) (l.reg s o.a) = true)
      (fun l s => put o l (s.setControl (l.ctx s) (no o) (l.reg s o.a)) 0) ∧
    Performs (.mtcr o) k (fun l s => controlOk (no o) (l.reg s o.a) = false) (fun l s => put o l s 1)) ∧
  (∀ o, (Instr.mfcr o).wf = true → Performs (.mfcr o) { checksOf (.mfcr o) o.ctl [o.d.toNat] with priv := !user (no o) } (fun _ _ => True)
    (fun l s => put o l s (s.controlValue (l.ctx s) (no o)))) ∧
  (∀ (s : State) (ctx : BitVec 12) (n : Nat) (v : Word), s.nets.length = 2 → n ≤ 6 ∨ n = 16 ∨ n = 17 ∨ (256 ≤ n ∧ n < 512) →
    controlOk n v = true →
    (s.setControl ctx n v).controlValue ctx n = v ∧ (s.setControl ctx n v).mem = s.mem ∧ (s.setControl ctx n v).cores = s.cores)) ∧
  (
  (∀ o, (Instr.halt o).wf = true →
    Performs (.halt o) { checksOf (.halt o) o.ctl [o.a.toNat] with priv := true } (fun _ _ => True) (fun l s =>
      let v := l.reg s o.a
      if l.helper s then s
      else if isControl l.c then (s.endFibre l.c l.p).haltMessage l.c l.p v
      else (s.takeTrap l.c l.p (l.pc + 8) { code := .swtrap, info0 := v, info1 := 0xFFF }).haltMessage l.c l.p v)) ∧
  (∀ o, (Instr.ckpt o).wf = true →
    let k : Checks := { checksOf (.ckpt o) o.ctl (regsDAB o.d o.a o.b) with main := false, priv := true }
    ∀ (s : State) (c n : Nat) (fy : Ferry) (p : Nat), Issues s c n fy → Admits s c n fy k → fy.lanes = [p] →
      (∀ l ∈ fy.toLanes c n, l.inWindow s k ∧ l.guard s k = true) → s.plat.ckptCut = none →
      exec (.ckpt o) s = .next { s.updFerry c n (fun x => { x with hold := .accept 0 (.ckpt o) [p] }) with
        plat := { s.plat with ckptCut := some (c, n, p) } }) ∧
  (∀ (o : OwnOp) (s u : State) (c n p st : Nat) (fy : Ferry) (tc : Word),
    let k : Checks := { checksOf (.ckpt o) o.ctl (regsDAB o.d o.a o.b) with main := false, priv := true }
    let l : Lane := { c := c, p := p, n := n, pos := fy.pos, pc := fy.pc }
    let found := s.cutStatus ((l.reg s o.a).extractLsb' 12 40 ++ 0#12).toNat (if o.mod.getLsbD 0 then some ((l.reg s o.b).setWidth 16) else none)
    s.plat.ckptCut = some (c, n, p) → fy.hold = .accept tc (.ckpt o) [p] → AMap.find (s.core c).ferries n = some fy →
    (s.plat.cutRun = none ∧ found.1 ≠ 0 ∧ u = s ∧ st = found.1 ∨
      ∃ x, s.plat.cutRun = some x ∧ x.left = [] ∧ u = s.devPut x.man (s.manifest x.ids x.frames.length) ∧ st = 0) →
    AMap.find (u.core c).ferries n = some fy → l.inWindow u k → l.guard u k = true →
    let v := (u.counted c fy).updFibre c p (fun f => l.writes (u.counted c fy) o.ctl.t o.d (wd st) f)
    let t := (v.updFerry c n (fun x => { x with hold := .none })).advance c n false
    exec .checkpointCutComplete s = .next { t with plat := { t.plat with ckptCut := none, cutRun := none } }))


/-- LNCH (R156 to R158, R334): LAUNCH and BIND read the record, as an acquire load does (R92), and launch its grid, or give the status of their refusal; UNBIND ends
the binding of a grid; a record that is not aligned traps MISALIGNED.
The model's choice: registers that a form does not use are not read (log entry 48). -/
def Obligations.LaunchOperations : Prop :=
  let put (o : OwnOp) (l : Lane) (s : State) (v : Word) : State := s.updFibre l.c l.p (fun f => l.writes s o.ctl.t o.d v f)
  let k (i : Instr) (o : OwnOp) : Checks := { checksOf i o.ctl (regsDABC o.d o.a o.b o.c) with main := false }
  let launches (i : Instr) (o : OwnOp) (b : Lane → State → Option BindArgs) : Prop := i.wf = true →
    let rcd (l : Lane) (s : State) := s.recordRead l.c l.p (l.ctx s) (l.reg s o.a)
    Performs i (k i o) (fun l s => (l.reg s o.a).toNat % 128 = 0 ∧ ∃ t r, rcd l s = (t, some (.ok r)))
      (fun l s => match rcd l s with
        | (t, some (.ok r)) =>
          let x := t.launch (dieOf l.c) (l.ctx t) r (b l t)
          put o l x.1 x.2
        | _ => s) ∧
    Performs i (k i o) (fun l s => (l.reg s o.a).toNat % 128 ≠ 0)
      (fun l s => s.takeTrap l.c l.p l.pc { code := .misaligned, info0 := l.reg s o.a, info1 := 0 })
  (∀ o, launches (.lnchLaunch o) o (fun _ _ => none)) ∧
  (∀ o, launches (.lnchBind o) o (fun l s => some (l.reg s o.b, ((l.reg s o.c).extractLsb' 0 32).toNat))) ∧
  (∀ o, (Instr.lnchUnbind o).wf = true → Performs (.lnchUnbind o) (k (.lnchUnbind o) o) (fun _ _ => True) (fun l s =>
    let x := s.unbind (l.ctx s) ((l.reg s o.a).extractLsb' 0 32).toNat
    put o l x.1 x.2)) ∧
  -- a launch that is accepted is one pending grid more, at the end of its queue
  (∀ (s : State) (d : Nat) (ctx : BitVec 12) (r : List Word) (t : State) (ids : List Nat),
    s.checkLaunch d ctx r none = .accept t ids none →
    (s.launch d ctx r none).2 = wd t.nextGrid ∧ (s.launch d ctx r none).1.nextGrid = (t.nextGrid + 1) % 2 ^ 32 ∧
    AMap.getD (s.launch d ctx r none).1.queues (Rcd.lq r) [] = AMap.getD t.queues (Rcd.lq r) [] ++ [t.nextGrid] ∧
    (s.launch d ctx r none).1.mem = t.mem)


/-! ## Steps of the machine's other agents -/

/-- The selector and the fibres of a core. FERRY_SELECTION (R136 to R138): the entry chosen holds a ready fibre; where some entry's
age is past AGE_CAP it is the oldest, else none has more ready fibres with its bias; the ferry's lanes are ready fibres of the entry,
at most 64. ENTRY_SPILL (R135), RESULT_LANDS (R150), BAR_TIMEOUT (R147), NANO_EXPIRY (R278), GROUP_END (R130), sleep and waking (R60),
trap records (R345), settle notices, a control thread's start and a write of BSPART (R39).
The model's choice: which enabled step is taken, and windows kept until a group ends (log entries 6 and 22). -/
def Obligations.CoreSteps : Prop :=
  (∀ (s : State) (c : Nat), let u := s.refill c
    (u.canSelect c = false ∨ (u.spillVictim c).isSome → exec (.ferrySelection c) s = .next u) ∧
    (u.canSelect c = true → u.spillVictim c = none → ∃ i e, (i, e) ∈ (u.core c).table ∧ u.readyOf c e ≠ [] ∧
      (∀ x ∈ u.eligible c, u.regs.ageCap < x.2.age → u.regs.ageCap < e.age ∧ x.2.age ≤ e.age) ∧
      ((∀ x ∈ u.eligible c, x.2.age ≤ u.regs.ageCap) → ∀ x ∈ u.eligible c,
        ((u.readyOf c x.2).length : Int) + biasOf x.2.yh ≤ ((u.readyOf c e).length : Int) + biasOf e.yh) ∧
      (u.formScan c e).lanes.length ≤ 64 ∧ (∀ p ∈ (u.formScan c e).lanes, p ∈ e.wvec ∧ u.isReady c p = true) ∧
      exec (.ferrySelection c) s = .next ((u.ageEntries c i).launchFerry c i e (u.formScan c e)))) ∧
  (∀ (s : State) (c i : Nat) (e : BlockEntry), s.spillVictim c = some (i, e) →
    (i, e) ∈ (s.core c).table ∧ exec (.entrySpill c) s = .next (s.spillEntry c i e)) ∧
  (∀ (s : State) (c p n : Nat) (r : Pending) (d : Nat) (v : Word), (s.fibre c p).pending[n]? = some r → s.hasFibre c p = true →
    r.await = none → r.late = [] → (s.fibre c p).life ≠ .draining → r.regs = [(d, v)] → d < (s.fibre c p).window.length →
    ∃ t, exec (.resultLands c p n) s = .next t ∧ (t.fibre c p).window.getD d 0 = v ∧
      (t.fibre c p).pending = (s.fibre c p).pending.eraseIdx n ∧
      (∀ k, r.flag = some k → k.val < (s.fibre c p).flags.length → (t.fibre c p).flagCount k.val = (s.fibre c p).flagCount k.val - 1) ∧
      (∀ q, q ≠ p → t.fibre c q = s.fibre c q) ∧ t.mem = s.mem) ∧
  (∀ (s : State) (c p n : Nat) (r : Pending), (s.fibre c p).pending[n]? = some r → s.hasFibre c p = true →
    r.await = none → r.late ≠ [] → ∃ a ∈ r.late, exec (.resultLands c p n) s = .next (if s.lateOpen c a then s.performLate c p a else s)) ∧
  (∀ (s : State) (c g n : Nat), n < 16 → (AMap.find (s.core c).groups g).isSome →
    let b := AMap.getD (s.group c g).barriers n Barrier.blank
    (b.expired s.gtb = false → exec (.barTimeout c g n) s = .next s) ∧
    (b.expired s.gtb = true → (s.liveOf c g).Nodup → (∀ p ∈ s.liveOf c g, (s.fibre c p).lates = []) → ∃ t, exec (.barTimeout c g n) s = .next t ∧
      ∀ p ∈ s.liveOf c g, (s.fibre c p).waitk = .groupBarrier → (s.fibre c p).barn = n →
        (t.fibre c p).waitk = .trap ∧ (t.fibre c p).pc = (s.fibre c p).pc - 8)) ∧
  (∀ (s : State) (c n : Nat) (fy : Ferry) (till : Word), AMap.find (s.core c).ferries n = some fy → fy.hold = .nano till →
    exec (.nanoExpiry c n) s = .next (if till.toNat ≤ s.gtb.toNat then s.setFerry c n { fy with hold := .none } else s)) ∧
  (∀ c g, g < 256 → ActsWhen (.groupEnd c g) (fun s => s.groupOver c g = true) (fun s => s.freeGroup c g)) ∧
  (∀ c g, 256 ≤ g → ActsWhen (.groupEnd c g) (fun s => s.groupOver c g = true ∧ s.namesGroup c g = false)
    (fun s => s.updCore c (fun k => { k with groups := AMap.drop k.groups g }))) ∧
  (∀ (s : State) (c g : Nat), (((s.core c).groups.map Prod.fst).Nodup → AMap.find ((s.freeGroup c g).core c).groups g = none) ∧
    (∀ x ∈ ((s.freeGroup c g).core c).slots, x.2.group ≠ g) ∧ (s.freeGroup c g).blocked = [] ∧ (s.freeGroup c g).mem = s.mem) ∧
  (∀ c, ActsWhen (.retentionEntry c)
    (fun s => (s.core c).asleep = false ∧ s.coreIdle c = true ∧ (s.core c).idleSince.toNat + 2048 ≤ s.gtb.toNat ∧ c < 704)
    (fun s => (s.l1WriteBack c).1.updCore c (fun k => { k with asleep := true, wakeAt := none, pushTc := later k.pushTc (s.l1WriteBack c).2 }))) ∧
  (∀ c, ActsWhen (.retentionExit c) (fun s => (s.core c).asleep = true ∧ s.mustWake c = true)
    (fun s => s.updCore c (fun k => { k with
      asleep := false, wakeAt := none, l1 := [], dtlb := [], itlb := [], icache := [], idleSince := s.gtb }))) ∧
  ActsWhen .trapRecordPush (fun s => ∃ x ∈ s.trapPushes, s.pushOpen x = true)
    (fun s => match s.trapPushes.find? (fun x => s.pushOpen x) with
      | some x => s.pushTrap x
      | none => s) ∧
  (∀ (s : State) (c p : Nat) (h : Sender),
    (h.id = s.accid → s.fabric.biPending ≠ [] → exec (.settleNotice c p h) s = .next s) ∧
    (h.id ≠ s.accid → s.plat.pkgCfg.getLsbD 63 = false → exec (.settleNotice c p h) s = .next s) ∧
    (h.id ≠ s.accid → s.plat.pkgCfg.getLsbD 63 = true → s.senderOk h.id h.inc = false →
      exec (.settleNotice c p h) s = .next s.addStale) ∧
    ((h.id = s.accid → s.fabric.biPending = []) →
      (h.id ≠ s.accid → s.plat.pkgCfg.getLsbD 63 = true ∧ s.senderOk h.id h.inc = true) →
      exec (.settleNotice c p h) s = .next (if s.hasFibre c p then s.reported c p h.id else s))) ∧
  -- the report ends the fibre's wait for that home, and performs its acquires whose values came from there
  (∀ (s : State) (c p id : Nat), s.hasFibre c p = true → let t := s.reported c p id
    (t.fibre c p).notices = (s.fibre c p).notices.filter (· != id) ∧
    (t.fibre c p).pending.length = (s.fibre c p).pending.length ∧
    (∀ (n : Nat) (x y : Pending), (s.fibre c p).pending[n]? = some x → (t.fibre c p).pending[n]? = some y →
      y = x ∨ y = { x with await := none } ∧ ∃ a, x.await = some a ∧ a.1 = id) ∧ t.mem = s.mem) ∧
  (∀ c t pc, ActsWhen (.controlThreadRestart c t pc)
    (fun s => isControl c = true ∧ c < 704 ∧ t < 8 ∧ (s.die (dieOf c)).dead = false) (fun s => s.startThread c t pc)) ∧
  (∀ (s : State) (c : Nat) (v : Word), 640 ≤ c → exec (.bspartWrite c v) s = .next s) ∧
  (∀ (s : State) (c : Nat) (v : Word), c < 640 → ∃ t, exec (.bspartWrite c v) s = .next t ∧ t.mem = s.mem ∧
    (31 < (v.extractLsb' 0 6).toNat → (t.core c).spadErr = true ∧ (t.core c).spad = (s.core c).spad ∧ t.blocked = s.blocked) ∧
    ((v.extractLsb' 0 6).toNat ≤ 31 → (s.core c).resident = [] → (t.core c).spad = (v.extractLsb' 0 6).toNat ∧ t.blocked = []) ∧
    ((v.extractLsb' 0 6).toNat ≤ 31 → (s.core c).resident ≠ [] →
      (t.core c).spadPend = some (v.extractLsb' 0 6).toNat ∧ (t.core c).spad = (s.core c).spad))

/-- The dispatcher, pre-emption and the package's queues. LOTTERY_DRAW (R162): the queue drawn is open to the draw, and is the first
whose tickets, counted from queue 0, reach past the drawn number, or the lowest where no queue has tickets. CLUSTER_PLACEMENT (R164,
R172), SPAN_READY (R166), BOUND_IDLE_EXPIRY (R167), GRID_END (R168), PRE_CTL (R169, R170; GO while an operation is in progress only sets
ERR), the commands of RQ (R347) and a step of an engine queue (R101).
The model's choice: placement is first fit, and the places of fields within a part of a save record (log entries 48 and 49). -/
def Obligations.DispatchSteps : Prop :=
  (∀ s : State, s.dispatchReady = false → exec .lotteryDraw s = .next s) ∧
  (∀ (s : State) (gid : Nat) (g : Grid), s.dispatchReady = true → s.colocate = some gid → s.grid gid = some g →
    exec .lotteryDraw s = .next (s.sendBatch gid g)) ∧
  (∀ s : State, s.dispatchReady = true → s.colocate = none → let u := s.startSpan
    (u.colocate.isSome ∨ u.draw.2 = none → exec .lotteryDraw s = .next u) ∧
    (∀ q, u.colocate = none → u.draw.2 = some q →
      exec .lotteryDraw s = .next (({ u with regs := { u.regs with lottery := u.draw.1 } } : State).dispatchHead q))) ∧
  (∀ (s : State) (q : Nat), s.draw.2 = some q →
    let open_ (n : Nat) : List Nat := (List.range n).filter (fun i => s.drawable i)
    let tickets (n : Nat) : Nat := ((open_ n).map (fun i => fld (s.tickets i) 0 16)).sum
    q < 256 ∧ s.drawable q = true ∧ s.draw.1 = lotteryStep s.regs.lottery ∧
    (tickets 256 = 0 → ∀ i, i < 256 → s.drawable i = true → q ≤ i) ∧
    (tickets 256 ≠ 0 → tickets q ≤ s.draw.1.toNat % tickets 256 ∧ s.draw.1.toNat % tickets 256 < tickets (q + 1))) ∧
  (∀ (s : State) (d : Nat), exec (.clusterPlacement d) s = .next (match s.preOp with
    | some o => if o.op = 2 ∧ s.batch = none ∧ (s.die d).dead = false ∧ s.plat.pkgCfg.getLsbD 63 = true ∧ s.plat.ckptCut = none then s.restoreStep o d
      else s.placeHead d
    | none => s.placeHead d)) ∧
  (∀ (s : State) (r : SpanRank) (id : BitVec 16),
    (s.plat.pkgCfg.getLsbD 63 = false → exec (.spanReady r id) s = .next s) ∧
    (s.plat.pkgCfg.getLsbD 63 = true → s.senderOk r.sender.id r.sender.inc = false → exec (.spanReady r id) s = .next s.addStale) ∧
    (s.plat.pkgCfg.getLsbD 63 = true → s.senderOk r.sender.id r.sender.inc = true → ∃ l : List (BitVec 16 × Nat), (∀ x, x ∈ l ↔ x = (id, r.rank) ∨ x ∈ s.readies) ∧
      exec (.spanReady r id) s = .next ({ s with readies := l } : State).startSpan)) ∧
  (∀ (s : State) (h : SpanHold) (g : Grid) (r : Nat), s.span = some h → s.grid h.grid = some g → r < Rcd.size g.rcd →
    r ≠ Rcd.rank g.rcd → (h.spanId, r) ∉ s.readies → s.startSpan = s) ∧
  (∀ (s u : State) (lq gid : Nat) (rest : List Nat) (g : Grid) (b : Binding) (h : QueueHead) (ps : List Place),
    AMap.getD s.queues lq [] = gid :: rest → s.grid gid = some g → g.binding = some b →
    s.queueHead (Via.dev s.liveDie) g.ctx .read b.queue = (u, .ok (h, ps)) →
    let out : Prop := b.idle ≠ 0 ∧ b.lastPush.toNat + b.idle.toNat ≤ u.gtb.toNat
    (h.tail ≠ b.tail → exec (.boundIdleExpiry lq) s = .next (u.updGrid gid (fun x => { x with
      binding := some { b with tail := h.tail, lastPush := u.gtb, idleGone := false } }))) ∧
    (h.tail = b.tail → out → exec (.boundIdleExpiry lq) s = .next (u.updGrid gid (fun x => { x with
      binding := some { b with idleGone := true } }))) ∧
    (h.tail = b.tail → ¬ out → exec (.boundIdleExpiry lq) s = .next u)) ∧
  (∀ (s : State) (gid : Nat) (g : Grid), s.grid gid = some g →
    (g.allOut = false ∨ s.gridLives gid = true → exec (.gridEnd gid) s = .next s) ∧
    (g.allOut = true → s.gridLives gid = false → g.ending = none → ∃ t tc, exec (.gridEnd gid) s = .next t ∧
      t.grid gid = some { g with ending := some tc } ∧ s.gtb.toNat ≤ tc.toNat) ∧
    (∀ tc, g.ending = some tc → s.gtb.toNat ≤ tc.toNat → exec (.gridEnd gid) s = .next s) ∧
    (∀ tc, g.allOut = true → s.gridLives gid = false → g.ending = some tc → tc.toNat < s.gtb.toNat →
      let u := s.writeEnd g.ctx g.rcd gid g.status g.losts (g.lostId.getD 0) g.drops
      exec (.gridEnd gid) s = .next { u with grids := AMap.drop u.grids gid, plans := AMap.drop u.plans gid })) ∧
  (∀ v, ActsWhen (.preSave v) (fun _ => flag v 0 = true ∧ fld v 24 4 = 1) (fun s => s.writePre v)) ∧
  (∀ v, ActsWhen (.preRestore v) (fun _ => flag v 0 = true ∧ fld v 24 4 = 2) (fun s => s.writePre v)) ∧
  (∀ v, ActsWhen (.preKill v) (fun _ => flag v 0 = true ∧ fld v 24 4 = 3) (fun s => s.writePre v)) ∧
  (∀ (s : State) (v : Word) (o : PreOp), flag v 0 = true → s.preOp = some o →
    (s.writePre v).plat.preCtl.getLsbD 7 = true ∧ s.writePre v = { s with plat := (s.writePre v).plat }) ∧
  (∀ (s : State) (v : Word), flag v 0 = true → s.preOp = none → fld v 28 2 ≠ 3 → fld v 24 4 = 1 →
    (s.writePre v).preOp = some (preFields v) ∧ (preFields v).ctx ∈ (s.writePre v).suspended) ∧
  ActsWhen .saveRecordWrite (fun s => ∃ o, s.preOp = some o ∧ o.op = 1 ∧ s.saveReady o = true)
    (fun s => match s.preOp with
      | some o => (s.saveAll o).preDone o.ctx
      | none => s) ∧
  (∀ ctx, ActsWhen (.resumeResume ctx) (fun s => s.headAction ctx = some 0 ∨ s.headAction ctx = some 3) (fun s => s.popResume ctx)) ∧
  (∀ ctx, ActsWhen (.resumeEnd ctx) (fun s => s.headAction ctx = some 1) (fun s => s.popResume ctx)) ∧
  (∀ ctx, ActsWhen (.resumeKill ctx) (fun s => s.headAction ctx = some 2) (fun s => s.popResume ctx)) ∧
  (∀ c g q, ActsWhen (.engineCommandComplete c g q) (fun s => (AMap.find (s.core c).groups g).isSome)
    (fun s => s.queueStep c g q)) ∧
  (∀ (s : State) (c g q : Nat) (x : Command) (xs : List Command) (id : Nat) (m : BitVec 7),
    (s.group c g).queues.getD q [] = x :: xs → x.body = .join id m → s.joinOver c g id m = false → s.queueStep c g q = s)

/-- The memory hierarchy's own steps. A lease sweep (R63) keeps every dirty word; bounce decay (R70) lowers each counter by 1, once a
period; a line with a pin, or lent to an L1 of the die, stays in its L2 (R44, R54); fills, write-backs and directory requests (R42, R44, R67); BISnp and BIRsp (R74); the
host's accesses (R388) only over a live link; poison and failed ports (R47); a die's death (R81, R82) tells the host.
The model's choice: the home L2 and memory are one place, and how many packets of a dead die are on their way is free (log entries 14 and 45). -/
def Obligations.MemorySteps : Prop :=
  (∀ c, ActsWhen (.leaseSweep c) (fun s => s.gtb.toNat % 2 ^ 22 = 0 ∧ (AMap.find s.cores c).isSome) (fun s => s.sweepL1 c)) ∧
  (∀ (s : State) (c wn : Nat) (w : CacheWord), s.l1Word c wn = some w → w.mask ≠ 0 → (s.sweepL1 c).l1Word c wn = some w) ∧
  ActsWhen .bounceDecay (fun s => s.gtb.toNat % 65536 = 0 ∧ s.decayed ≠ s.gtb) (fun s => s.decayBounces) ∧
  (∀ (s : State) (d line : Nat) (l : L2Line), AMap.find (s.die d).l2 line = some l →
    ∃ m, AMap.find (s.decayBounces.die d).l2 line = some m ∧ m.bounce = l.bounce - 1 ∧ m.words = l.words) ∧
  (∀ (s : State) (c line : Nat) (dom : Domain),
    let full := (s.core c).asleep = true ∨ s.lineWanted c line = false ∨ s.l2Full (dieOf c) line = true
    (∀ e, lineEntry (s.core c).dtlb line dom = some e → ¬ full → exec (.l1Fill c line dom) s = .next (s.l1Fill c e.ctx dom line)) ∧
    (lineEntry (s.core c).dtlb line dom = none ∨ full → exec (.l1Fill c line dom) s = .next s)) ∧
  (∀ (s : State) (c line : Nat), exec (.writebackArrival c line) s = .next (if s.l1Victim c line = some line then s.l1Evict c line else s) ∧
    (s.l1Line c line = none → s.l1Evict c line = s)) ∧
  (∀ d line, ActsWhen (.l2Eviction d line) (fun s => s.linePinned d line = false ∧ s.lineLent d line = false ∧ 16 ≤ (s.l2SetOf d line).length)
    (fun s => s.l2Evict d line)) ∧
  (∀ (s : State) (d word : Nat) (req : DirReq),
    (∀ l, AMap.find (s.die d).l2 (word / 32) = some l → l.dom.wide = true → homeOf word ≠ d → (s.die d).dead = false →
      exec (.directoryRequest d word req) s = .next (match req, lineEntry (s.die d).tlb (word / 32) l.dom with
        | .read, some e => (s.l2Read d e.ctx l.dom word).1
        | .own, some e => if s.poisonWord d word then s else (s.obtainM d l.dom e.ctx word).1
        | .read, none => s
        | .own, none => s
        | .invalidate, _ => (s.homeInvalidate none word).1
        | .forward, _ => (s.homeRead none word).1)) ∧
    (AMap.find (s.die d).l2 (word / 32) = none → exec (.directoryRequest d word req) s = .next s)) ∧
  -- once a die has ownership, the directory says so, and its L2 holds the word whole
  (∀ (s : State) (d word : Nat) (dom : Domain) (ctx : BitVec 12),
    let t := (s.obtainM d dom ctx word).1
    t.dirWord word = { sharers := [], owner := some (d, .M) } ∧
    (t.l2Word d word).map (fun x => x.st) = some .M ∧ (t.l2Word d word).map (fun x => x.value) = some (s.obtainM d dom ctx word).2.1) ∧
  -- a BISnp: the line leaves the L2, the answer waits for every lease on it, and no read in flight leaves a copy
  (∀ (s : State) (line : Nat) (home : Sender), let locked : Bool := s.plat.pkgCfg.getLsbD 63
    (locked = false → exec (.bisnpReceipt line home) s = .next s) ∧
    (locked = true → s.senderOk home.id home.inc = false → exec (.bisnpReceipt line home) s = .next s.addStale) ∧
    (locked = true → s.senderOk home.id home.inc = true → ∃ (u : State) (w : Word), exec (.bisnpReceipt line home) s = .next u ∧
      u.fabric.biOwed = s.fabric.biOwed ++ [(home.id, line, w)] ∧ u.mem = s.mem ∧ s.gtb.toNat ≤ w.toNat ∧
      (∀ x ∈ s.fabric.copies, x.home = home.id → x.line = line → ∀ e ∈ x.leases, e.2.toNat ≤ w.toNat) ∧
      (∀ x ∈ u.fabric.copies, x.home = home.id → x.line = line → x.inL2 = false) ∧
      (∀ x ∈ s.fabric.copies, ¬ (x.home = home.id ∧ x.line = line) → x ∈ u.fabric.copies) ∧
      (∀ x ∈ u.fabric.send, x.1 / 16 = home.id → ∀ r ∈ x.2.sent, r.keep = false))) ∧
  (∀ (s : State) (line : Nat) (holder : Sender), ∃ ls : List Nat,
    (∀ x, x ∈ ls ↔ x ∈ s.plat.hostLines ∧ ¬ (holder.id = hostHolder ∧ x = line)) ∧
    exec (.birspReceipt line holder) s = .next (
      if holder.id ≠ hostHolder ∧ s.plat.pkgCfg.getLsbD 63 = false then s
      else if holder.id = hostHolder ∨ s.senderOk holder.id holder.inc = true then { s with
        fabric := { s.fabric with biPending := s.fabric.biPending.erase (line, holder.id) },
        plat := { s.plat with hostLines := ls } }
      else s.addStale)) ∧
  (∀ (s : State) (pa : Nat) (bs : List Byte),
    let own : Prop := 0x100000000000 ≤ pa ∧ pa + bs.length - 1 < 0x200000000000
    (¬ own → s.linkOk = false ∨ 0x010000000000 < pa + bs.length → exec (.hostMemoryAccess pa (some bs)) s = .next s) ∧
    (own ∨ s.linkOk = true ∧ pa + bs.length ≤ 0x010000000000 →
      exec (.hostMemoryAccess pa (some bs)) s = .next ((bs.zip (List.range bs.length)).foldl (fun t x => t.hostPut (pa + x.2) x.1) s))) ∧
  (∀ (s : State) (pa : Nat),
    let own : Prop := 0x100000000000 ≤ pa ∧ pa + 63 < 0x200000000000
    (¬ own → s.linkOk = false ∨ 0x010000000000 < pa + 64 → exec (.hostMemoryAccess pa none) s = .next s) ∧
    (own ∨ s.linkOk = true ∧ pa + 64 ≤ 0x010000000000 →
      let t := if s.hostLine (pa / 128) then (s.devRead (pa / 64 * 64) 64).1 else s
      exec (.hostMemoryAccess pa none) s = .next t ∨
      exec (.hostMemoryAccess pa none) s = .next { t with plat := { t.plat with hostLines := insertPlace t.plat.hostLines (pa / 128) } })) ∧
  (∀ (s : State) (line : Nat) (port : Bool),
    (inSecond (line * 128) = false → exec (.poisonedRead line port) s = .next s) ∧
    (inSecond (line * 128) = true → ∃ t, exec (.poisonedRead line port) s = .next t ∧ t.mem = s.mem ∧
      (port = false → line ∈ t.plat.poisoned ∧ t.plat.failedPorts = s.plat.failedPorts) ∧
      (port = true → (line * 128 - 0x010000000000) / 4096 % 16 ∈ t.plat.failedPorts ∧ t.plat.poisoned = s.plat.poisoned))) ∧
  (∀ (s : State) (d : Nat),
    (4 ≤ d ∨ (s.die d).dead = true → exec (.dieDeath d) s = .next s) ∧
    (d < 4 → (s.die d).dead = false → ∃ t, exec (.dieDeath d) s = .next t ∧
      (t.plat.masked.getLsbD 4 = false → { vector := 4, words := [wd d] } ∈ t.messages) ∧
      (t.plat.masked.getLsbD 4 = true → t.plat.msixPending.getLsbD 4 = true)))

/-- Pages. PAGE_WALK (R11), fault records (R340), shootdowns (R35, R36), replay by page and by token (R341), the watchdog (R343),
moves between the tiers (R50, R51, R53), copy on write and the engines of VPUB and VRECL (R116, R118 to R124).
The model's choice: the order of pages, and what a peer's request tells of its issuer (log entries 43, 44 and 77). -/
def Obligations.PageSteps : Prop :=
  (∀ d ctx va, ActsWhen (.pageWalk d ctx va) (fun s => va.extractLsb' 57 7 = 0 ∧ s.recordValid ctx = true)
    (fun s => (s.translateDie d ctx va.toNat).1)) ∧
  (∀ (s : State) (r : List Word) (rs : List (List Word)), s.records2 = r :: rs →
    let pa := fld s.plat.fbuf 6 46 * 64
    let u := (s.ringPut pa r).1
    ((s.ringPut pa r).2 = false → exec .faultRecordWrite s = .next u) ∧
    ((s.ringPut pa r).2 = true → exec .faultRecordWrite s = .next (
      if (s.ring pa).2.held = 0 then ({ u with records2 := rs } : State).sendHost 1 [] else { u with records2 := rs }))) ∧
  (∀ s : State, s.records2 = [] → exec .faultRecordWrite s = .next s) ∧
  (∀ v, ActsWhen (.shootdown v) (fun _ => v.getLsbD 0 = true) (fun s => s.writeShoot v)) ∧
  -- GO while BUSY does nothing but set ERR
  (∀ (s : State) (v : Word), v.getLsbD 0 = true → s.plat.shootCtl.getLsbD 6 = true →
    s.writeShoot v = { s with plat := { s.plat with shootCtl := s.plat.shootCtl ||| 0x80 } }) ∧
  (∀ s : State, s.plat.shooting = none → exec .shootdownComplete s = .next s) ∧
  (∀ (s : State) (va ctl : Word) (ds : List Nat), s.plat.shooting = some (va, ctl, ds) → ∃ t, exec .shootdownComplete s = .next t ∧
    t.plat.shooting = none ∧ t.plat.shootCtl.getLsbD 6 = false) ∧
  (∀ (s : State) (d : Nat) (va ctl : Word) (e : TlbEntry), shootCovers va ctl e = true →
    e ∉ ((s.shootDie d va ctl).die d).tlb ∧ ∀ k ∈ (s.shootDie d va ctl).cores, dieOf k.1 = d → e ∉ k.2.dtlb ∧ e ∉ k.2.itlb) ∧
  (∀ v, ActsWhen (.replayPage v) (fun _ => flag v 0 = true ∧ fld v 1 2 = 0) (fun s => s.writeReplay v)) ∧
  (∀ v, ActsWhen (.replayToken v) (fun _ => flag v 0 = true ∧ fld v 1 2 = 1) (fun s => s.writeReplay v)) ∧
  (∀ v, ActsWhen (.replayExhaustedPage v) (fun _ => flag v 0 = true ∧ fld v 1 2 = 2) (fun s => s.writeReplay v)) ∧
  (∀ v, ActsWhen (.replayExhaustedToken v) (fun _ => flag v 0 = true ∧ fld v 1 2 = 3) (fun s => s.writeReplay v)) ∧
  -- a replay takes entries of its context and page only
  (∀ (s : State) (va ctl : Word), ∀ x ∈ s.replayed va ctl, AMap.find (s.die x.1).wait x.2.1 = some x.2.2 ∨
    (x.2.1, x.2.2) ∈ (s.die x.1).wait) ∧
  (∀ (s : State) (va ctl : Word), ∀ x ∈ s.replayed va ctl, x.2.2.kind ≠ .queue ∧ x.2.2.ctx = ctl.extractLsb' 40 12 ∧
    x.2.2.key = va &&& 0x01FFFFFFFFFF0000) ∧
  (∀ (s : State) (d i : Nat) (e : WaitEntry), AMap.find (s.die d).wait i = some e →
    let due : Prop := s.plat.faultWd ≠ 0 ∧ (e.kind = .fault ∨ e.kind = .version) ∧ e.waiters ≠ [] ∧
      e.time.toNat + s.plat.faultWd.toNat ≤ s.gtb.toNat
    (due → exec (.faultWatchdog d i) s = .next (s.failEntry d i e .watchdog)) ∧
    (¬ due → exec (.faultWatchdog d i) s = .next s)) ∧
  (∀ (s : State) (seq : Nat) (second : Bool) (rest : List (Nat × Bool)) (h : Handle), s.move = none →
    s.moves = (seq, second) :: rest → s.handles.find? (fun x => x.seq == seq) = some h → h.second ≠ second →
    exec .moveStart s = .next (s.beginMove h second)) ∧
  (∀ s : State, s.move.isSome ∨ s.moves = [] → exec .moveStart s = .next s) ∧
  (∀ (s : State) (m : Move) (h : Handle), s.move = some m → s.handles.find? (fun x => x.seq == m.seq) = some h → m.old = none →
    m.held = none → h.pages ≤ m.done → ∃ t, exec .movePage s = .next t ∧ t.move = none ∧ t.mem = s.mem ∧
      ∀ x ∈ t.handles, x.seq = m.seq → x.second = m.toSecond) ∧
  (∀ (s : State) (m : Move) (h : Handle) (p : Nat) (tc : Word), s.move = some m → s.handles.find? (fun x => x.seq == m.seq) = some h →
    m.old = none → m.held = some (p, tc) → exec .movePage s = .next (
      if tc.toNat < s.gtb.toNat ∧ s.fabric.biPending = [] then s.shiftPage m h p else s)) ∧
  (∀ (s : State) (d i : Nat) (e : WaitEntry), AMap.find (s.die d).wait i = some e →
    (e.kind ≠ .version → exec (.copyOnWrite d i) s = .next s) ∧
    (∀ tc, e.kind = .version → e.till = some tc → exec (.copyOnWrite d i) s = .next (
      if tc.toNat < s.gtb.toNat then s.finishCopy d i e else s)) ∧
    (e.kind = .version → e.till = none → exec (.copyOnWrite d i) s = .next (
      if e.cause = .notPresent then s.startCopy d i e else s))) ∧
  (∀ (s : State) (ctx : BitVec 12) (r : BitVec 4) (x : SnapOp),
    (s.die (r.toNat % 4)).snaps.find? (fun y => y.ctx == ctx && y.region == r.toNat && y.page.isNone) = some x →
    let t := s.versionWords (r.toNat % 4) ctx r.toNat
    (s.vpubSettled x t = true →
      exec (.vpubComplete ctx r) s = .next ((s.switchDies ctx r.toNat t (List.range 4)).snapDone (r.toNat % 4) x)) ∧
    (s.vpubSettled x t = false → ∃ ds, exec (.vpubComplete ctx r) s = .next (s.switchDies ctx r.toNat t ds))) ∧
  (∀ (s : State) (ctx : BitVec 12) (r : BitVec 4) (x : SnapOp) (p : Nat),
    (s.die (r.toNat % 4)).snaps.find? (fun y => y.ctx == ctx && y.region == r.toNat && y.page.isSome) = some x → x.page = some p →
    (∀ tc fs wake, x.freed = some (tc, fs, wake) →
      exec (.vreclPageVisit ctx r) s = .next (s.leavePage (r.toNat % 4) x p tc fs wake)) ∧
    (x.freed = none → exec (.vreclPageVisit ctx r) s = .next (
      if VersionEntry.pages (s.versionWords (r.toNat % 4) ctx r.toNat) ≤ p then s.snapDone (r.toNat % 4) x
      else s.visitPage (r.toNat % 4) x p)))

/-- The fabric. The recovery timer (R77): a request that has waited FAB_RTO stops its plane, one count of resends, and after FAB_RTO more
the plane's requests go out again. A request or response from a sender that R79 does not accept is dropped and counted, and so is a
duplicate (R78); PEER_TIMEOUT and writes of the peer table declare peers dead and readmit them (R80); planes and their steering
(R75, R76); FAB_RTO takes values from 1,000 to 4,000,000 only; a counter write clears its counter.
The model's choice: packets are entries of the send windows, and what they carry of their issuer (log entries 46, 47 and 77). -/
def Obligations.FabricSteps : Prop :=
  (∀ (s : State) (p : Nat), p < 16 → AMap.getD s.fabric.timers p .idle = .idle →
    let due : Prop := ∃ w ∈ s.fabric.send, w.1 % 16 = p ∧ ∃ r ∈ w.2.sent, r.sent.toNat + s.fabric.rto.toNat ≤ s.gtb.toNat
    (¬ due → exec (.recoveryTimer p) s = .next s) ∧
    (due → exec (.recoveryTimer p) s = .next { s with fabric := { s.fabric with
      timers := AMap.put s.fabric.timers p (.stopped s.gtb),
      resends := wd (min (2 ^ 64 - 1) (s.fabric.resends.toNat + 1)) } })) ∧
  (∀ (s : State) (p : Nat) (since : Word), AMap.getD s.fabric.timers p .idle = .stopped since →
    (s.gtb.toNat < since.toNat + s.fabric.rto.toNat → exec (.recoveryTimer p) s = .next s) ∧
    (since.toNat + s.fabric.rto.toNat ≤ s.gtb.toNat → ∃ t, exec (.recoveryTimer p) s = .next t ∧
      t.fabric.timers = AMap.drop s.fabric.timers p ∧ t.mem = s.mem ∧
      ∀ w ∈ t.fabric.send, w.1 % 16 = p → ∀ r ∈ w.2.sent, r.sent = s.gtb)) ∧
  (∀ (s : State) (k : FabricRequest),
    let d := (k.tag - ((AMap.find s.fabric.recv (16 * k.src + k.plane)).map (fun x => if x.inc = k.inc then x.n else 0xFFFF)).getD 0xFFFF).toNat
    (s.plat.pkgCfg.getLsbD 63 = false → exec (.fabricRequestArrival k) s = .next s) ∧
    (s.plat.pkgCfg.getLsbD 63 = true → s.senderOk k.src k.inc = false ∨ opOk k.op = false →
      exec (.fabricRequestArrival k) s = .next s.addStale) ∧
    (s.plat.pkgCfg.getLsbD 63 = true → s.senderOk k.src k.inc = true → opOk k.op = true → d = 0 ∨ 2 ^ 16 - 511 ≤ d →
      ∃ t, exec (.fabricRequestArrival k) s = .next t ∧ t.mem = s.mem ∧
        t.fabric.dupDrops = wd (min (2 ^ 64 - 1) (s.fabric.dupDrops.toNat + 1))) ∧
    (s.plat.pkgCfg.getLsbD 63 = true → s.senderOk k.src k.inc = true → opOk k.op = true → 256 < d → d < 2 ^ 16 - 511 →
      ∃ t, exec (.fabricRequestArrival k) s = .next t ∧ t.mem = s.mem ∧
        t.fabric.staleDrops = wd (min (2 ^ 64 - 1) (s.fabric.staleDrops.toNat + 1))) ∧
    (s.plat.pkgCfg.getLsbD 63 = true → s.senderOk k.src k.inc = true → opOk k.op = true → 0 < d → d ≤ 256 →
      ∃ t, exec (.fabricRequestArrival k) s = .next t)) ∧
  -- the requests that a package answers: 1 to 128 bytes, an atomic of 4 or 8
  (∀ (va a b : Word) (n : Nat) (data : List Byte) (on : List Bool) (sz : Sz) (u : Aop) (v : Bool),
    (opOk (.read va n) = true ↔ 1 ≤ n ∧ n ≤ 128) ∧
    (opOk (.write va data on) = true ↔ 1 ≤ data.length ∧ data.length ≤ 128 ∧ on.length = data.length) ∧
    (opOk (.atomic va sz u a v) = true ↔ sz = .b4 ∨ sz = .b8) ∧ (opOk (.cas va sz a b) = true ↔ sz = .b4 ∨ sz = .b8) ∧
    opOk .unsupported = false) ∧
  (∀ (s : State) (k : FabricResponse),
    (s.plat.pkgCfg.getLsbD 63 = false → exec (.fabricResponseArrival k) s = .next s) ∧
    (s.plat.pkgCfg.getLsbD 63 = true → s.senderOk k.src k.inc = false → exec (.fabricResponseArrival k) s = .next s.addStale) ∧
    (s.plat.pkgCfg.getLsbD 63 = true → s.senderOk k.src k.inc = true →
      (∀ d i x, k.ans ≠ .replay d i x) → (s.sendWindow k.src k.plane).sent.find? (fun r => r.tag == k.tag) = none → exec (.fabricResponseArrival k) s = .next s) ∧
    (∀ d i x, k.ans = .replay d i x → s.plat.pkgCfg.getLsbD 63 = true → s.senderOk k.src k.inc = true →
      exec (.fabricResponseArrival k) s = .next (s.carriedReplay d i x)) ∧
    (∀ r, s.plat.pkgCfg.getLsbD 63 = true → s.senderOk k.src k.inc = true → (∀ d i x, k.ans ≠ .replay d i x) →
      (s.sendWindow k.src k.plane).sent.find? (fun x => x.tag == k.tag) = some r →
      let w := s.sendWindow k.src k.plane
      exec (.fabricResponseArrival k) s = .next (({ s with fabric := { s.fabric with
        send := AMap.put s.fabric.send (16 * k.src + k.plane) { w with sent := w.sent.filter (fun x => x.tag != k.tag) } } }
        : State).answered k.src k.plane r k.ans))) ∧
  (∀ (s : State) (id : Nat),
    let due : Prop := (s.peerEntry id).getLsbD 17 = false ∧
      ∃ w ∈ s.fabric.send, w.1 / 16 = id ∧ ∃ r ∈ w.2.sent, r.since.toNat + s.regs.peerTimeout ≤ s.gtb.toNat
    (¬ due → exec (.peerTimeoutDeclaration id) s = .next s) ∧
    (due → exec (.peerTimeoutDeclaration id) s = .next (s.declareDead id ((s.peerEntry id).extractLsb' 0 16).toNat))) ∧
  -- the host is told of a peer declared dead
  (∀ (s : State) (id inc : Nat), (s.declareDead id inc).plat.masked.getLsbD 4 = false →
    { vector := 4, words := [wd id] } ∈ (s.declareDead id inc).messages) ∧
  (∀ n, ActsWhen (.planeDown n) (fun _ => n < 16)
    (fun s => ({ s with fabric := { s.fabric with down := s.fabric.down ||| BitVec.ofNat 16 (2 ^ n) } } : State).steerDown)) ∧
  (∀ n, ActsWhen (.planeUp n) (fun _ => n < 16)
    (fun s => ({ s with fabric := { s.fabric with down := s.fabric.down &&& ~~~ BitVec.ofNat 16 (2 ^ n) } } : State).steerDown)) ∧
  (∀ (s : State) (v : Word), ∃ t, exec (.planeSteerWrite v) s = .next t ∧
    t = { s with fabric := { s.fabric with steer := t.fabric.steer } } ∧
    ∀ p, p < 16 → t.fabric.steer.extractLsb' (4 * p) 4 =
      if s.drained p = true ∧ s.fabric.down.getLsbD (v.extractLsb' (4 * p) 4).toNat = false then v.extractLsb' (4 * p) 4
      else s.fabric.steer.extractLsb' (4 * p) 4) ∧
  (∀ (s : State) (v : Word), exec (.planeQuiesceWrite v) s = .next { s with fabric := { s.fabric with quiesce := v.setWidth 16 } }) ∧
  (∀ id v, ActsWhen (.peerDeclareDead id v) (fun _ => v.getLsbD 17 = true ∧ id < 1024) (fun s => s.writePeer id v)) ∧
  (∀ id v, ActsWhen (.peerReadmit id v) (fun _ => v.getLsbD 17 = false ∧ id < 1024) (fun s => s.writePeer id v)) ∧
  (∀ (s : State) (id : Nat) (v : Word), v.getLsbD 17 = false →
    (id = s.accid → s.writePeer id v = s) ∧
    (id ≠ s.accid → (s.writePeer id v).peerEntry id = (v.extractLsb' 0 18).setWidth 64 ∧ (s.writePeer id v).mem = s.mem ∧
      ((s.peerEntry id).getLsbD 17 = true → ∀ w ∈ (s.writePeer id v).fabric.send, w.1 / 16 ≠ id))) ∧
  (∀ (s : State) (v : Word), ∃ t, exec (.fabRtoWrite v) s = .next t ∧ t = { s with fabric := t.fabric } ∧
    let x := v.setWidth 32
    (1000 ≤ x.toNat ∧ x.toNat ≤ 4000000 → t.fabric = { s.fabric with rto := x, rtoErr := s.fabric.rtoErr && !v.getLsbD 63 }) ∧
    (¬ (1000 ≤ x.toNat ∧ x.toNat ≤ 4000000) → t.fabric = { s.fabric with rtoErr := true })) ∧
  (∀ s : State, exec (.fabricCounterClear 0) s = .next { s with fabric := { s.fabric with staleDrops := 0 } } ∧
    exec (.fabricCounterClear 1) s = .next { s with fabric := { s.fabric with dupDrops := 0 } } ∧
    exec (.fabricCounterClear 2) s = .next { s with fabric := { s.fabric with resends := 0 } } ∧
    exec (.fabricCounterClear 3) s = .next { s with fabric := { s.fabric with biSent := 0 } })

/-- Graphics and the platform. Submissions and occlusion records (R357, R359), a lost raster link, an Adam step of 16,384 samples (R362),
slot registers (R360), a failing traversal unit; PKG_CFG (R387: LOCK keeps it), islands (R392, R393), images (R396), attestation (R397),
restore (R399), link training (R388), a package reset, and a write of the control block (R386), of which reserved offsets take nothing.
The model's choice: signatures, certificates and an Adam step are free functions; islands, boot, restore, reset and interrupt masks where R386 to R399 are silent (log entries 4, 11, 12, 50, 51, 52, 53, 54 and 85). -/
def Obligations.PlatformSteps : Prop :=
  (∀ (s : State) (d : Nat) (x : Submission), s.subs.find? (fun y => y.id == x.id) = some x →
    let turn : Prop := (s.subs.find? (fun y => (y.ctx == x.ctx && y.target == x.target || y.pa == x.pa) && decide (d ∈ y.todo))).map (fun y => y.id) = some x.id ∧
      ∀ y, s.commandOf x.issuer.1 x.issuer.2.1 x.issuer.2.2 = some y → y.paused = none
    (turn → exec (.rsubConsume d x.id) s = .next (s.consume d x)) ∧ (¬ turn → exec (.rsubConsume d x.id) s = .next s)) ∧
  (∀ (s : State) (x : Submission), s.subs.find? (fun y => y.id == x.id) = some x →
    let rest (t : State) : State := (t.updSub x.id (fun y => { y with pushed := true })).settleSub x.id
    let late (t : State) : Prop := ∃ u, exec (.occlusionRecord x.id) s = .next u ∧ u.subs = t.subs ∧ u.mem = t.mem
    let dropped (t : State) : Prop := match t.oqDrop s.liveDie x with
      | (u, some (.park _ _ _)) => late u
      | (u, some .wait) => exec (.occlusionRecord x.id) s = .next u
      | (u, _) => exec (.occlusionRecord x.id) s = .next (rest u)
    (x.pushed = true ∨ x.todo ≠ [] ∨ primOf x.verts < 2 ^ 31 → exec (.occlusionRecord x.id) s = .next s) ∧
    (x.pushed = false → x.todo = [] → 2 ^ 31 ≤ primOf x.verts → wd (targetOf_ x.desc).oq = 0 → dropped s) ∧
    (x.pushed = false → x.todo = [] → 2 ^ 31 ≤ primOf x.verts → wd (targetOf_ x.desc).oq ≠ 0 →
      let push := s.queuePush (Via.dev s.liveDie) x.ctx (wd (targetOf_ x.desc).oq) (fun n =>
        if n = 2 then .ok [wd (primOf x.verts + x.seq.toNat * 2 ^ 32), wd x.count] else .error { code := .queueFault, info0 := 0, info1 := 0 })
      (∀ t ws tc h, push = .done t ws tc h → exec (.occlusionRecord x.id) s = .next (rest t)) ∧
      (∀ t h, push = .blocked t h → dropped t) ∧ (∀ t w, push = .stop t (.trap w) → dropped t) ∧
      (∀ t kind key va, push = .stop t (.park kind key va) → late t) ∧
      (∀ t, push = .stop t .wait → exec (.occlusionRecord x.id) s = .next t))) ∧
  (∀ (s : State) (ctx : BitVec 12) (target : Word), exec (.rasterLinkLoss ctx target) s = .next (s.abortFrame ctx target)) ∧
  (∀ (s : State) (n : Nat),
    let x := s.net n
    let idle : Prop := 2 ≤ n ∨ x.reg.getLsbD 15 = false ∨ x.loaded = false ∨ (s.die (x.reg.extractLsb' 12 2).toNat).dead = true
    (idle → exec (.adamStep n) s = .next s) ∧
    (¬ idle → x.run = none → x.queue.length < 16384 → exec (.adamStep n) s = .next s) ∧
    (¬ idle → n < s.nets.length → ∃ t, exec (.adamStep n) s = .next t ∧ t = { s with nets := t.nets } ∧
      (t.net n).replicas = x.replicas ∧ (∀ m, m ≠ n → t.net m = s.net m) ∧
      -- a step begins on 16,384 samples, which leave the queue then or at its end
      (x.run = none → 16384 ≤ x.queue.length → (t.net n).steps = x.steps ∧ (t.net n).master = x.master ∧
        ∃ b, (t.net n).run = some (x.adam, b) ∧
          (b = [] ∧ (t.net n).queue = x.queue ∨ b = x.queue.take 16384 ∧ (t.net n).queue = x.queue.drop 16384)) ∧
      (∀ a b, x.run = some (a, b) → (t.net n).run = none ∧ (t.net n).steps = x.steps + 1 ∧
        (t.net n).queue = if b = [] then x.queue.drop 16384 else x.queue))) ∧
  (∀ (s : State) (n : Nat) (v : Word), (2 ≤ n → exec (.rcSlotWrite n v) s = .next s) ∧
    (n < 2 → n < s.nets.length → ∃ t, exec (.rcSlotWrite n v) s = .next t ∧ t = { s with nets := t.nets } ∧
      (t.net n).reg = v &&& 0x000FFFFFFFFFBFFF ∧ (t.net n).queue = (s.net n).queue ∧ ∀ m, m ≠ n → t.net m = s.net m)) ∧
  (∀ (s : State) (d u : Nat), (4 ≤ d ∨ 8 ≤ u → exec (.traversalUnitError d u) s = .next s) ∧
    (d < 4 → u < 8 → ∃ t, exec (.traversalUnitError d u) s = .next t ∧ t = { s with cores := t.cores } ∧
      (∀ c, dieOf c ≠ d → t.core c = s.core c) ∧
      ∀ c p, t.fibre c p = s.fibre c p ∨ t.fibre c p = (s.fibre c p).failQuery)) ∧
  (∀ (s : State) (v : Word), (s.plat.pkgCfg.getLsbD 63 = true → exec (.pkgCfgWrite v) s = .next s) ∧
    (s.linkOk = false → exec (.pkgCfgWrite v) s = .next s) ∧
    (s.linkOk = true → s.plat.pkgCfg.getLsbD 63 = false → (v.extractLsb' 16 2) ≠ 3 →
      exec (.pkgCfgWrite v) s = .next { s with plat := { s.plat with pkgCfg := v &&& 0x8000FFFF000303FF } })) ∧
  (∀ (s : State) (i : Nat),
    let st := ((s.island i).extractLsb' 8 2).toNat
    let off (w : Word) : State := { s with plat := { s.plat with
      islands := AMap.put s.plat.islands i w, wakeQueue := s.plat.wakeQueue.filter (fun x => x.1 != i) } }
    let word (w : Word) : State := { s with plat := { s.plat with islands := AMap.put s.plat.islands i w } }
    (256 ≤ i → exec (.islandOff i) s = .next s ∧ exec (.islandOn i) s = .next s) ∧
    (160 ≤ i → i < 256 → (st ≠ 3 → exec (.islandOff i) s = .next (word (s.island i ||| 2))) ∧
      exec (.islandOn i) s = .next (word (s.island i ||| 2)) ∧
      ∀ v : Word, s.writeIsland i v = word (if v.getLsbD 1 then s.island i &&& ~~~ 2 else s.island i ||| 2)) ∧
    (i < 160 → (st = 0 → exec (.islandOff i) s = .next s) ∧ (st = 1 ∨ st = 2 → exec (.islandOff i) s = .next (off 0x300)) ∧
      (st = 3 → exec (.islandOff i) s = .next (s.powerOff i)) ∧
      (st = 0 ∨ st = 3 ∧ AMap.find s.plat.admitted i = none → ∃ q, exec (.islandOn i) s = .next { word 0x201 with plat := { (word 0x201).plat with wakeQueue := q } } ∧
        (i, s.gtb) ∈ q ∧ ∀ x ∈ s.plat.wakeQueue, x ∈ q) ∧
      (st = 1 ∨ st = 2 → exec (.islandOn i) s = .next s) ∧
      (st = 3 → AMap.find s.plat.admitted i ≠ none → exec (.islandOn i) s = .next (word 0x101)))) ∧
  (∀ (s : State) (i : Nat) (at_ : Word) (q : List (Nat × Word)), s.plat.wakeQueue = (i, at_) :: q →
    (s.gtb.toNat < s.plat.lastAdmit.toNat + s.regs.stagger → exec .islandAdmission s = .next s) ∧
    (s.plat.lastAdmit.toNat + s.regs.stagger ≤ s.gtb.toNat → ∃ t, exec .islandAdmission s = .next t ∧ t.island i = 0x101 ∧
      t.plat.wakeQueue = q ∧ t.plat.lastAdmit = s.gtb ∧ t.blocked = s.blocked ∧ t.mem = s.mem ∧ ∀ j, j ≠ i → t.island j = s.island j)) ∧
  (∀ s : State, s.plat.wakeQueue = [] → exec .islandAdmission s = .next s) ∧
  (∀ v, ActsWhen (.imgGo v) (fun s => v.getLsbD 0 = true ∧ s.linkOk = true) (fun s => s.writeImgCtl .host v)) ∧
  (∀ (s : State) (v : Word), s.linkOk = true → s.plat.stage = 1 → v.getLsbD 0 = true → s.plat.imgCtl.getLsbD 1 = false →
    ∃ t, exec (.imgGo v) s = .next t ∧ t.plat.stage = 2 ∧ t.plat.imgCtl.getLsbD 1 = true ∧
      t.plat.imgCtl.extractLsb' 32 32 = v.extractLsb' 32 32) ∧
  (∀ s : State, (s.plat.stage = 3 → ∃ t, exec .imageVerified s = .next t ∧ t.plat.stage = 4) ∧
    (s.plat.stage ≠ 3 → s.plat.imgCtl.getLsbD 1 = false → exec .imageVerified s = .next s) ∧
    (s.plat.stage = 2 → s.plat.imgCtl.getLsbD 1 = true → s.imgSizeOk = false ∨ s.imgChecks.2 = false →
      ∃ t, exec .imageVerified s = .next t ∧ t.plat.stage = 0xFF ∧ t.mem = s.mem) ∧
    (s.plat.stage = 2 → s.plat.imgCtl.getLsbD 1 = true → s.imgSizeOk = true → s.imgChecks.2 = true →
      ∃ t, exec .imageVerified s = .next t ∧ t.plat.stage = 3)) ∧
  -- an image that is accepted: both keys are those of the slot it names, which is not revoked; both signatures hold; its version is not too low
  (∀ s : State,
    let at_ (off n : Nat) : List Byte := s.devBytes (s.plat.imgBase.toNat + off) n
    let slot : Nat := numOf (at_ 12 4)
    let signed : List Byte := at_ 0 480 ++ at_ 20480 (numOf (at_ 24 8))
    (s.imgChecks.2 = true ↔ s.imgHeaderOk = true ∧ Config.keyRevoked.getD slot true = false ∧ s.plat.fusedSvn.toNat ≤ numOf (at_ 16 4) ∧
      Config.sha384 (at_ 48 384) = Config.keyHash slot 0 ∧ Config.sha384 (at_ 432 48) = Config.keyHash slot 1 ∧
      Config.rsaVerifies (at_ 48 384) (at_ 480 384) signed = true ∧ Config.slhVerifies (at_ 432 48) (at_ 4096 16224) signed = true)) ∧
  (∀ v, ActsWhen (.attGo v) (fun s => v.getLsbD 0 = true ∧ s.linkOk = true ∧ s.plat.attCtl.getLsbD 1 = false)
    (fun s => { s with plat := { s.plat with attCtl := s.plat.attCtl ||| 2 } })) ∧
  (∀ s : State, (s.plat.attCtl.getLsbD 1 = false → exec .attestationReportWritten s = .next s) ∧
    (s.plat.attCtl.getLsbD 1 = true → s.plat.stage ≠ 4 →
      exec .attestationReportWritten s = .next { s with plat := { s.plat with attCtl := 0x200 } }) ∧
    (s.plat.attCtl.getLsbD 1 = true → s.plat.stage = 4 → s.linkOk = false →
      exec .attestationReportWritten s = .next { s with plat := { s.plat with attCtl := 0x100 } }) ∧
    (s.plat.attCtl.getLsbD 1 = true → s.plat.stage = 4 → s.linkOk = true → inHost s.plat.attBase.toNat = true →
      inHost (s.plat.attBase.toNat + 32767) = true →
      let t := s.devPutBytes s.plat.attBase.toNat s.report
      exec .attestationReportWritten s = .next { t with plat := { t.plat with attCtl := 0 } })) ∧
  (∀ v, ActsWhen (.ckptRestore v) (fun _ => v.getLsbD 0 = true) (fun s => s.writeCkpt v)) ∧
  (∀ s : State, s.plat.ckptCut = none → exec .checkpointCutComplete s = .next s) ∧
  -- the cut: the write-backs, then word after word of the kept frames
  (∀ (s : State) (c n p tc : Nat) (o : OwnOp) (ls : List Nat), s.plat.ckptCut = some (c, n, p) → (s.ferry c n).hold = .accept tc (.ckpt o) ls →
    let l : Lane := { c := c, p := p, n := n, pos := (s.ferry c n).pos, pc := (s.ferry c n).pc }
    (s.plat.cutRun = none → (ckptStatus o l s).1 = 0 →
      exec .checkpointCutComplete s = .next (s.startCut (((l.reg s o.a).extractLsb' 12 40).toNat * 4096) (ckptStatus o l s).2)) ∧
    (∀ x, s.plat.cutRun = some x → x.left ≠ [] → exec .checkpointCutComplete s = .next (s.copyCut x))) ∧
  (∀ (s : State) (x : CutRun), x.left ≠ [] → ∃ k i t, k ∈ x.left ∧ t.plat.cutRun = some { x with pos := AMap.put x.pos k (AMap.getD x.pos k 0 + 1) } ∧
    s.copyCut x = t ∧ i = AMap.getD x.pos k 0 ∧
    let off : Nat := 4096 * k + 4 * (i % 1024)
    let r := s.devRead (x.frames.getD (i / 1024) 0 * 65536 + off) 4
    t.mem = (r.1.devWrite (s.spareFrom + i / 1024 * 65536 + off) 4 r.2).mem) ∧
  (∀ s : State, s.plat.ckptRestore = false → exec .checkpointRestoreComplete s = .next s) ∧
  (∀ s : State, s.plat.ckptRestore = true → ∃ t, exec .checkpointRestoreComplete s = .next t ∧ t.plat.ckptRestore = false ∧
    t.plat.ckptCtl.getLsbD 3 = false ∧
    (s.manifestOk (fld s.plat.ckptCtl 12 40 * 4096) = false → t.mem = s.mem ∧ t.plat.bootCode = 0x19 ∧
      t.plat.ckptCtl.extractLsb' 4 8 = 0x19)) ∧
  (∀ (s : State) (up : BitVec 8), (s.plat.trained = true → exec (.ucieLinkTraining up) s = .next s) ∧
    (s.plat.trained = false → ∃ t, exec (.ucieLinkTraining up) s = .next t ∧ t.plat.linkUp = up ∧ t.plat.trained = true ∧
      (s.plat.stage = 0 → t.plat.stage = if 2 ≤ onesOf up then 1 else 0) ∧ (s.plat.stage ≠ 0 → t.plat.stage = s.plat.stage))) ∧
  (∀ s : State, ∃ t, exec .packageReset s = .next t ∧ t.mem = s.mem ∧ t.cores = State.reset.cores ∧ t.dies = State.reset.dies ∧
    t.gtb = 0 ∧ t.grids = [] ∧ t.fabric = State.reset.fabric ∧ t.plat.stage = 0 ∧ t.plat.fusedSvn = s.plat.fusedSvn) ∧
  (∀ (s : State) (off : Nat) (v : Word), exec (.controlRegisterWrite off v) s = .next (if s.linkOk then s.ctlWrite .host off v else s)) ∧
  (∀ (s : State) (w : Writer) (v : Word), (s.ctlWrite w 0x100 v).ctlRead 0x100 = v &&& 0x000FFFFFFFFFFFC0 ∧
    (s.ctlWrite w 0x108 v).ctlRead 0x108 = v &&& 0x000FFFFFFFFFFFC0 ∧ (s.ctlWrite w 0x200 v).ctlRead 0x200 = v &&& 0x01FFFFFFFFFF0000 ∧
    (s.ctlWrite w 0x220 v).ctlRead 0x220 = v &&& 0xFFFFFFFF ∧ (s.ctlWrite w 0x308 v).ctlRead 0x308 = v &&& 0x000FFFFFFFFFF000) ∧
  (∀ (s : State) (w : Writer) (off : Nat) (v : Word), off % 8 ≠ 0 ∨ 0x30800 ≤ off ∨ off = 0 ∨ off = 8 →
    s.ctlWrite w off v = s ∧ (off % 8 ≠ 0 ∨ 0x30800 ≤ off → s.ctlRead off = 0))


/-! ## Steps, encodings, reset and the invariant -/

/-- A step takes the turn that stands first in State: a ferry whose next word decodes to an instruction performs that instruction, at
the second half of a pair word the second half; a word that decodes to
nothing traps (R215); a stream that is open performs the word of its own; an event is itself, after the accesses that fibres have still to perform
where it does not pass them; a tick moves the GTB. A
placed word is the one that the next step performs.
The model's choice: State names whose turn it is, and how a placed word stands for a load (log entries 6, 8 and 17). -/
def Obligations.StepRunsDecodedWord : Prop :=
  let next (s : State) (ts : List Turn) : State := { s with turns := ts, freeCtr := s.freeCtr + 1 }
  (∀ (s u : State) (c n : Nat) (ts : List Turn) (w : Word) (k : ClauseState), s.turns = .run (.ferry c n) :: ts →
    (next s ts).canIssue c n = true →
    let s0 := (next s ts).ferryTurn c n
    (s0.ferry c n).clause = some k → (k.known = true → k.left ≠ 0) → s0.ferryWord c n = (u, .ok w) →
    let v := u.keepWord c n w
    (∀ i, decodeWord w = .single i → isStreamWord w = false → (v.ferry c n).pc.getLsbD 2 = false → step s = exec i v) ∧
    (∀ a b, decodeWord w = .pair a b → (v.ferry c n).structureOk false = true →
      step s = exec (if (v.ferry c n).pc.getLsbD 2 then b else a) v) ∧
    (∀ e, decodeWord w = .bad e → step s = .next (v.trapFerry c n (v.ferry c n).pc
      { code := if e = .pairing then .illegalPair else .illegalOp, info0 := w, info1 := 0 }))) ∧
  (∀ (s u : State) (c g : Nat) (ts : List Turn) (x : Stream) (w : Word) (i : Instr), s.turns = .run (.stream c g) :: ts →
    (s.group c g).stream = some x → (next s ts).streamOpen c x = true → (next s ts).streamWord c g x = (u, .ok w) →
    isStreamWord w = true → decodeWord w = .single i →
    step s = exec i { u.updStream c g (fun y => { y with held := some w }) with cur := .stream c g }) ∧
  (∀ (s : State) (i : Instr) (ts : List Turn), s.turns = .ev i :: ts → isEvent i = true → i.wf = true →
    passesLate i = true ∨ (next s ts).allOpen = true →
    step s = exec i ((next s ts).before i) ∧ ((∀ k ∈ s.cores, ∀ x ∈ k.2.fibres, x.2.lates = []) → step s = exec i (next s ts))) ∧
  (∀ (s : State) (ts : List Turn), s.turns = .tick :: ts → step s = .next (next s ts).tick) ∧
  (∀ (s : State) (w : Word) (i : Instr), decodeWord w = .single i →
    ∃ t, t.mem = s.mem ∧ t.gtb = s.gtb ∧ step (s.withFetchWord 64 w.toNat) = exec i t)

/-- Words written out from the encodings of the spec decode to the instructions they stand for. -/
def Obligations.SpecWordsDecode : Prop :=
  let g (n : Bool) (g : BitVec 4) : Ctl := { n := n, g := g, fl := .none, t := false }
  decodeWord 0x103C068206002800 = .single (.fadd
    { ctl := g false 15, d := 13, a := 4, b := 12, c := 0, ty := .f64, rm := .rne, sat := false, opx := 0 }) ∧
  decodeWord 0x20BC51847FFFFFFB = .single (.icmpi { ctl := g false 15, d := 0xA3, a := 8, imm := 0x7FFFFFFB }) ∧
  decodeWord 0x303D020102803003 = .single (.ld
    { ctl := { n := false, g := 15, fl := .setA, t := false }, d := 4, a := 2, b := 5, c := 0, sz := .b8, os := false, sx := false,
      ord := .plain, nf := false, imm7 := 3 }) ∧
  decodeWord 0x503C00007FFFFFE8 = .single (.br { ctl := g false 15, d := 0, a := 0, imm := 0x7FFFFFE8 }) ∧
  decodeWord 0x533C000000000000 = .single (.exit { ctl := g false 15, d := 0, a := 0, b := 0, c := 0, mod := 0 }) ∧
  decodeWord 0x5FBC008080004080 = .single (.madd { ctl := g false 15, d := 1, a := 1, b := 0, c := 0, mod := 0x4080 }) ∧
  decodeWord 0x6ABC000A04010001 = .single (.qpush { ctl := g false 15, d := 0, a := 20, b := 8, c := 2, mod := 1 }) ∧
  decodeWord 0x7F80000000000000 = .badHeader ∧ decodeWord 0xC000000000000000 = .bad .noKind

/-- Decoding the encoded instruction gives it back: every well-formed instruction word, and every pair of well-formed halves that may
share a word. -/
def Obligations.DecodeEncodeAgree : Prop :=
  (∀ (i : Instr) (w : Word), i.wf = true → encode i = some w → decodeWord w = .single i) ∧
  (∀ (a b : Instr) (w : Word), a.wf = true → b.wf = true → encodePair a b = some w → pairOk a b = true → decodeWord w = .pair a b) ∧
  (∀ h : Header, h.len ≠ 0 → decodeWord (packHeader h) = .header h)

/-- No two words decode alike: a word that decodes to an instruction, a pair or a header is the one that encodes it, so every bit of it
counts. -/
def Obligations.WordsAreUnique : Prop :=
  ∀ w : Word, (∀ i, decodeWord w = .single i → i.wf = true ∧ encode i = some w) ∧
    (∀ a b, decodeWord w = .pair a b → a.wf = true ∧ b.wf = true ∧ encodePair a b = some w) ∧
    (∀ h, decodeWord w = .header h → packHeader h = w)

/-- Every step keeps memory in its canonical form.
The model's choice: the canonical form and the byte that an unlisted address reads as (log entry 1). -/
def Obligations.StepKeepsMemory : Prop :=
  ∀ s t : State, s.Inv → step s = .next t → t.Inv

/-- Memory at reset is in its canonical form.
The model's choice: the canonical form and the byte that an unlisted address reads as (log entry 1). -/
def Obligations.ResetKeepsInv : Prop := State.Inv State.reset

/-- What the spec gives for reset (R38, R61, R76, R78, R79, R83, R161, R162, R335, R360, R386, R392): the GTB is 0; the control
registers, the control block, the islands, BSPART and the incarnations have their reset values; nothing is queued or resident. -/
def Obligations.ResetValues : Prop :=
  let s := State.reset
  s.gtb = 0 ∧
  (∀ ctx : BitVec 12, s.controlValue ctx 0 = 64 ∧ s.controlValue ctx 1 = 0 ∧ s.controlValue ctx 2 = 0x42000000 ∧
    s.controlValue ctx 3 = 0 ∧ s.controlValue ctx 4 = 2000000 ∧ s.controlValue ctx 5 = 1 ∧ s.controlValue ctx 6 = 100 ∧
    s.controlValue ctx 16 = 0x00013BFF3B331419 ∧ s.controlValue ctx 17 = 0x00013BFF3B331419 ∧
    ∀ n, 256 ≤ n → n < 512 → s.controlValue ctx n = 0x10000001) ∧
  s.ctlRead 0x008 = 0 ∧ s.ctlRead 0x010 = 0 ∧ s.ctlRead 0x018 = 0 ∧ s.ctlRead 0x020 = 0 ∧ s.ctlRead 0x028 = 0 ∧
  s.ctlRead 0x300 = 0 ∧ s.ctlRead 0x400 = 0xFEDCBA9876543210 ∧ s.ctlRead 0x408 = 0xFFFF0000 ∧ s.ctlRead 0x410 = 50000 ∧
  s.ctlRead 0x420 = 0 ∧ s.ctlRead 0x428 = 0 ∧ s.ctlRead 0x430 = 0 ∧ s.ctlRead 0x438 = 0 ∧ s.ctlRead 0x500 = 0 ∧ s.ctlRead 0x508 = 0 ∧
  (∀ i, i < 256 → s.ctlRead (0x30000 + 8 * i) = 0x101) ∧ (∀ c, c < 640 → s.ctlRead (0x10000 + 8 * c) = 16) ∧
  (∀ id, id < 1024 → s.ctlRead (0x20000 + 8 * id) = 0) ∧
  -- every island is queued for its admission, those of the dies interleaved
  s.plat.wakeQueue.length = 256 ∧ (∀ i, i < 256 → ∃ at_, (i, at_) ∈ s.plat.wakeQueue) ∧
  (∀ k, k < 160 → (s.plat.wakeQueue[k]?).map (fun x => x.1) = some (40 * (k % 4) + k / 4)) ∧
  (∀ d, (s.die d).inc = 0 ∧ (s.die d).dead = false) ∧ (∀ q, AMap.getD s.queues q [] = []) ∧ s.grids = [] ∧
  (∀ c p, s.hasFibre c p = false)
end

