-- ==== Sys2Proof/Laws/Encoding.lean ====
section
/-! SUPPORT. The fields of an encoded word. -/

namespace Sys2Proof

/-- Bit 63 of a full-format word is clear (R195). -/
theorem packFull_bit63 (op : BitVec 8) (k : Ctl) (d a b c : BitVec 8) (m : BitVec 15) :
    (packFull op k d a b c m).getLsbD 63 = false := by
  simp only [packFull, BitVec.getLsbD_append]; simp

/-- OP of a full-format word. -/
theorem packFull_op (op : BitVec 8) (k : Ctl) (d a b c : BitVec 8) (m : BitVec 15) : fieldOp (packFull op k d a b c m) = op := by
  apply BitVec.eq_of_getLsbD_eq
  intro i hi
  simp only [fieldOp, packFull, BitVec.getLsbD_extractLsb', BitVec.getLsbD_append]
  have h : 55 + i - 15 - 8 - 8 - 8 - 8 - 1 - 2 - 4 - 1 = i := by omega
  repeat rw [if_neg (by omega)]
  rw [h, if_pos hi]
  simp [hi]

/-- Bit 63 of a word of the immediate form is clear. -/
theorem packImm_bit63 (op : BitVec 8) (o : ImmOp) : (packImm op o).getLsbD 63 = false := by
  simp only [packImm, BitVec.getLsbD_append]; simp

/-- OP of a word of the immediate form. -/
theorem packImm_op (op : BitVec 8) (o : ImmOp) : fieldOp (packImm op o) = op := by
  apply BitVec.eq_of_getLsbD_eq
  intro i hi
  simp only [fieldOp, packImm, BitVec.getLsbD_extractLsb', BitVec.getLsbD_append]
  have h : 55 + i - 31 - 8 - 8 - 1 - 2 - 4 - 1 = i := by omega
  repeat rw [if_neg (by omega)]
  rw [h, if_pos hi]
  simp [hi]

/-- A full-format word whose OP is not 0xFF is a word of its own kind. -/
theorem packFull_ownWord {op : BitVec 8} {k : Ctl} {d a b c : BitVec 8} {m : BitVec 15} {w : Word} (h : op ≠ 0xFF)
    (e : some (packFull op k d a b c m) = some w) : w.getLsbD 63 = false ∧ isHeader w = false := by
  cases e
  refine ⟨packFull_bit63 .., ?_⟩
  rw [isHeader, packFull_bit63, packFull_op]
  simpa using h

/-- A word of the immediate form whose OP is not 0xFF is a word of its own kind. -/
theorem packImm_ownWord {op : BitVec 8} {o : ImmOp} {w : Word} (h : op ≠ 0xFF) (e : some (packImm op o) = some w) :
    w.getLsbD 63 = false ∧ isHeader w = false := by
  cases e
  refine ⟨packImm_bit63 .., ?_⟩
  rw [isHeader, packImm_bit63, packImm_op]
  simpa using h

end Sys2Proof
end

