-- ==== Sys2Proof/Laws/Table.lean ====
section
/-! SUPPORT. The laws of the finite map: what a table holds after one entry is put into it. -/

namespace Sys2Proof

theorem AMap.find_put {α : Type} (m : AMap α) (k j : Nat) (x : α) :
    AMap.find (AMap.put m k x) j = if j = k then some x else AMap.find m j := by
  induction m with
  | nil => simp [AMap.put, AMap.find]
  | cons e m ih =>
    obtain ⟨i, y⟩ := e
    unfold AMap.put
    split
    · simp only [AMap.find]
    · split
      · next h => subst h; simp only [AMap.find]; split <;> rfl
      · next h =>
        simp only [AMap.find, ih]
        split
        · next h2 => subst h2; simp [Ne.symm h]
        · rfl

@[simp] theorem AMap.find_put_self {α : Type} (m : AMap α) (k : Nat) (x : α) : AMap.find (AMap.put m k x) k = some x := by
  simp [AMap.find_put]

theorem AMap.find_put_ne {α : Type} (m : AMap α) {k j : Nat} (x : α) (h : j ≠ k) :
    AMap.find (AMap.put m k x) j = AMap.find m j := by
  simp [AMap.find_put, h]

theorem AMap.getD_put {α : Type} (m : AMap α) (k j : Nat) (x d : α) :
    AMap.getD (AMap.put m k x) j d = if j = k then x else AMap.getD m j d := by
  unfold AMap.getD
  rw [AMap.find_put]
  by_cases h : j = k <;> simp [h]

@[simp] theorem AMap.getD_put_self {α : Type} (m : AMap α) (k : Nat) (x d : α) : AMap.getD (AMap.put m k x) k d = x := by
  simp [AMap.getD_put]

theorem AMap.getD_put_ne {α : Type} (m : AMap α) {k j : Nat} (x d : α) (h : j ≠ k) :
    AMap.getD (AMap.put m k x) j d = AMap.getD m j d := by
  simp [AMap.getD_put, h]

theorem AMap.getD_of_find {α : Type} {m : AMap α} {k : Nat} {x : α} (d : α) (h : AMap.find m k = some x) :
    AMap.getD m k d = x := by
  simp [AMap.getD, h]

/-- The second of two entries put under one number is the one that stays. -/
@[simp] theorem AMap.put_put {α : Type} (m : AMap α) (k : Nat) (x y : α) : AMap.put (AMap.put m k x) k y = AMap.put m k y := by
  induction m with
  | nil => simp [AMap.put]
  | cons e m ih =>
    obtain ⟨i, z⟩ := e
    simp only [AMap.put]
    split
    · simp [AMap.put]
    · split
      · simp [AMap.put]
      · next h1 h2 => simp [AMap.put, h1, h2, ih]

end Sys2Proof
end

