-- ==== Sys2Proof/Laws/State.lean ====
section
/-! SUPPORT. What each update of the state leaves unchanged, field by field, and what it makes of the part it changes. -/

namespace Sys2Proof.Machine

/-! ## setCore -/

@[simp] theorem State.setCore_gtb (s : State) (c : Nat) (x : Core) : (s.setCore c x).gtb = s.gtb := rfl
@[simp] theorem State.setCore_mem (s : State) (c : Nat) (x : Core) : (s.setCore c x).mem = s.mem := rfl
@[simp] theorem State.setCore_dies (s : State) (c : Nat) (x : Core) : (s.setCore c x).dies = s.dies := rfl
@[simp] theorem State.setCore_regs (s : State) (c : Nat) (x : Core) : (s.setCore c x).regs = s.regs := rfl
@[simp] theorem State.setCore_plat (s : State) (c : Nat) (x : Core) : (s.setCore c x).plat = s.plat := rfl
@[simp] theorem State.setCore_fabric (s : State) (c : Nat) (x : Core) : (s.setCore c x).fabric = s.fabric := rfl
@[simp] theorem State.setCore_records (s : State) (c : Nat) (x : Core) : (s.setCore c x).records = s.records := rfl
@[simp] theorem State.setCore_queues (s : State) (c : Nat) (x : Core) : (s.setCore c x).queues = s.queues := rfl
@[simp] theorem State.setCore_blocked (s : State) (c : Nat) (x : Core) : (s.setCore c x).blocked = s.blocked := rfl
@[simp] theorem State.setCore_nextGrid (s : State) (c : Nat) (x : Core) : (s.setCore c x).nextGrid = s.nextGrid := rfl
@[simp] theorem State.setCore_grids (s : State) (c : Nat) (x : Core) : (s.setCore c x).grids = s.grids := rfl
@[simp] theorem State.setCore_batch (s : State) (c : Nat) (x : Core) : (s.setCore c x).batch = s.batch := rfl
@[simp] theorem State.setCore_colocate (s : State) (c : Nat) (x : Core) : (s.setCore c x).colocate = s.colocate := rfl
@[simp] theorem State.setCore_plans (s : State) (c : Nat) (x : Core) : (s.setCore c x).plans = s.plans := rfl
@[simp] theorem State.setCore_span (s : State) (c : Nat) (x : Core) : (s.setCore c x).span = s.span := rfl
@[simp] theorem State.setCore_spans (s : State) (c : Nat) (x : Core) : (s.setCore c x).spans = s.spans := rfl
@[simp] theorem State.setCore_readies (s : State) (c : Nat) (x : Core) : (s.setCore c x).readies = s.readies := rfl
@[simp] theorem State.setCore_saved (s : State) (c : Nat) (x : Core) : (s.setCore c x).saved = s.saved := rfl
@[simp] theorem State.setCore_voided (s : State) (c : Nat) (x : Core) : (s.setCore c x).voided = s.voided := rfl
@[simp] theorem State.setCore_heldResumes (s : State) (c : Nat) (x : Core) : (s.setCore c x).heldResumes = s.heldResumes := rfl
@[simp] theorem State.setCore_suspended (s : State) (c : Nat) (x : Core) : (s.setCore c x).suspended = s.suspended := rfl
@[simp] theorem State.setCore_preOp (s : State) (c : Nat) (x : Core) : (s.setCore c x).preOp = s.preOp := rfl
@[simp] theorem State.setCore_kills (s : State) (c : Nat) (x : Core) : (s.setCore c x).kills = s.kills := rfl
@[simp] theorem State.setCore_handles (s : State) (c : Nat) (x : Core) : (s.setCore c x).handles = s.handles := rfl
@[simp] theorem State.setCore_nextSeq (s : State) (c : Nat) (x : Core) : (s.setCore c x).nextSeq = s.nextSeq := rfl
@[simp] theorem State.setCore_moves (s : State) (c : Nat) (x : Core) : (s.setCore c x).moves = s.moves := rfl
@[simp] theorem State.setCore_move (s : State) (c : Nat) (x : Core) : (s.setCore c x).move = s.move := rfl
@[simp] theorem State.setCore_autoTried (s : State) (c : Nat) (x : Core) : (s.setCore c x).autoTried = s.autoTried := rfl
@[simp] theorem State.setCore_nets (s : State) (c : Nat) (x : Core) : (s.setCore c x).nets = s.nets := rfl
@[simp] theorem State.setCore_subs (s : State) (c : Nat) (x : Core) : (s.setCore c x).subs = s.subs := rfl
@[simp] theorem State.setCore_nextSub (s : State) (c : Nat) (x : Core) : (s.setCore c x).nextSub = s.nextSub := rfl
@[simp] theorem State.setCore_submitters (s : State) (c : Nat) (x : Core) : (s.setCore c x).submitters = s.submitters := rfl
@[simp] theorem State.setCore_owed (s : State) (c : Nat) (x : Core) : (s.setCore c x).owed = s.owed := rfl
@[simp] theorem State.setCore_collSeq (s : State) (c : Nat) (x : Core) : (s.setCore c x).collSeq = s.collSeq := rfl
@[simp] theorem State.setCore_records2 (s : State) (c : Nat) (x : Core) : (s.setCore c x).records2 = s.records2 := rfl
@[simp] theorem State.setCore_trapPushes (s : State) (c : Nat) (x : Core) : (s.setCore c x).trapPushes = s.trapPushes := rfl
@[simp] theorem State.setCore_messages (s : State) (c : Nat) (x : Core) : (s.setCore c x).messages = s.messages := rfl
@[simp] theorem State.setCore_turns (s : State) (c : Nat) (x : Core) : (s.setCore c x).turns = s.turns := rfl
@[simp] theorem State.setCore_cur (s : State) (c : Nat) (x : Core) : (s.setCore c x).cur = s.cur := rfl
@[simp] theorem State.setCore_freeCtr (s : State) (c : Nat) (x : Core) : (s.setCore c x).freeCtr = s.freeCtr := rfl
@[simp] theorem State.setCore_decayed (s : State) (c : Nat) (x : Core) : (s.setCore c x).decayed = s.decayed := rfl

/-! ## updCore -/

@[simp] theorem State.updCore_gtb (s : State) (c : Nat) (f : Core → Core) : (s.updCore c f).gtb = s.gtb := rfl
@[simp] theorem State.updCore_mem (s : State) (c : Nat) (f : Core → Core) : (s.updCore c f).mem = s.mem := rfl
@[simp] theorem State.updCore_dies (s : State) (c : Nat) (f : Core → Core) : (s.updCore c f).dies = s.dies := rfl
@[simp] theorem State.updCore_regs (s : State) (c : Nat) (f : Core → Core) : (s.updCore c f).regs = s.regs := rfl
@[simp] theorem State.updCore_plat (s : State) (c : Nat) (f : Core → Core) : (s.updCore c f).plat = s.plat := rfl
@[simp] theorem State.updCore_fabric (s : State) (c : Nat) (f : Core → Core) : (s.updCore c f).fabric = s.fabric := rfl
@[simp] theorem State.updCore_records (s : State) (c : Nat) (f : Core → Core) : (s.updCore c f).records = s.records := rfl
@[simp] theorem State.updCore_queues (s : State) (c : Nat) (f : Core → Core) : (s.updCore c f).queues = s.queues := rfl
@[simp] theorem State.updCore_blocked (s : State) (c : Nat) (f : Core → Core) : (s.updCore c f).blocked = s.blocked := rfl
@[simp] theorem State.updCore_nextGrid (s : State) (c : Nat) (f : Core → Core) : (s.updCore c f).nextGrid = s.nextGrid := rfl
@[simp] theorem State.updCore_grids (s : State) (c : Nat) (f : Core → Core) : (s.updCore c f).grids = s.grids := rfl
@[simp] theorem State.updCore_batch (s : State) (c : Nat) (f : Core → Core) : (s.updCore c f).batch = s.batch := rfl
@[simp] theorem State.updCore_colocate (s : State) (c : Nat) (f : Core → Core) : (s.updCore c f).colocate = s.colocate := rfl
@[simp] theorem State.updCore_plans (s : State) (c : Nat) (f : Core → Core) : (s.updCore c f).plans = s.plans := rfl
@[simp] theorem State.updCore_span (s : State) (c : Nat) (f : Core → Core) : (s.updCore c f).span = s.span := rfl
@[simp] theorem State.updCore_spans (s : State) (c : Nat) (f : Core → Core) : (s.updCore c f).spans = s.spans := rfl
@[simp] theorem State.updCore_readies (s : State) (c : Nat) (f : Core → Core) : (s.updCore c f).readies = s.readies := rfl
@[simp] theorem State.updCore_saved (s : State) (c : Nat) (f : Core → Core) : (s.updCore c f).saved = s.saved := rfl
@[simp] theorem State.updCore_voided (s : State) (c : Nat) (f : Core → Core) : (s.updCore c f).voided = s.voided := rfl
@[simp] theorem State.updCore_heldResumes (s : State) (c : Nat) (f : Core → Core) : (s.updCore c f).heldResumes = s.heldResumes := rfl
@[simp] theorem State.updCore_suspended (s : State) (c : Nat) (f : Core → Core) : (s.updCore c f).suspended = s.suspended := rfl
@[simp] theorem State.updCore_preOp (s : State) (c : Nat) (f : Core → Core) : (s.updCore c f).preOp = s.preOp := rfl
@[simp] theorem State.updCore_kills (s : State) (c : Nat) (f : Core → Core) : (s.updCore c f).kills = s.kills := rfl
@[simp] theorem State.updCore_handles (s : State) (c : Nat) (f : Core → Core) : (s.updCore c f).handles = s.handles := rfl
@[simp] theorem State.updCore_nextSeq (s : State) (c : Nat) (f : Core → Core) : (s.updCore c f).nextSeq = s.nextSeq := rfl
@[simp] theorem State.updCore_moves (s : State) (c : Nat) (f : Core → Core) : (s.updCore c f).moves = s.moves := rfl
@[simp] theorem State.updCore_move (s : State) (c : Nat) (f : Core → Core) : (s.updCore c f).move = s.move := rfl
@[simp] theorem State.updCore_autoTried (s : State) (c : Nat) (f : Core → Core) : (s.updCore c f).autoTried = s.autoTried := rfl
@[simp] theorem State.updCore_nets (s : State) (c : Nat) (f : Core → Core) : (s.updCore c f).nets = s.nets := rfl
@[simp] theorem State.updCore_subs (s : State) (c : Nat) (f : Core → Core) : (s.updCore c f).subs = s.subs := rfl
@[simp] theorem State.updCore_nextSub (s : State) (c : Nat) (f : Core → Core) : (s.updCore c f).nextSub = s.nextSub := rfl
@[simp] theorem State.updCore_submitters (s : State) (c : Nat) (f : Core → Core) : (s.updCore c f).submitters = s.submitters := rfl
@[simp] theorem State.updCore_owed (s : State) (c : Nat) (f : Core → Core) : (s.updCore c f).owed = s.owed := rfl
@[simp] theorem State.updCore_collSeq (s : State) (c : Nat) (f : Core → Core) : (s.updCore c f).collSeq = s.collSeq := rfl
@[simp] theorem State.updCore_records2 (s : State) (c : Nat) (f : Core → Core) : (s.updCore c f).records2 = s.records2 := rfl
@[simp] theorem State.updCore_trapPushes (s : State) (c : Nat) (f : Core → Core) : (s.updCore c f).trapPushes = s.trapPushes := rfl
@[simp] theorem State.updCore_messages (s : State) (c : Nat) (f : Core → Core) : (s.updCore c f).messages = s.messages := rfl
@[simp] theorem State.updCore_turns (s : State) (c : Nat) (f : Core → Core) : (s.updCore c f).turns = s.turns := rfl
@[simp] theorem State.updCore_cur (s : State) (c : Nat) (f : Core → Core) : (s.updCore c f).cur = s.cur := rfl
@[simp] theorem State.updCore_freeCtr (s : State) (c : Nat) (f : Core → Core) : (s.updCore c f).freeCtr = s.freeCtr := rfl
@[simp] theorem State.updCore_decayed (s : State) (c : Nat) (f : Core → Core) : (s.updCore c f).decayed = s.decayed := rfl

/-! ## setDie -/

@[simp] theorem State.setDie_gtb (s : State) (d : Nat) (x : Die) : (s.setDie d x).gtb = s.gtb := rfl
@[simp] theorem State.setDie_mem (s : State) (d : Nat) (x : Die) : (s.setDie d x).mem = s.mem := rfl
@[simp] theorem State.setDie_cores (s : State) (d : Nat) (x : Die) : (s.setDie d x).cores = s.cores := rfl
@[simp] theorem State.setDie_regs (s : State) (d : Nat) (x : Die) : (s.setDie d x).regs = s.regs := rfl
@[simp] theorem State.setDie_plat (s : State) (d : Nat) (x : Die) : (s.setDie d x).plat = s.plat := rfl
@[simp] theorem State.setDie_fabric (s : State) (d : Nat) (x : Die) : (s.setDie d x).fabric = s.fabric := rfl
@[simp] theorem State.setDie_records (s : State) (d : Nat) (x : Die) : (s.setDie d x).records = s.records := rfl
@[simp] theorem State.setDie_queues (s : State) (d : Nat) (x : Die) : (s.setDie d x).queues = s.queues := rfl
@[simp] theorem State.setDie_blocked (s : State) (d : Nat) (x : Die) : (s.setDie d x).blocked = s.blocked := rfl
@[simp] theorem State.setDie_nextGrid (s : State) (d : Nat) (x : Die) : (s.setDie d x).nextGrid = s.nextGrid := rfl
@[simp] theorem State.setDie_grids (s : State) (d : Nat) (x : Die) : (s.setDie d x).grids = s.grids := rfl
@[simp] theorem State.setDie_batch (s : State) (d : Nat) (x : Die) : (s.setDie d x).batch = s.batch := rfl
@[simp] theorem State.setDie_colocate (s : State) (d : Nat) (x : Die) : (s.setDie d x).colocate = s.colocate := rfl
@[simp] theorem State.setDie_plans (s : State) (d : Nat) (x : Die) : (s.setDie d x).plans = s.plans := rfl
@[simp] theorem State.setDie_span (s : State) (d : Nat) (x : Die) : (s.setDie d x).span = s.span := rfl
@[simp] theorem State.setDie_spans (s : State) (d : Nat) (x : Die) : (s.setDie d x).spans = s.spans := rfl
@[simp] theorem State.setDie_readies (s : State) (d : Nat) (x : Die) : (s.setDie d x).readies = s.readies := rfl
@[simp] theorem State.setDie_saved (s : State) (d : Nat) (x : Die) : (s.setDie d x).saved = s.saved := rfl
@[simp] theorem State.setDie_voided (s : State) (d : Nat) (x : Die) : (s.setDie d x).voided = s.voided := rfl
@[simp] theorem State.setDie_heldResumes (s : State) (d : Nat) (x : Die) : (s.setDie d x).heldResumes = s.heldResumes := rfl
@[simp] theorem State.setDie_suspended (s : State) (d : Nat) (x : Die) : (s.setDie d x).suspended = s.suspended := rfl
@[simp] theorem State.setDie_preOp (s : State) (d : Nat) (x : Die) : (s.setDie d x).preOp = s.preOp := rfl
@[simp] theorem State.setDie_kills (s : State) (d : Nat) (x : Die) : (s.setDie d x).kills = s.kills := rfl
@[simp] theorem State.setDie_handles (s : State) (d : Nat) (x : Die) : (s.setDie d x).handles = s.handles := rfl
@[simp] theorem State.setDie_nextSeq (s : State) (d : Nat) (x : Die) : (s.setDie d x).nextSeq = s.nextSeq := rfl
@[simp] theorem State.setDie_moves (s : State) (d : Nat) (x : Die) : (s.setDie d x).moves = s.moves := rfl
@[simp] theorem State.setDie_move (s : State) (d : Nat) (x : Die) : (s.setDie d x).move = s.move := rfl
@[simp] theorem State.setDie_autoTried (s : State) (d : Nat) (x : Die) : (s.setDie d x).autoTried = s.autoTried := rfl
@[simp] theorem State.setDie_nets (s : State) (d : Nat) (x : Die) : (s.setDie d x).nets = s.nets := rfl
@[simp] theorem State.setDie_subs (s : State) (d : Nat) (x : Die) : (s.setDie d x).subs = s.subs := rfl
@[simp] theorem State.setDie_nextSub (s : State) (d : Nat) (x : Die) : (s.setDie d x).nextSub = s.nextSub := rfl
@[simp] theorem State.setDie_submitters (s : State) (d : Nat) (x : Die) : (s.setDie d x).submitters = s.submitters := rfl
@[simp] theorem State.setDie_owed (s : State) (d : Nat) (x : Die) : (s.setDie d x).owed = s.owed := rfl
@[simp] theorem State.setDie_collSeq (s : State) (d : Nat) (x : Die) : (s.setDie d x).collSeq = s.collSeq := rfl
@[simp] theorem State.setDie_records2 (s : State) (d : Nat) (x : Die) : (s.setDie d x).records2 = s.records2 := rfl
@[simp] theorem State.setDie_trapPushes (s : State) (d : Nat) (x : Die) : (s.setDie d x).trapPushes = s.trapPushes := rfl
@[simp] theorem State.setDie_messages (s : State) (d : Nat) (x : Die) : (s.setDie d x).messages = s.messages := rfl
@[simp] theorem State.setDie_turns (s : State) (d : Nat) (x : Die) : (s.setDie d x).turns = s.turns := rfl
@[simp] theorem State.setDie_cur (s : State) (d : Nat) (x : Die) : (s.setDie d x).cur = s.cur := rfl
@[simp] theorem State.setDie_freeCtr (s : State) (d : Nat) (x : Die) : (s.setDie d x).freeCtr = s.freeCtr := rfl
@[simp] theorem State.setDie_decayed (s : State) (d : Nat) (x : Die) : (s.setDie d x).decayed = s.decayed := rfl

/-! ## updDie -/

@[simp] theorem State.updDie_gtb (s : State) (d : Nat) (f : Die → Die) : (s.updDie d f).gtb = s.gtb := rfl
@[simp] theorem State.updDie_mem (s : State) (d : Nat) (f : Die → Die) : (s.updDie d f).mem = s.mem := rfl
@[simp] theorem State.updDie_cores (s : State) (d : Nat) (f : Die → Die) : (s.updDie d f).cores = s.cores := rfl
@[simp] theorem State.updDie_regs (s : State) (d : Nat) (f : Die → Die) : (s.updDie d f).regs = s.regs := rfl
@[simp] theorem State.updDie_plat (s : State) (d : Nat) (f : Die → Die) : (s.updDie d f).plat = s.plat := rfl
@[simp] theorem State.updDie_fabric (s : State) (d : Nat) (f : Die → Die) : (s.updDie d f).fabric = s.fabric := rfl
@[simp] theorem State.updDie_records (s : State) (d : Nat) (f : Die → Die) : (s.updDie d f).records = s.records := rfl
@[simp] theorem State.updDie_queues (s : State) (d : Nat) (f : Die → Die) : (s.updDie d f).queues = s.queues := rfl
@[simp] theorem State.updDie_blocked (s : State) (d : Nat) (f : Die → Die) : (s.updDie d f).blocked = s.blocked := rfl
@[simp] theorem State.updDie_nextGrid (s : State) (d : Nat) (f : Die → Die) : (s.updDie d f).nextGrid = s.nextGrid := rfl
@[simp] theorem State.updDie_grids (s : State) (d : Nat) (f : Die → Die) : (s.updDie d f).grids = s.grids := rfl
@[simp] theorem State.updDie_batch (s : State) (d : Nat) (f : Die → Die) : (s.updDie d f).batch = s.batch := rfl
@[simp] theorem State.updDie_colocate (s : State) (d : Nat) (f : Die → Die) : (s.updDie d f).colocate = s.colocate := rfl
@[simp] theorem State.updDie_plans (s : State) (d : Nat) (f : Die → Die) : (s.updDie d f).plans = s.plans := rfl
@[simp] theorem State.updDie_span (s : State) (d : Nat) (f : Die → Die) : (s.updDie d f).span = s.span := rfl
@[simp] theorem State.updDie_spans (s : State) (d : Nat) (f : Die → Die) : (s.updDie d f).spans = s.spans := rfl
@[simp] theorem State.updDie_readies (s : State) (d : Nat) (f : Die → Die) : (s.updDie d f).readies = s.readies := rfl
@[simp] theorem State.updDie_saved (s : State) (d : Nat) (f : Die → Die) : (s.updDie d f).saved = s.saved := rfl
@[simp] theorem State.updDie_voided (s : State) (d : Nat) (f : Die → Die) : (s.updDie d f).voided = s.voided := rfl
@[simp] theorem State.updDie_heldResumes (s : State) (d : Nat) (f : Die → Die) : (s.updDie d f).heldResumes = s.heldResumes := rfl
@[simp] theorem State.updDie_suspended (s : State) (d : Nat) (f : Die → Die) : (s.updDie d f).suspended = s.suspended := rfl
@[simp] theorem State.updDie_preOp (s : State) (d : Nat) (f : Die → Die) : (s.updDie d f).preOp = s.preOp := rfl
@[simp] theorem State.updDie_kills (s : State) (d : Nat) (f : Die → Die) : (s.updDie d f).kills = s.kills := rfl
@[simp] theorem State.updDie_handles (s : State) (d : Nat) (f : Die → Die) : (s.updDie d f).handles = s.handles := rfl
@[simp] theorem State.updDie_nextSeq (s : State) (d : Nat) (f : Die → Die) : (s.updDie d f).nextSeq = s.nextSeq := rfl
@[simp] theorem State.updDie_moves (s : State) (d : Nat) (f : Die → Die) : (s.updDie d f).moves = s.moves := rfl
@[simp] theorem State.updDie_move (s : State) (d : Nat) (f : Die → Die) : (s.updDie d f).move = s.move := rfl
@[simp] theorem State.updDie_autoTried (s : State) (d : Nat) (f : Die → Die) : (s.updDie d f).autoTried = s.autoTried := rfl
@[simp] theorem State.updDie_nets (s : State) (d : Nat) (f : Die → Die) : (s.updDie d f).nets = s.nets := rfl
@[simp] theorem State.updDie_subs (s : State) (d : Nat) (f : Die → Die) : (s.updDie d f).subs = s.subs := rfl
@[simp] theorem State.updDie_nextSub (s : State) (d : Nat) (f : Die → Die) : (s.updDie d f).nextSub = s.nextSub := rfl
@[simp] theorem State.updDie_submitters (s : State) (d : Nat) (f : Die → Die) : (s.updDie d f).submitters = s.submitters := rfl
@[simp] theorem State.updDie_owed (s : State) (d : Nat) (f : Die → Die) : (s.updDie d f).owed = s.owed := rfl
@[simp] theorem State.updDie_collSeq (s : State) (d : Nat) (f : Die → Die) : (s.updDie d f).collSeq = s.collSeq := rfl
@[simp] theorem State.updDie_records2 (s : State) (d : Nat) (f : Die → Die) : (s.updDie d f).records2 = s.records2 := rfl
@[simp] theorem State.updDie_trapPushes (s : State) (d : Nat) (f : Die → Die) : (s.updDie d f).trapPushes = s.trapPushes := rfl
@[simp] theorem State.updDie_messages (s : State) (d : Nat) (f : Die → Die) : (s.updDie d f).messages = s.messages := rfl
@[simp] theorem State.updDie_turns (s : State) (d : Nat) (f : Die → Die) : (s.updDie d f).turns = s.turns := rfl
@[simp] theorem State.updDie_cur (s : State) (d : Nat) (f : Die → Die) : (s.updDie d f).cur = s.cur := rfl
@[simp] theorem State.updDie_freeCtr (s : State) (d : Nat) (f : Die → Die) : (s.updDie d f).freeCtr = s.freeCtr := rfl
@[simp] theorem State.updDie_decayed (s : State) (d : Nat) (f : Die → Die) : (s.updDie d f).decayed = s.decayed := rfl

/-! ## setFibre -/

@[simp] theorem State.setFibre_gtb (s : State) (c p : Nat) (x : Fibre) : (s.setFibre c p x).gtb = s.gtb := rfl
@[simp] theorem State.setFibre_mem (s : State) (c p : Nat) (x : Fibre) : (s.setFibre c p x).mem = s.mem := rfl
@[simp] theorem State.setFibre_dies (s : State) (c p : Nat) (x : Fibre) : (s.setFibre c p x).dies = s.dies := rfl
@[simp] theorem State.setFibre_regs (s : State) (c p : Nat) (x : Fibre) : (s.setFibre c p x).regs = s.regs := rfl
@[simp] theorem State.setFibre_plat (s : State) (c p : Nat) (x : Fibre) : (s.setFibre c p x).plat = s.plat := rfl
@[simp] theorem State.setFibre_fabric (s : State) (c p : Nat) (x : Fibre) : (s.setFibre c p x).fabric = s.fabric := rfl
@[simp] theorem State.setFibre_records (s : State) (c p : Nat) (x : Fibre) : (s.setFibre c p x).records = s.records := rfl
@[simp] theorem State.setFibre_queues (s : State) (c p : Nat) (x : Fibre) : (s.setFibre c p x).queues = s.queues := rfl
@[simp] theorem State.setFibre_blocked (s : State) (c p : Nat) (x : Fibre) : (s.setFibre c p x).blocked = s.blocked := rfl
@[simp] theorem State.setFibre_nextGrid (s : State) (c p : Nat) (x : Fibre) : (s.setFibre c p x).nextGrid = s.nextGrid := rfl
@[simp] theorem State.setFibre_grids (s : State) (c p : Nat) (x : Fibre) : (s.setFibre c p x).grids = s.grids := rfl
@[simp] theorem State.setFibre_batch (s : State) (c p : Nat) (x : Fibre) : (s.setFibre c p x).batch = s.batch := rfl
@[simp] theorem State.setFibre_colocate (s : State) (c p : Nat) (x : Fibre) : (s.setFibre c p x).colocate = s.colocate := rfl
@[simp] theorem State.setFibre_plans (s : State) (c p : Nat) (x : Fibre) : (s.setFibre c p x).plans = s.plans := rfl
@[simp] theorem State.setFibre_span (s : State) (c p : Nat) (x : Fibre) : (s.setFibre c p x).span = s.span := rfl
@[simp] theorem State.setFibre_spans (s : State) (c p : Nat) (x : Fibre) : (s.setFibre c p x).spans = s.spans := rfl
@[simp] theorem State.setFibre_readies (s : State) (c p : Nat) (x : Fibre) : (s.setFibre c p x).readies = s.readies := rfl
@[simp] theorem State.setFibre_saved (s : State) (c p : Nat) (x : Fibre) : (s.setFibre c p x).saved = s.saved := rfl
@[simp] theorem State.setFibre_voided (s : State) (c p : Nat) (x : Fibre) : (s.setFibre c p x).voided = s.voided := rfl
@[simp] theorem State.setFibre_heldResumes (s : State) (c p : Nat) (x : Fibre) : (s.setFibre c p x).heldResumes = s.heldResumes := rfl
@[simp] theorem State.setFibre_suspended (s : State) (c p : Nat) (x : Fibre) : (s.setFibre c p x).suspended = s.suspended := rfl
@[simp] theorem State.setFibre_preOp (s : State) (c p : Nat) (x : Fibre) : (s.setFibre c p x).preOp = s.preOp := rfl
@[simp] theorem State.setFibre_kills (s : State) (c p : Nat) (x : Fibre) : (s.setFibre c p x).kills = s.kills := rfl
@[simp] theorem State.setFibre_handles (s : State) (c p : Nat) (x : Fibre) : (s.setFibre c p x).handles = s.handles := rfl
@[simp] theorem State.setFibre_nextSeq (s : State) (c p : Nat) (x : Fibre) : (s.setFibre c p x).nextSeq = s.nextSeq := rfl
@[simp] theorem State.setFibre_moves (s : State) (c p : Nat) (x : Fibre) : (s.setFibre c p x).moves = s.moves := rfl
@[simp] theorem State.setFibre_move (s : State) (c p : Nat) (x : Fibre) : (s.setFibre c p x).move = s.move := rfl
@[simp] theorem State.setFibre_autoTried (s : State) (c p : Nat) (x : Fibre) : (s.setFibre c p x).autoTried = s.autoTried := rfl
@[simp] theorem State.setFibre_nets (s : State) (c p : Nat) (x : Fibre) : (s.setFibre c p x).nets = s.nets := rfl
@[simp] theorem State.setFibre_subs (s : State) (c p : Nat) (x : Fibre) : (s.setFibre c p x).subs = s.subs := rfl
@[simp] theorem State.setFibre_nextSub (s : State) (c p : Nat) (x : Fibre) : (s.setFibre c p x).nextSub = s.nextSub := rfl
@[simp] theorem State.setFibre_submitters (s : State) (c p : Nat) (x : Fibre) : (s.setFibre c p x).submitters = s.submitters := rfl
@[simp] theorem State.setFibre_owed (s : State) (c p : Nat) (x : Fibre) : (s.setFibre c p x).owed = s.owed := rfl
@[simp] theorem State.setFibre_collSeq (s : State) (c p : Nat) (x : Fibre) : (s.setFibre c p x).collSeq = s.collSeq := rfl
@[simp] theorem State.setFibre_records2 (s : State) (c p : Nat) (x : Fibre) : (s.setFibre c p x).records2 = s.records2 := rfl
@[simp] theorem State.setFibre_trapPushes (s : State) (c p : Nat) (x : Fibre) : (s.setFibre c p x).trapPushes = s.trapPushes := rfl
@[simp] theorem State.setFibre_messages (s : State) (c p : Nat) (x : Fibre) : (s.setFibre c p x).messages = s.messages := rfl
@[simp] theorem State.setFibre_turns (s : State) (c p : Nat) (x : Fibre) : (s.setFibre c p x).turns = s.turns := rfl
@[simp] theorem State.setFibre_cur (s : State) (c p : Nat) (x : Fibre) : (s.setFibre c p x).cur = s.cur := rfl
@[simp] theorem State.setFibre_freeCtr (s : State) (c p : Nat) (x : Fibre) : (s.setFibre c p x).freeCtr = s.freeCtr := rfl
@[simp] theorem State.setFibre_decayed (s : State) (c p : Nat) (x : Fibre) : (s.setFibre c p x).decayed = s.decayed := rfl

/-! ## updFibre -/

@[simp] theorem State.updFibre_gtb (s : State) (c p : Nat) (f : Fibre → Fibre) : (s.updFibre c p f).gtb = s.gtb := rfl
@[simp] theorem State.updFibre_mem (s : State) (c p : Nat) (f : Fibre → Fibre) : (s.updFibre c p f).mem = s.mem := rfl
@[simp] theorem State.updFibre_dies (s : State) (c p : Nat) (f : Fibre → Fibre) : (s.updFibre c p f).dies = s.dies := rfl
@[simp] theorem State.updFibre_regs (s : State) (c p : Nat) (f : Fibre → Fibre) : (s.updFibre c p f).regs = s.regs := rfl
@[simp] theorem State.updFibre_plat (s : State) (c p : Nat) (f : Fibre → Fibre) : (s.updFibre c p f).plat = s.plat := rfl
@[simp] theorem State.updFibre_fabric (s : State) (c p : Nat) (f : Fibre → Fibre) : (s.updFibre c p f).fabric = s.fabric := rfl
@[simp] theorem State.updFibre_records (s : State) (c p : Nat) (f : Fibre → Fibre) : (s.updFibre c p f).records = s.records := rfl
@[simp] theorem State.updFibre_queues (s : State) (c p : Nat) (f : Fibre → Fibre) : (s.updFibre c p f).queues = s.queues := rfl
@[simp] theorem State.updFibre_blocked (s : State) (c p : Nat) (f : Fibre → Fibre) : (s.updFibre c p f).blocked = s.blocked := rfl
@[simp] theorem State.updFibre_nextGrid (s : State) (c p : Nat) (f : Fibre → Fibre) : (s.updFibre c p f).nextGrid = s.nextGrid := rfl
@[simp] theorem State.updFibre_grids (s : State) (c p : Nat) (f : Fibre → Fibre) : (s.updFibre c p f).grids = s.grids := rfl
@[simp] theorem State.updFibre_batch (s : State) (c p : Nat) (f : Fibre → Fibre) : (s.updFibre c p f).batch = s.batch := rfl
@[simp] theorem State.updFibre_colocate (s : State) (c p : Nat) (f : Fibre → Fibre) : (s.updFibre c p f).colocate = s.colocate := rfl
@[simp] theorem State.updFibre_plans (s : State) (c p : Nat) (f : Fibre → Fibre) : (s.updFibre c p f).plans = s.plans := rfl
@[simp] theorem State.updFibre_span (s : State) (c p : Nat) (f : Fibre → Fibre) : (s.updFibre c p f).span = s.span := rfl
@[simp] theorem State.updFibre_spans (s : State) (c p : Nat) (f : Fibre → Fibre) : (s.updFibre c p f).spans = s.spans := rfl
@[simp] theorem State.updFibre_readies (s : State) (c p : Nat) (f : Fibre → Fibre) : (s.updFibre c p f).readies = s.readies := rfl
@[simp] theorem State.updFibre_saved (s : State) (c p : Nat) (f : Fibre → Fibre) : (s.updFibre c p f).saved = s.saved := rfl
@[simp] theorem State.updFibre_voided (s : State) (c p : Nat) (f : Fibre → Fibre) : (s.updFibre c p f).voided = s.voided := rfl
@[simp] theorem State.updFibre_heldResumes (s : State) (c p : Nat) (f : Fibre → Fibre) : (s.updFibre c p f).heldResumes = s.heldResumes := rfl
@[simp] theorem State.updFibre_suspended (s : State) (c p : Nat) (f : Fibre → Fibre) : (s.updFibre c p f).suspended = s.suspended := rfl
@[simp] theorem State.updFibre_preOp (s : State) (c p : Nat) (f : Fibre → Fibre) : (s.updFibre c p f).preOp = s.preOp := rfl
@[simp] theorem State.updFibre_kills (s : State) (c p : Nat) (f : Fibre → Fibre) : (s.updFibre c p f).kills = s.kills := rfl
@[simp] theorem State.updFibre_handles (s : State) (c p : Nat) (f : Fibre → Fibre) : (s.updFibre c p f).handles = s.handles := rfl
@[simp] theorem State.updFibre_nextSeq (s : State) (c p : Nat) (f : Fibre → Fibre) : (s.updFibre c p f).nextSeq = s.nextSeq := rfl
@[simp] theorem State.updFibre_moves (s : State) (c p : Nat) (f : Fibre → Fibre) : (s.updFibre c p f).moves = s.moves := rfl
@[simp] theorem State.updFibre_move (s : State) (c p : Nat) (f : Fibre → Fibre) : (s.updFibre c p f).move = s.move := rfl
@[simp] theorem State.updFibre_autoTried (s : State) (c p : Nat) (f : Fibre → Fibre) : (s.updFibre c p f).autoTried = s.autoTried := rfl
@[simp] theorem State.updFibre_nets (s : State) (c p : Nat) (f : Fibre → Fibre) : (s.updFibre c p f).nets = s.nets := rfl
@[simp] theorem State.updFibre_subs (s : State) (c p : Nat) (f : Fibre → Fibre) : (s.updFibre c p f).subs = s.subs := rfl
@[simp] theorem State.updFibre_nextSub (s : State) (c p : Nat) (f : Fibre → Fibre) : (s.updFibre c p f).nextSub = s.nextSub := rfl
@[simp] theorem State.updFibre_submitters (s : State) (c p : Nat) (f : Fibre → Fibre) : (s.updFibre c p f).submitters = s.submitters := rfl
@[simp] theorem State.updFibre_owed (s : State) (c p : Nat) (f : Fibre → Fibre) : (s.updFibre c p f).owed = s.owed := rfl
@[simp] theorem State.updFibre_collSeq (s : State) (c p : Nat) (f : Fibre → Fibre) : (s.updFibre c p f).collSeq = s.collSeq := rfl
@[simp] theorem State.updFibre_records2 (s : State) (c p : Nat) (f : Fibre → Fibre) : (s.updFibre c p f).records2 = s.records2 := rfl
@[simp] theorem State.updFibre_trapPushes (s : State) (c p : Nat) (f : Fibre → Fibre) : (s.updFibre c p f).trapPushes = s.trapPushes := rfl
@[simp] theorem State.updFibre_messages (s : State) (c p : Nat) (f : Fibre → Fibre) : (s.updFibre c p f).messages = s.messages := rfl
@[simp] theorem State.updFibre_turns (s : State) (c p : Nat) (f : Fibre → Fibre) : (s.updFibre c p f).turns = s.turns := rfl
@[simp] theorem State.updFibre_cur (s : State) (c p : Nat) (f : Fibre → Fibre) : (s.updFibre c p f).cur = s.cur := rfl
@[simp] theorem State.updFibre_freeCtr (s : State) (c p : Nat) (f : Fibre → Fibre) : (s.updFibre c p f).freeCtr = s.freeCtr := rfl
@[simp] theorem State.updFibre_decayed (s : State) (c p : Nat) (f : Fibre → Fibre) : (s.updFibre c p f).decayed = s.decayed := rfl

/-! ## setGroup -/

@[simp] theorem State.setGroup_gtb (s : State) (c g : Nat) (x : Group) : (s.setGroup c g x).gtb = s.gtb := rfl
@[simp] theorem State.setGroup_mem (s : State) (c g : Nat) (x : Group) : (s.setGroup c g x).mem = s.mem := rfl
@[simp] theorem State.setGroup_dies (s : State) (c g : Nat) (x : Group) : (s.setGroup c g x).dies = s.dies := rfl
@[simp] theorem State.setGroup_regs (s : State) (c g : Nat) (x : Group) : (s.setGroup c g x).regs = s.regs := rfl
@[simp] theorem State.setGroup_plat (s : State) (c g : Nat) (x : Group) : (s.setGroup c g x).plat = s.plat := rfl
@[simp] theorem State.setGroup_fabric (s : State) (c g : Nat) (x : Group) : (s.setGroup c g x).fabric = s.fabric := rfl
@[simp] theorem State.setGroup_records (s : State) (c g : Nat) (x : Group) : (s.setGroup c g x).records = s.records := rfl
@[simp] theorem State.setGroup_queues (s : State) (c g : Nat) (x : Group) : (s.setGroup c g x).queues = s.queues := rfl
@[simp] theorem State.setGroup_blocked (s : State) (c g : Nat) (x : Group) : (s.setGroup c g x).blocked = s.blocked := rfl
@[simp] theorem State.setGroup_nextGrid (s : State) (c g : Nat) (x : Group) : (s.setGroup c g x).nextGrid = s.nextGrid := rfl
@[simp] theorem State.setGroup_grids (s : State) (c g : Nat) (x : Group) : (s.setGroup c g x).grids = s.grids := rfl
@[simp] theorem State.setGroup_batch (s : State) (c g : Nat) (x : Group) : (s.setGroup c g x).batch = s.batch := rfl
@[simp] theorem State.setGroup_colocate (s : State) (c g : Nat) (x : Group) : (s.setGroup c g x).colocate = s.colocate := rfl
@[simp] theorem State.setGroup_plans (s : State) (c g : Nat) (x : Group) : (s.setGroup c g x).plans = s.plans := rfl
@[simp] theorem State.setGroup_span (s : State) (c g : Nat) (x : Group) : (s.setGroup c g x).span = s.span := rfl
@[simp] theorem State.setGroup_spans (s : State) (c g : Nat) (x : Group) : (s.setGroup c g x).spans = s.spans := rfl
@[simp] theorem State.setGroup_readies (s : State) (c g : Nat) (x : Group) : (s.setGroup c g x).readies = s.readies := rfl
@[simp] theorem State.setGroup_saved (s : State) (c g : Nat) (x : Group) : (s.setGroup c g x).saved = s.saved := rfl
@[simp] theorem State.setGroup_voided (s : State) (c g : Nat) (x : Group) : (s.setGroup c g x).voided = s.voided := rfl
@[simp] theorem State.setGroup_heldResumes (s : State) (c g : Nat) (x : Group) : (s.setGroup c g x).heldResumes = s.heldResumes := rfl
@[simp] theorem State.setGroup_suspended (s : State) (c g : Nat) (x : Group) : (s.setGroup c g x).suspended = s.suspended := rfl
@[simp] theorem State.setGroup_preOp (s : State) (c g : Nat) (x : Group) : (s.setGroup c g x).preOp = s.preOp := rfl
@[simp] theorem State.setGroup_kills (s : State) (c g : Nat) (x : Group) : (s.setGroup c g x).kills = s.kills := rfl
@[simp] theorem State.setGroup_handles (s : State) (c g : Nat) (x : Group) : (s.setGroup c g x).handles = s.handles := rfl
@[simp] theorem State.setGroup_nextSeq (s : State) (c g : Nat) (x : Group) : (s.setGroup c g x).nextSeq = s.nextSeq := rfl
@[simp] theorem State.setGroup_moves (s : State) (c g : Nat) (x : Group) : (s.setGroup c g x).moves = s.moves := rfl
@[simp] theorem State.setGroup_move (s : State) (c g : Nat) (x : Group) : (s.setGroup c g x).move = s.move := rfl
@[simp] theorem State.setGroup_autoTried (s : State) (c g : Nat) (x : Group) : (s.setGroup c g x).autoTried = s.autoTried := rfl
@[simp] theorem State.setGroup_nets (s : State) (c g : Nat) (x : Group) : (s.setGroup c g x).nets = s.nets := rfl
@[simp] theorem State.setGroup_subs (s : State) (c g : Nat) (x : Group) : (s.setGroup c g x).subs = s.subs := rfl
@[simp] theorem State.setGroup_nextSub (s : State) (c g : Nat) (x : Group) : (s.setGroup c g x).nextSub = s.nextSub := rfl
@[simp] theorem State.setGroup_submitters (s : State) (c g : Nat) (x : Group) : (s.setGroup c g x).submitters = s.submitters := rfl
@[simp] theorem State.setGroup_owed (s : State) (c g : Nat) (x : Group) : (s.setGroup c g x).owed = s.owed := rfl
@[simp] theorem State.setGroup_collSeq (s : State) (c g : Nat) (x : Group) : (s.setGroup c g x).collSeq = s.collSeq := rfl
@[simp] theorem State.setGroup_records2 (s : State) (c g : Nat) (x : Group) : (s.setGroup c g x).records2 = s.records2 := rfl
@[simp] theorem State.setGroup_trapPushes (s : State) (c g : Nat) (x : Group) : (s.setGroup c g x).trapPushes = s.trapPushes := rfl
@[simp] theorem State.setGroup_messages (s : State) (c g : Nat) (x : Group) : (s.setGroup c g x).messages = s.messages := rfl
@[simp] theorem State.setGroup_turns (s : State) (c g : Nat) (x : Group) : (s.setGroup c g x).turns = s.turns := rfl
@[simp] theorem State.setGroup_cur (s : State) (c g : Nat) (x : Group) : (s.setGroup c g x).cur = s.cur := rfl
@[simp] theorem State.setGroup_freeCtr (s : State) (c g : Nat) (x : Group) : (s.setGroup c g x).freeCtr = s.freeCtr := rfl
@[simp] theorem State.setGroup_decayed (s : State) (c g : Nat) (x : Group) : (s.setGroup c g x).decayed = s.decayed := rfl

/-! ## updGroup -/

@[simp] theorem State.updGroup_gtb (s : State) (c g : Nat) (f : Group → Group) : (s.updGroup c g f).gtb = s.gtb := rfl
@[simp] theorem State.updGroup_mem (s : State) (c g : Nat) (f : Group → Group) : (s.updGroup c g f).mem = s.mem := rfl
@[simp] theorem State.updGroup_dies (s : State) (c g : Nat) (f : Group → Group) : (s.updGroup c g f).dies = s.dies := rfl
@[simp] theorem State.updGroup_regs (s : State) (c g : Nat) (f : Group → Group) : (s.updGroup c g f).regs = s.regs := rfl
@[simp] theorem State.updGroup_plat (s : State) (c g : Nat) (f : Group → Group) : (s.updGroup c g f).plat = s.plat := rfl
@[simp] theorem State.updGroup_fabric (s : State) (c g : Nat) (f : Group → Group) : (s.updGroup c g f).fabric = s.fabric := rfl
@[simp] theorem State.updGroup_records (s : State) (c g : Nat) (f : Group → Group) : (s.updGroup c g f).records = s.records := rfl
@[simp] theorem State.updGroup_queues (s : State) (c g : Nat) (f : Group → Group) : (s.updGroup c g f).queues = s.queues := rfl
@[simp] theorem State.updGroup_blocked (s : State) (c g : Nat) (f : Group → Group) : (s.updGroup c g f).blocked = s.blocked := rfl
@[simp] theorem State.updGroup_nextGrid (s : State) (c g : Nat) (f : Group → Group) : (s.updGroup c g f).nextGrid = s.nextGrid := rfl
@[simp] theorem State.updGroup_grids (s : State) (c g : Nat) (f : Group → Group) : (s.updGroup c g f).grids = s.grids := rfl
@[simp] theorem State.updGroup_batch (s : State) (c g : Nat) (f : Group → Group) : (s.updGroup c g f).batch = s.batch := rfl
@[simp] theorem State.updGroup_colocate (s : State) (c g : Nat) (f : Group → Group) : (s.updGroup c g f).colocate = s.colocate := rfl
@[simp] theorem State.updGroup_plans (s : State) (c g : Nat) (f : Group → Group) : (s.updGroup c g f).plans = s.plans := rfl
@[simp] theorem State.updGroup_span (s : State) (c g : Nat) (f : Group → Group) : (s.updGroup c g f).span = s.span := rfl
@[simp] theorem State.updGroup_spans (s : State) (c g : Nat) (f : Group → Group) : (s.updGroup c g f).spans = s.spans := rfl
@[simp] theorem State.updGroup_readies (s : State) (c g : Nat) (f : Group → Group) : (s.updGroup c g f).readies = s.readies := rfl
@[simp] theorem State.updGroup_saved (s : State) (c g : Nat) (f : Group → Group) : (s.updGroup c g f).saved = s.saved := rfl
@[simp] theorem State.updGroup_voided (s : State) (c g : Nat) (f : Group → Group) : (s.updGroup c g f).voided = s.voided := rfl
@[simp] theorem State.updGroup_heldResumes (s : State) (c g : Nat) (f : Group → Group) : (s.updGroup c g f).heldResumes = s.heldResumes := rfl
@[simp] theorem State.updGroup_suspended (s : State) (c g : Nat) (f : Group → Group) : (s.updGroup c g f).suspended = s.suspended := rfl
@[simp] theorem State.updGroup_preOp (s : State) (c g : Nat) (f : Group → Group) : (s.updGroup c g f).preOp = s.preOp := rfl
@[simp] theorem State.updGroup_kills (s : State) (c g : Nat) (f : Group → Group) : (s.updGroup c g f).kills = s.kills := rfl
@[simp] theorem State.updGroup_handles (s : State) (c g : Nat) (f : Group → Group) : (s.updGroup c g f).handles = s.handles := rfl
@[simp] theorem State.updGroup_nextSeq (s : State) (c g : Nat) (f : Group → Group) : (s.updGroup c g f).nextSeq = s.nextSeq := rfl
@[simp] theorem State.updGroup_moves (s : State) (c g : Nat) (f : Group → Group) : (s.updGroup c g f).moves = s.moves := rfl
@[simp] theorem State.updGroup_move (s : State) (c g : Nat) (f : Group → Group) : (s.updGroup c g f).move = s.move := rfl
@[simp] theorem State.updGroup_autoTried (s : State) (c g : Nat) (f : Group → Group) : (s.updGroup c g f).autoTried = s.autoTried := rfl
@[simp] theorem State.updGroup_nets (s : State) (c g : Nat) (f : Group → Group) : (s.updGroup c g f).nets = s.nets := rfl
@[simp] theorem State.updGroup_subs (s : State) (c g : Nat) (f : Group → Group) : (s.updGroup c g f).subs = s.subs := rfl
@[simp] theorem State.updGroup_nextSub (s : State) (c g : Nat) (f : Group → Group) : (s.updGroup c g f).nextSub = s.nextSub := rfl
@[simp] theorem State.updGroup_submitters (s : State) (c g : Nat) (f : Group → Group) : (s.updGroup c g f).submitters = s.submitters := rfl
@[simp] theorem State.updGroup_owed (s : State) (c g : Nat) (f : Group → Group) : (s.updGroup c g f).owed = s.owed := rfl
@[simp] theorem State.updGroup_collSeq (s : State) (c g : Nat) (f : Group → Group) : (s.updGroup c g f).collSeq = s.collSeq := rfl
@[simp] theorem State.updGroup_records2 (s : State) (c g : Nat) (f : Group → Group) : (s.updGroup c g f).records2 = s.records2 := rfl
@[simp] theorem State.updGroup_trapPushes (s : State) (c g : Nat) (f : Group → Group) : (s.updGroup c g f).trapPushes = s.trapPushes := rfl
@[simp] theorem State.updGroup_messages (s : State) (c g : Nat) (f : Group → Group) : (s.updGroup c g f).messages = s.messages := rfl
@[simp] theorem State.updGroup_turns (s : State) (c g : Nat) (f : Group → Group) : (s.updGroup c g f).turns = s.turns := rfl
@[simp] theorem State.updGroup_cur (s : State) (c g : Nat) (f : Group → Group) : (s.updGroup c g f).cur = s.cur := rfl
@[simp] theorem State.updGroup_freeCtr (s : State) (c g : Nat) (f : Group → Group) : (s.updGroup c g f).freeCtr = s.freeCtr := rfl
@[simp] theorem State.updGroup_decayed (s : State) (c g : Nat) (f : Group → Group) : (s.updGroup c g f).decayed = s.decayed := rfl

/-! ## updCluster -/

@[simp] theorem State.updCluster_gtb (s : State) (c l : Nat) (f : Cluster → Cluster) : (s.updCluster c l f).gtb = s.gtb := rfl
@[simp] theorem State.updCluster_mem (s : State) (c l : Nat) (f : Cluster → Cluster) : (s.updCluster c l f).mem = s.mem := rfl
@[simp] theorem State.updCluster_dies (s : State) (c l : Nat) (f : Cluster → Cluster) : (s.updCluster c l f).dies = s.dies := rfl
@[simp] theorem State.updCluster_regs (s : State) (c l : Nat) (f : Cluster → Cluster) : (s.updCluster c l f).regs = s.regs := rfl
@[simp] theorem State.updCluster_plat (s : State) (c l : Nat) (f : Cluster → Cluster) : (s.updCluster c l f).plat = s.plat := rfl
@[simp] theorem State.updCluster_fabric (s : State) (c l : Nat) (f : Cluster → Cluster) : (s.updCluster c l f).fabric = s.fabric := rfl
@[simp] theorem State.updCluster_records (s : State) (c l : Nat) (f : Cluster → Cluster) : (s.updCluster c l f).records = s.records := rfl
@[simp] theorem State.updCluster_queues (s : State) (c l : Nat) (f : Cluster → Cluster) : (s.updCluster c l f).queues = s.queues := rfl
@[simp] theorem State.updCluster_blocked (s : State) (c l : Nat) (f : Cluster → Cluster) : (s.updCluster c l f).blocked = s.blocked := rfl
@[simp] theorem State.updCluster_nextGrid (s : State) (c l : Nat) (f : Cluster → Cluster) : (s.updCluster c l f).nextGrid = s.nextGrid := rfl
@[simp] theorem State.updCluster_grids (s : State) (c l : Nat) (f : Cluster → Cluster) : (s.updCluster c l f).grids = s.grids := rfl
@[simp] theorem State.updCluster_batch (s : State) (c l : Nat) (f : Cluster → Cluster) : (s.updCluster c l f).batch = s.batch := rfl
@[simp] theorem State.updCluster_colocate (s : State) (c l : Nat) (f : Cluster → Cluster) : (s.updCluster c l f).colocate = s.colocate := rfl
@[simp] theorem State.updCluster_plans (s : State) (c l : Nat) (f : Cluster → Cluster) : (s.updCluster c l f).plans = s.plans := rfl
@[simp] theorem State.updCluster_span (s : State) (c l : Nat) (f : Cluster → Cluster) : (s.updCluster c l f).span = s.span := rfl
@[simp] theorem State.updCluster_spans (s : State) (c l : Nat) (f : Cluster → Cluster) : (s.updCluster c l f).spans = s.spans := rfl
@[simp] theorem State.updCluster_readies (s : State) (c l : Nat) (f : Cluster → Cluster) : (s.updCluster c l f).readies = s.readies := rfl
@[simp] theorem State.updCluster_saved (s : State) (c l : Nat) (f : Cluster → Cluster) : (s.updCluster c l f).saved = s.saved := rfl
@[simp] theorem State.updCluster_voided (s : State) (c l : Nat) (f : Cluster → Cluster) : (s.updCluster c l f).voided = s.voided := rfl
@[simp] theorem State.updCluster_heldResumes (s : State) (c l : Nat) (f : Cluster → Cluster) : (s.updCluster c l f).heldResumes = s.heldResumes := rfl
@[simp] theorem State.updCluster_suspended (s : State) (c l : Nat) (f : Cluster → Cluster) : (s.updCluster c l f).suspended = s.suspended := rfl
@[simp] theorem State.updCluster_preOp (s : State) (c l : Nat) (f : Cluster → Cluster) : (s.updCluster c l f).preOp = s.preOp := rfl
@[simp] theorem State.updCluster_kills (s : State) (c l : Nat) (f : Cluster → Cluster) : (s.updCluster c l f).kills = s.kills := rfl
@[simp] theorem State.updCluster_handles (s : State) (c l : Nat) (f : Cluster → Cluster) : (s.updCluster c l f).handles = s.handles := rfl
@[simp] theorem State.updCluster_nextSeq (s : State) (c l : Nat) (f : Cluster → Cluster) : (s.updCluster c l f).nextSeq = s.nextSeq := rfl
@[simp] theorem State.updCluster_moves (s : State) (c l : Nat) (f : Cluster → Cluster) : (s.updCluster c l f).moves = s.moves := rfl
@[simp] theorem State.updCluster_move (s : State) (c l : Nat) (f : Cluster → Cluster) : (s.updCluster c l f).move = s.move := rfl
@[simp] theorem State.updCluster_autoTried (s : State) (c l : Nat) (f : Cluster → Cluster) : (s.updCluster c l f).autoTried = s.autoTried := rfl
@[simp] theorem State.updCluster_nets (s : State) (c l : Nat) (f : Cluster → Cluster) : (s.updCluster c l f).nets = s.nets := rfl
@[simp] theorem State.updCluster_subs (s : State) (c l : Nat) (f : Cluster → Cluster) : (s.updCluster c l f).subs = s.subs := rfl
@[simp] theorem State.updCluster_nextSub (s : State) (c l : Nat) (f : Cluster → Cluster) : (s.updCluster c l f).nextSub = s.nextSub := rfl
@[simp] theorem State.updCluster_submitters (s : State) (c l : Nat) (f : Cluster → Cluster) : (s.updCluster c l f).submitters = s.submitters := rfl
@[simp] theorem State.updCluster_owed (s : State) (c l : Nat) (f : Cluster → Cluster) : (s.updCluster c l f).owed = s.owed := rfl
@[simp] theorem State.updCluster_collSeq (s : State) (c l : Nat) (f : Cluster → Cluster) : (s.updCluster c l f).collSeq = s.collSeq := rfl
@[simp] theorem State.updCluster_records2 (s : State) (c l : Nat) (f : Cluster → Cluster) : (s.updCluster c l f).records2 = s.records2 := rfl
@[simp] theorem State.updCluster_trapPushes (s : State) (c l : Nat) (f : Cluster → Cluster) : (s.updCluster c l f).trapPushes = s.trapPushes := rfl
@[simp] theorem State.updCluster_messages (s : State) (c l : Nat) (f : Cluster → Cluster) : (s.updCluster c l f).messages = s.messages := rfl
@[simp] theorem State.updCluster_turns (s : State) (c l : Nat) (f : Cluster → Cluster) : (s.updCluster c l f).turns = s.turns := rfl
@[simp] theorem State.updCluster_cur (s : State) (c l : Nat) (f : Cluster → Cluster) : (s.updCluster c l f).cur = s.cur := rfl
@[simp] theorem State.updCluster_freeCtr (s : State) (c l : Nat) (f : Cluster → Cluster) : (s.updCluster c l f).freeCtr = s.freeCtr := rfl
@[simp] theorem State.updCluster_decayed (s : State) (c l : Nat) (f : Cluster → Cluster) : (s.updCluster c l f).decayed = s.decayed := rfl

/-! ## setFerry -/

@[simp] theorem State.setFerry_gtb (s : State) (c n : Nat) (x : Ferry) : (s.setFerry c n x).gtb = s.gtb := rfl
@[simp] theorem State.setFerry_mem (s : State) (c n : Nat) (x : Ferry) : (s.setFerry c n x).mem = s.mem := rfl
@[simp] theorem State.setFerry_dies (s : State) (c n : Nat) (x : Ferry) : (s.setFerry c n x).dies = s.dies := rfl
@[simp] theorem State.setFerry_regs (s : State) (c n : Nat) (x : Ferry) : (s.setFerry c n x).regs = s.regs := rfl
@[simp] theorem State.setFerry_plat (s : State) (c n : Nat) (x : Ferry) : (s.setFerry c n x).plat = s.plat := rfl
@[simp] theorem State.setFerry_fabric (s : State) (c n : Nat) (x : Ferry) : (s.setFerry c n x).fabric = s.fabric := rfl
@[simp] theorem State.setFerry_records (s : State) (c n : Nat) (x : Ferry) : (s.setFerry c n x).records = s.records := rfl
@[simp] theorem State.setFerry_queues (s : State) (c n : Nat) (x : Ferry) : (s.setFerry c n x).queues = s.queues := rfl
@[simp] theorem State.setFerry_blocked (s : State) (c n : Nat) (x : Ferry) : (s.setFerry c n x).blocked = s.blocked := rfl
@[simp] theorem State.setFerry_nextGrid (s : State) (c n : Nat) (x : Ferry) : (s.setFerry c n x).nextGrid = s.nextGrid := rfl
@[simp] theorem State.setFerry_grids (s : State) (c n : Nat) (x : Ferry) : (s.setFerry c n x).grids = s.grids := rfl
@[simp] theorem State.setFerry_batch (s : State) (c n : Nat) (x : Ferry) : (s.setFerry c n x).batch = s.batch := rfl
@[simp] theorem State.setFerry_colocate (s : State) (c n : Nat) (x : Ferry) : (s.setFerry c n x).colocate = s.colocate := rfl
@[simp] theorem State.setFerry_plans (s : State) (c n : Nat) (x : Ferry) : (s.setFerry c n x).plans = s.plans := rfl
@[simp] theorem State.setFerry_span (s : State) (c n : Nat) (x : Ferry) : (s.setFerry c n x).span = s.span := rfl
@[simp] theorem State.setFerry_spans (s : State) (c n : Nat) (x : Ferry) : (s.setFerry c n x).spans = s.spans := rfl
@[simp] theorem State.setFerry_readies (s : State) (c n : Nat) (x : Ferry) : (s.setFerry c n x).readies = s.readies := rfl
@[simp] theorem State.setFerry_saved (s : State) (c n : Nat) (x : Ferry) : (s.setFerry c n x).saved = s.saved := rfl
@[simp] theorem State.setFerry_voided (s : State) (c n : Nat) (x : Ferry) : (s.setFerry c n x).voided = s.voided := rfl
@[simp] theorem State.setFerry_heldResumes (s : State) (c n : Nat) (x : Ferry) : (s.setFerry c n x).heldResumes = s.heldResumes := rfl
@[simp] theorem State.setFerry_suspended (s : State) (c n : Nat) (x : Ferry) : (s.setFerry c n x).suspended = s.suspended := rfl
@[simp] theorem State.setFerry_preOp (s : State) (c n : Nat) (x : Ferry) : (s.setFerry c n x).preOp = s.preOp := rfl
@[simp] theorem State.setFerry_kills (s : State) (c n : Nat) (x : Ferry) : (s.setFerry c n x).kills = s.kills := rfl
@[simp] theorem State.setFerry_handles (s : State) (c n : Nat) (x : Ferry) : (s.setFerry c n x).handles = s.handles := rfl
@[simp] theorem State.setFerry_nextSeq (s : State) (c n : Nat) (x : Ferry) : (s.setFerry c n x).nextSeq = s.nextSeq := rfl
@[simp] theorem State.setFerry_moves (s : State) (c n : Nat) (x : Ferry) : (s.setFerry c n x).moves = s.moves := rfl
@[simp] theorem State.setFerry_move (s : State) (c n : Nat) (x : Ferry) : (s.setFerry c n x).move = s.move := rfl
@[simp] theorem State.setFerry_autoTried (s : State) (c n : Nat) (x : Ferry) : (s.setFerry c n x).autoTried = s.autoTried := rfl
@[simp] theorem State.setFerry_nets (s : State) (c n : Nat) (x : Ferry) : (s.setFerry c n x).nets = s.nets := rfl
@[simp] theorem State.setFerry_subs (s : State) (c n : Nat) (x : Ferry) : (s.setFerry c n x).subs = s.subs := rfl
@[simp] theorem State.setFerry_nextSub (s : State) (c n : Nat) (x : Ferry) : (s.setFerry c n x).nextSub = s.nextSub := rfl
@[simp] theorem State.setFerry_submitters (s : State) (c n : Nat) (x : Ferry) : (s.setFerry c n x).submitters = s.submitters := rfl
@[simp] theorem State.setFerry_owed (s : State) (c n : Nat) (x : Ferry) : (s.setFerry c n x).owed = s.owed := rfl
@[simp] theorem State.setFerry_collSeq (s : State) (c n : Nat) (x : Ferry) : (s.setFerry c n x).collSeq = s.collSeq := rfl
@[simp] theorem State.setFerry_records2 (s : State) (c n : Nat) (x : Ferry) : (s.setFerry c n x).records2 = s.records2 := rfl
@[simp] theorem State.setFerry_trapPushes (s : State) (c n : Nat) (x : Ferry) : (s.setFerry c n x).trapPushes = s.trapPushes := rfl
@[simp] theorem State.setFerry_messages (s : State) (c n : Nat) (x : Ferry) : (s.setFerry c n x).messages = s.messages := rfl
@[simp] theorem State.setFerry_turns (s : State) (c n : Nat) (x : Ferry) : (s.setFerry c n x).turns = s.turns := rfl
@[simp] theorem State.setFerry_cur (s : State) (c n : Nat) (x : Ferry) : (s.setFerry c n x).cur = s.cur := rfl
@[simp] theorem State.setFerry_freeCtr (s : State) (c n : Nat) (x : Ferry) : (s.setFerry c n x).freeCtr = s.freeCtr := rfl
@[simp] theorem State.setFerry_decayed (s : State) (c n : Nat) (x : Ferry) : (s.setFerry c n x).decayed = s.decayed := rfl

/-! ## updFerry -/

@[simp] theorem State.updFerry_gtb (s : State) (c n : Nat) (f : Ferry → Ferry) : (s.updFerry c n f).gtb = s.gtb := rfl
@[simp] theorem State.updFerry_mem (s : State) (c n : Nat) (f : Ferry → Ferry) : (s.updFerry c n f).mem = s.mem := rfl
@[simp] theorem State.updFerry_dies (s : State) (c n : Nat) (f : Ferry → Ferry) : (s.updFerry c n f).dies = s.dies := rfl
@[simp] theorem State.updFerry_regs (s : State) (c n : Nat) (f : Ferry → Ferry) : (s.updFerry c n f).regs = s.regs := rfl
@[simp] theorem State.updFerry_plat (s : State) (c n : Nat) (f : Ferry → Ferry) : (s.updFerry c n f).plat = s.plat := rfl
@[simp] theorem State.updFerry_fabric (s : State) (c n : Nat) (f : Ferry → Ferry) : (s.updFerry c n f).fabric = s.fabric := rfl
@[simp] theorem State.updFerry_records (s : State) (c n : Nat) (f : Ferry → Ferry) : (s.updFerry c n f).records = s.records := rfl
@[simp] theorem State.updFerry_queues (s : State) (c n : Nat) (f : Ferry → Ferry) : (s.updFerry c n f).queues = s.queues := rfl
@[simp] theorem State.updFerry_blocked (s : State) (c n : Nat) (f : Ferry → Ferry) : (s.updFerry c n f).blocked = s.blocked := rfl
@[simp] theorem State.updFerry_nextGrid (s : State) (c n : Nat) (f : Ferry → Ferry) : (s.updFerry c n f).nextGrid = s.nextGrid := rfl
@[simp] theorem State.updFerry_grids (s : State) (c n : Nat) (f : Ferry → Ferry) : (s.updFerry c n f).grids = s.grids := rfl
@[simp] theorem State.updFerry_batch (s : State) (c n : Nat) (f : Ferry → Ferry) : (s.updFerry c n f).batch = s.batch := rfl
@[simp] theorem State.updFerry_colocate (s : State) (c n : Nat) (f : Ferry → Ferry) : (s.updFerry c n f).colocate = s.colocate := rfl
@[simp] theorem State.updFerry_plans (s : State) (c n : Nat) (f : Ferry → Ferry) : (s.updFerry c n f).plans = s.plans := rfl
@[simp] theorem State.updFerry_span (s : State) (c n : Nat) (f : Ferry → Ferry) : (s.updFerry c n f).span = s.span := rfl
@[simp] theorem State.updFerry_spans (s : State) (c n : Nat) (f : Ferry → Ferry) : (s.updFerry c n f).spans = s.spans := rfl
@[simp] theorem State.updFerry_readies (s : State) (c n : Nat) (f : Ferry → Ferry) : (s.updFerry c n f).readies = s.readies := rfl
@[simp] theorem State.updFerry_saved (s : State) (c n : Nat) (f : Ferry → Ferry) : (s.updFerry c n f).saved = s.saved := rfl
@[simp] theorem State.updFerry_voided (s : State) (c n : Nat) (f : Ferry → Ferry) : (s.updFerry c n f).voided = s.voided := rfl
@[simp] theorem State.updFerry_heldResumes (s : State) (c n : Nat) (f : Ferry → Ferry) : (s.updFerry c n f).heldResumes = s.heldResumes := rfl
@[simp] theorem State.updFerry_suspended (s : State) (c n : Nat) (f : Ferry → Ferry) : (s.updFerry c n f).suspended = s.suspended := rfl
@[simp] theorem State.updFerry_preOp (s : State) (c n : Nat) (f : Ferry → Ferry) : (s.updFerry c n f).preOp = s.preOp := rfl
@[simp] theorem State.updFerry_kills (s : State) (c n : Nat) (f : Ferry → Ferry) : (s.updFerry c n f).kills = s.kills := rfl
@[simp] theorem State.updFerry_handles (s : State) (c n : Nat) (f : Ferry → Ferry) : (s.updFerry c n f).handles = s.handles := rfl
@[simp] theorem State.updFerry_nextSeq (s : State) (c n : Nat) (f : Ferry → Ferry) : (s.updFerry c n f).nextSeq = s.nextSeq := rfl
@[simp] theorem State.updFerry_moves (s : State) (c n : Nat) (f : Ferry → Ferry) : (s.updFerry c n f).moves = s.moves := rfl
@[simp] theorem State.updFerry_move (s : State) (c n : Nat) (f : Ferry → Ferry) : (s.updFerry c n f).move = s.move := rfl
@[simp] theorem State.updFerry_autoTried (s : State) (c n : Nat) (f : Ferry → Ferry) : (s.updFerry c n f).autoTried = s.autoTried := rfl
@[simp] theorem State.updFerry_nets (s : State) (c n : Nat) (f : Ferry → Ferry) : (s.updFerry c n f).nets = s.nets := rfl
@[simp] theorem State.updFerry_subs (s : State) (c n : Nat) (f : Ferry → Ferry) : (s.updFerry c n f).subs = s.subs := rfl
@[simp] theorem State.updFerry_nextSub (s : State) (c n : Nat) (f : Ferry → Ferry) : (s.updFerry c n f).nextSub = s.nextSub := rfl
@[simp] theorem State.updFerry_submitters (s : State) (c n : Nat) (f : Ferry → Ferry) : (s.updFerry c n f).submitters = s.submitters := rfl
@[simp] theorem State.updFerry_owed (s : State) (c n : Nat) (f : Ferry → Ferry) : (s.updFerry c n f).owed = s.owed := rfl
@[simp] theorem State.updFerry_collSeq (s : State) (c n : Nat) (f : Ferry → Ferry) : (s.updFerry c n f).collSeq = s.collSeq := rfl
@[simp] theorem State.updFerry_records2 (s : State) (c n : Nat) (f : Ferry → Ferry) : (s.updFerry c n f).records2 = s.records2 := rfl
@[simp] theorem State.updFerry_trapPushes (s : State) (c n : Nat) (f : Ferry → Ferry) : (s.updFerry c n f).trapPushes = s.trapPushes := rfl
@[simp] theorem State.updFerry_messages (s : State) (c n : Nat) (f : Ferry → Ferry) : (s.updFerry c n f).messages = s.messages := rfl
@[simp] theorem State.updFerry_turns (s : State) (c n : Nat) (f : Ferry → Ferry) : (s.updFerry c n f).turns = s.turns := rfl
@[simp] theorem State.updFerry_cur (s : State) (c n : Nat) (f : Ferry → Ferry) : (s.updFerry c n f).cur = s.cur := rfl
@[simp] theorem State.updFerry_freeCtr (s : State) (c n : Nat) (f : Ferry → Ferry) : (s.updFerry c n f).freeCtr = s.freeCtr := rfl
@[simp] theorem State.updFerry_decayed (s : State) (c n : Nat) (f : Ferry → Ferry) : (s.updFerry c n f).decayed = s.decayed := rfl

/-! ## dropFerry -/

@[simp] theorem State.dropFerry_gtb (s : State) (c n : Nat) : (s.dropFerry c n).gtb = s.gtb := rfl
@[simp] theorem State.dropFerry_mem (s : State) (c n : Nat) : (s.dropFerry c n).mem = s.mem := rfl
@[simp] theorem State.dropFerry_dies (s : State) (c n : Nat) : (s.dropFerry c n).dies = s.dies := rfl
@[simp] theorem State.dropFerry_regs (s : State) (c n : Nat) : (s.dropFerry c n).regs = s.regs := rfl
@[simp] theorem State.dropFerry_plat (s : State) (c n : Nat) : (s.dropFerry c n).plat = s.plat := rfl
@[simp] theorem State.dropFerry_fabric (s : State) (c n : Nat) : (s.dropFerry c n).fabric = s.fabric := rfl
@[simp] theorem State.dropFerry_records (s : State) (c n : Nat) : (s.dropFerry c n).records = s.records := rfl
@[simp] theorem State.dropFerry_queues (s : State) (c n : Nat) : (s.dropFerry c n).queues = s.queues := rfl
@[simp] theorem State.dropFerry_blocked (s : State) (c n : Nat) : (s.dropFerry c n).blocked = s.blocked := rfl
@[simp] theorem State.dropFerry_nextGrid (s : State) (c n : Nat) : (s.dropFerry c n).nextGrid = s.nextGrid := rfl
@[simp] theorem State.dropFerry_grids (s : State) (c n : Nat) : (s.dropFerry c n).grids = s.grids := rfl
@[simp] theorem State.dropFerry_batch (s : State) (c n : Nat) : (s.dropFerry c n).batch = s.batch := rfl
@[simp] theorem State.dropFerry_colocate (s : State) (c n : Nat) : (s.dropFerry c n).colocate = s.colocate := rfl
@[simp] theorem State.dropFerry_plans (s : State) (c n : Nat) : (s.dropFerry c n).plans = s.plans := rfl
@[simp] theorem State.dropFerry_span (s : State) (c n : Nat) : (s.dropFerry c n).span = s.span := rfl
@[simp] theorem State.dropFerry_spans (s : State) (c n : Nat) : (s.dropFerry c n).spans = s.spans := rfl
@[simp] theorem State.dropFerry_readies (s : State) (c n : Nat) : (s.dropFerry c n).readies = s.readies := rfl
@[simp] theorem State.dropFerry_saved (s : State) (c n : Nat) : (s.dropFerry c n).saved = s.saved := rfl
@[simp] theorem State.dropFerry_voided (s : State) (c n : Nat) : (s.dropFerry c n).voided = s.voided := rfl
@[simp] theorem State.dropFerry_heldResumes (s : State) (c n : Nat) : (s.dropFerry c n).heldResumes = s.heldResumes := rfl
@[simp] theorem State.dropFerry_suspended (s : State) (c n : Nat) : (s.dropFerry c n).suspended = s.suspended := rfl
@[simp] theorem State.dropFerry_preOp (s : State) (c n : Nat) : (s.dropFerry c n).preOp = s.preOp := rfl
@[simp] theorem State.dropFerry_kills (s : State) (c n : Nat) : (s.dropFerry c n).kills = s.kills := rfl
@[simp] theorem State.dropFerry_handles (s : State) (c n : Nat) : (s.dropFerry c n).handles = s.handles := rfl
@[simp] theorem State.dropFerry_nextSeq (s : State) (c n : Nat) : (s.dropFerry c n).nextSeq = s.nextSeq := rfl
@[simp] theorem State.dropFerry_moves (s : State) (c n : Nat) : (s.dropFerry c n).moves = s.moves := rfl
@[simp] theorem State.dropFerry_move (s : State) (c n : Nat) : (s.dropFerry c n).move = s.move := rfl
@[simp] theorem State.dropFerry_autoTried (s : State) (c n : Nat) : (s.dropFerry c n).autoTried = s.autoTried := rfl
@[simp] theorem State.dropFerry_nets (s : State) (c n : Nat) : (s.dropFerry c n).nets = s.nets := rfl
@[simp] theorem State.dropFerry_subs (s : State) (c n : Nat) : (s.dropFerry c n).subs = s.subs := rfl
@[simp] theorem State.dropFerry_nextSub (s : State) (c n : Nat) : (s.dropFerry c n).nextSub = s.nextSub := rfl
@[simp] theorem State.dropFerry_submitters (s : State) (c n : Nat) : (s.dropFerry c n).submitters = s.submitters := rfl
@[simp] theorem State.dropFerry_owed (s : State) (c n : Nat) : (s.dropFerry c n).owed = s.owed := rfl
@[simp] theorem State.dropFerry_collSeq (s : State) (c n : Nat) : (s.dropFerry c n).collSeq = s.collSeq := rfl
@[simp] theorem State.dropFerry_records2 (s : State) (c n : Nat) : (s.dropFerry c n).records2 = s.records2 := rfl
@[simp] theorem State.dropFerry_trapPushes (s : State) (c n : Nat) : (s.dropFerry c n).trapPushes = s.trapPushes := rfl
@[simp] theorem State.dropFerry_messages (s : State) (c n : Nat) : (s.dropFerry c n).messages = s.messages := rfl
@[simp] theorem State.dropFerry_turns (s : State) (c n : Nat) : (s.dropFerry c n).turns = s.turns := rfl
@[simp] theorem State.dropFerry_cur (s : State) (c n : Nat) : (s.dropFerry c n).cur = s.cur := rfl
@[simp] theorem State.dropFerry_freeCtr (s : State) (c n : Nat) : (s.dropFerry c n).freeCtr = s.freeCtr := rfl
@[simp] theorem State.dropFerry_decayed (s : State) (c n : Nat) : (s.dropFerry c n).decayed = s.decayed := rfl

/-! ## The part that an update changes -/

theorem State.core_setCore (s : State) (c k : Nat) (x : Core) : (s.setCore c x).core k = if k = c then x else s.core k := by
  simp [State.core, State.setCore, AMap.getD_put]

@[simp] theorem State.core_setCore_self (s : State) (c : Nat) (x : Core) : (s.setCore c x).core c = x := by
  simp [State.core_setCore]

theorem State.core_updCore (s : State) (c k : Nat) (f : Core → Core) :
    (s.updCore c f).core k = if k = c then f (s.core c) else s.core k := State.core_setCore s c k _

@[simp] theorem State.core_updCore_self (s : State) (c : Nat) (f : Core → Core) : (s.updCore c f).core c = f (s.core c) := by
  simp [State.core_updCore]

theorem State.die_setDie (s : State) (d k : Nat) (x : Die) : (s.setDie d x).die k = if k = d then x else s.die k := by
  simp [State.die, State.setDie, AMap.getD_put]

theorem State.die_updDie (s : State) (d k : Nat) (f : Die → Die) :
    (s.updDie d f).die k = if k = d then f (s.die d) else s.die k := State.die_setDie s d k _

@[simp] theorem State.die_updCore (s : State) (c d : Nat) (f : Core → Core) : (s.updCore c f).die d = s.die d := rfl
@[simp] theorem State.core_updDie (s : State) (c d : Nat) (f : Die → Die) : (s.updDie d f).core c = s.core c := rfl
@[simp] theorem State.grid_updCore (s : State) (c g : Nat) (f : Core → Core) : (s.updCore c f).grid g = s.grid g := rfl
@[simp] theorem State.coin_updCore (s : State) (c a b : Nat) (f : Core → Core) : (s.updCore c f).coin a b = s.coin a b := rfl
@[simp] theorem State.user_updCore (s : State) (c : Nat) (x : BitVec 12) (f : Core → Core) : (s.updCore c f).user x = s.user x := rfl

/-! ## Fibres -/

theorem State.core_updFibre (s : State) (c p k : Nat) (f : Fibre → Fibre) :
    (s.updFibre c p f).core k = if k = c then (s.core c).setFibre p (f (s.fibre c p)) else s.core k :=
  State.core_updCore s c k _

theorem State.fibre_updFibre (s : State) (c p b q : Nat) (f : Fibre → Fibre) :
    (s.updFibre c p f).fibre b q = if b = c ∧ q = p then f (s.fibre c p) else s.fibre b q := by
  simp only [State.fibre, State.core_updFibre]
  by_cases hb : b = c
  · subst hb
    simp only [if_true, true_and, Core.setFibre, AMap.getD_put]
  · simp [hb]

@[simp] theorem State.fibre_updFibre_self (s : State) (c p : Nat) (f : Fibre → Fibre) :
    (s.updFibre c p f).fibre c p = f (s.fibre c p) := by simp [State.fibre_updFibre]

theorem State.fibre_updFibre_ne (s : State) {c p b q : Nat} (f : Fibre → Fibre) (h : ¬(b = c ∧ q = p)) :
    (s.updFibre c p f).fibre b q = s.fibre b q := by simp [State.fibre_updFibre, h]

/-- Two changes of one fibre are one. -/
theorem State.updFibre_updFibre (s : State) (c p : Nat) (f g : Fibre → Fibre) :
    (s.updFibre c p f).updFibre c p g = s.updFibre c p (fun x => g (f x)) := by
  have h : (s.updFibre c p f).fibre c p = f (s.fibre c p) := State.fibre_updFibre_self s c p f
  unfold State.updFibre State.setFibre State.updCore at h ⊢
  rw [h]
  simp [State.setCore, State.core, Core.setFibre]

theorem State.group_updFibre (s : State) (c p b g : Nat) (f : Fibre → Fibre) :
    (s.updFibre c p f).group b g = s.group b g := by
  simp only [State.group, State.core_updFibre]
  by_cases hb : b = c
  · subst hb; simp [Core.setFibre]
  · simp [hb]

theorem State.ferry_updFibre (s : State) (c p b n : Nat) (f : Fibre → Fibre) :
    AMap.find ((s.updFibre c p f).core b).ferries n = AMap.find (s.core b).ferries n := by
  simp only [State.core_updFibre]
  by_cases hb : b = c
  · subst hb; simp [Core.setFibre]
  · simp [hb]

/-! ## Ferries -/

theorem State.core_setFerry (s : State) (c n k : Nat) (x : Ferry) :
    (s.setFerry c n x).core k = if k = c then { s.core c with ferries := AMap.put (s.core c).ferries n x } else s.core k :=
  State.core_updCore s c k _

theorem State.fibre_setFerry (s : State) (c n b p : Nat) (x : Ferry) : (s.setFerry c n x).fibre b p = s.fibre b p := by
  simp only [State.fibre, State.core_setFerry]
  by_cases hb : b = c
  · subst hb; simp
  · simp [hb]

theorem State.find_setFerry (s : State) (c n m : Nat) (x : Ferry) :
    AMap.find ((s.setFerry c n x).core c).ferries m = if m = n then some x else AMap.find (s.core c).ferries m := by
  simp [State.core_setFerry, AMap.find_put]

/-! ## Registers and predicates of one fibre -/

@[simp] theorem Fibre.write_pred (f : Fibre) (n : Nat) (v : Word) : (f.write n v).pred = f.pred := rfl
@[simp] theorem Fibre.write_pending (f : Fibre) (n : Nat) (v : Word) : (f.write n v).pending = f.pending := rfl
@[simp] theorem Fibre.write_flags (f : Fibre) (n : Nat) (v : Word) : (f.write n v).flags = f.flags := rfl
@[simp] theorem Fibre.write_fpstat (f : Fibre) (n : Nat) (v : Word) : (f.write n v).fpstat = f.fpstat := rfl
@[simp] theorem Fibre.write_pc (f : Fibre) (n : Nat) (v : Word) : (f.write n v).pc = f.pc := rfl
@[simp] theorem Fibre.write_length (f : Fibre) (n : Nat) (v : Word) : (f.write n v).window.length = f.window.length := by
  simp [Fibre.write]
@[simp] theorem Fibre.addFp_window (f : Fibre) (x : BitVec 5) : (f.addFp x).window = f.window := rfl
@[simp] theorem Fibre.addFp_pred (f : Fibre) (x : BitVec 5) : (f.addFp x).pred = f.pred := rfl
@[simp] theorem Fibre.addFp_pending (f : Fibre) (x : BitVec 5) : (f.addFp x).pending = f.pending := rfl
@[simp] theorem Fibre.addFp_flags (f : Fibre) (x : BitVec 5) : (f.addFp x).flags = f.flags := rfl

theorem Fibre.reg_write (f : Fibre) (n k : Nat) (v : Word) (h : n < f.window.length) :
    (f.write n v).reg k = if k = n then v else f.reg k := by
  simp only [Fibre.reg, Fibre.write, List.getD_eq_getElem?_getD, List.getElem?_set]
  by_cases hk : k = n
  · subst hk; simp [h]
  · simp [hk, Ne.symm hk]

/-- A write to p15 is discarded, and it reads 1 (R127). -/
@[simp] theorem Fibre.setPred_p15 (f : Fibre) (b : Bool) : f.setPred 15 b = f := rfl
@[simp] theorem Fibre.pbit_p15 (f : Fibre) : f.pbit 15 = true := rfl
@[simp] theorem Fibre.setPred_window (f : Fibre) (n : Nat) (b : Bool) : (f.setPred n b).window = f.window := by
  unfold Fibre.setPred; split <;> rfl
@[simp] theorem Fibre.setPred_pending (f : Fibre) (n : Nat) (b : Bool) : (f.setPred n b).pending = f.pending := by
  unfold Fibre.setPred; split <;> rfl

end Sys2Proof.Machine
end

