-- ==== Sys2Proof/Laws/Issue.lean ====
section
/-! SUPPORT. What issuing a word does, once for every word: the checks pass, the lanes take their turns, the ferry goes on. -/

namespace Sys2Proof.Machine

/-! ## States that agree outside the fibres of a core -/

theorem SameOutside.refl (c : Nat) (s : State) : SameOutside c s s := ⟨rfl, fun _ => rfl, fun _ _ => rfl, rfl⟩

theorem SameOutside.updCore {c : Nat} {s t : State} (h : SameOutside c s t) (f : Core → Core)
    (hf : ∀ k : Core, f k = { k with fibres := (f k).fibres, ferries := (f k).ferries, counters := (f k).counters }) :
    SameOutside c s (t.updCore c f) := by
  refine ⟨?_, h.bytes, fun b hb => ?_, ?_⟩
  · have := h.package
    simp only [State.updCore, State.setCore]
    rw [this]
  · simp [State.core_updCore, hb, h.cores b hb]
  · simp only [State.core_updCore_self]
    have h1 := h.core
    have h2 := hf (t.core c)
    generalize f (t.core c) = x at *
    generalize t.core c = y at *
    generalize s.core c = z at *
    rw [h1] at h2
    exact h2

theorem SameOutside.updFibre {c : Nat} {s t : State} (h : SameOutside c s t) (p : Nat) (f : Fibre → Fibre) :
    SameOutside c s (t.updFibre c p f) := h.updCore (fun k => k.setFibre p (f (t.fibre c p))) (fun _ => rfl)

theorem SameOutside.count {c : Nat} {s t : State} (h : SameOutside c s t) (x : BitVec 12) (f : Counters → Counters) :
    SameOutside c s (t.count c x f) := h.updCore _ (fun _ => rfl)

theorem SameOutside.setFerry {c : Nat} {s t : State} (h : SameOutside c s t) (n : Nat) (f : Ferry) :
    SameOutside c s (t.setFerry c n f) := h.updCore _ (fun _ => rfl)

theorem SameOutside.groups {c : Nat} {s t : State} (h : SameOutside c s t) : (t.core c).groups = (s.core c).groups :=
  by rw [h.core]

theorem SameOutside.group {c : Nat} {s t : State} (h : SameOutside c s t) (b g : Nat) : t.group b g = s.group b g := by
  by_cases hb : b = c
  · subst hb; simp [State.group, h.groups]
  · simp [State.group, h.cores b hb]

theorem SameOutside.freeCtr {c : Nat} {s t : State} (h : SameOutside c s t) : t.freeCtr = s.freeCtr :=
  by rw [h.package]
theorem SameOutside.coin {c : Nat} {s t : State} (h : SameOutside c s t) : t.coin = s.coin := by
  funext a b; simp [State.coin, h.freeCtr]
theorem SameOutside.gtb {c : Nat} {s t : State} (h : SameOutside c s t) : t.gtb = s.gtb := by rw [h.package]
theorem SameOutside.grids {c : Nat} {s t : State} (h : SameOutside c s t) : t.grids = s.grids := by rw [h.package]
theorem SameOutside.regs {c : Nat} {s t : State} (h : SameOutside c s t) : t.regs = s.regs := by rw [h.package]
theorem SameOutside.plat {c : Nat} {s t : State} (h : SameOutside c s t) : t.plat = s.plat := by rw [h.package]
theorem SameOutside.nets {c : Nat} {s t : State} (h : SameOutside c s t) : t.nets = s.nets := by rw [h.package]
theorem SameOutside.fabric {c : Nat} {s t : State} (h : SameOutside c s t) : t.fabric = s.fabric := by rw [h.package]
theorem SameOutside.records {c : Nat} {s t : State} (h : SameOutside c s t) : t.records = s.records :=
  by rw [h.package]

/-! ## What a lane reads while other lanes have changed -/

/-- A lane finds in `t` its own fibre as in `s`, and everything but fibres and counts of its core as in `s`. -/
structure Lane.Finds (l : Lane) (s t : State) : Prop where
  own     : t.fibre l.c l.p = s.fibre l.c l.p
  ferries : (t.core l.c).ferries = (s.core l.c).ferries
  rest    : SameOutside l.c s t

theorem Lane.Finds.refl (l : Lane) (s : State) : l.Finds s s := ⟨rfl, rfl, SameOutside.refl _ _⟩

section
variable {l : Lane} {s t : State}

theorem Lane.Finds.fibre (h : l.Finds s t) : l.fibre t = l.fibre s := h.own
theorem Lane.Finds.reg (h : l.Finds s t) (k : BitVec 8) : l.reg t k = l.reg s k := by
  simp [Lane.reg, h.fibre, h.rest.coin]
theorem Lane.Finds.regN (h : l.Finds s t) (k : Nat) : l.regN t k = l.regN s k := by
  simp [Lane.regN, h.fibre, h.rest.coin]
theorem Lane.Finds.pred (h : l.Finds s t) (k : Nat) : l.pred t k = l.pred s k := by
  simp [Lane.pred, h.fibre, h.rest.coin]
theorem Lane.Finds.helper (h : l.Finds s t) : l.helper t = l.helper s := by simp [Lane.helper, h.fibre]
theorem Lane.Finds.groupOf (h : l.Finds s t) : t.groupOf l.c l.p = s.groupOf l.c l.p := by
  simp [State.groupOf, h.rest.group, h.own]
theorem Lane.Finds.greg (h : l.Finds s t) (k : BitVec 8) : l.greg t k = l.greg s k := by simp [Lane.greg, h.groupOf]
theorem Lane.Finds.ctx (h : l.Finds s t) : l.ctx t = l.ctx s := by simp [Lane.ctx, State.ctxOf, h.groupOf]
theorem Lane.Finds.guard (h : l.Finds s t) (k : Checks) : l.guard t k = l.guard s k := by simp [Lane.guard, h.pred]
theorem Lane.Finds.named (h : l.Finds s t) (k : Checks) : (l.fibre t).named k = (l.fibre s).named k := by rw [h.fibre]
theorem Lane.Finds.ferry (h : l.Finds s t) (n : Nat) : t.ferry l.c n = s.ferry l.c n := by simp [State.ferry, h.ferries]
theorem Lane.Finds.inWindow (h : l.Finds s t) (k : Checks) : l.inWindow t k ↔ l.inWindow s k := by
  simp [Lane.inWindow, h.fibre]
end

/-! ## One lane -/

theorem Fibre.missing_eq_none {f : Fibre} {rs : List Nat} (h : ∀ r ∈ rs, r < f.window.length) : f.missing rs = none := by
  simp only [Fibre.missing, List.find?_eq_none, Fibre.has]
  intro r hr
  simp [h r hr]

theorem Lane.perform_go {l : Lane} {k : Checks} {body : Lane → State → LaneEnd} {s t : State} (hw : l.inWindow s k)
    (hg : l.guard s k = true) (hb : body l s = .go t) : l.perform k body s = some t := by
  unfold Lane.perform
  rw [Fibre.missing_eq_none hw.1]
  have h0 : (k.lane0 && (l.fibre s).lane != 0) = false := by
    cases hk : k.lane0 with
    | false => rfl
    | true => simp [hw.2 hk]
  simp [h0, hg, hb]

theorem Lane.perform_jump {l : Lane} {k : Checks} {body : Lane → State → LaneEnd} {s t : State} {pc : BitVec 48}
    (hw : l.inWindow s k) (hg : l.guard s k = true) (hb : body l s = .jump t pc) :
    l.perform k body s = some (t.leaveTo l.c l.p pc) := by
  unfold Lane.perform
  rw [Fibre.missing_eq_none hw.1]
  have h0 : (k.lane0 && (l.fibre s).lane != 0) = false := by
    cases hk : k.lane0 with
    | false => rfl
    | true => simp [hw.2 hk]
  simp [h0, hg, hb]

theorem Lane.perform_gone {l : Lane} {k : Checks} {body : Lane → State → LaneEnd} {s t : State} (hw : l.inWindow s k)
    (hg : l.guard s k = true) (hb : body l s = .gone t) : l.perform k body s = some t := by
  unfold Lane.perform
  rw [Fibre.missing_eq_none hw.1]
  have h0 : (k.lane0 && (l.fibre s).lane != 0) = false := by
    cases hk : k.lane0 with
    | false => rfl
    | true => simp [hw.2 hk]
  simp [h0, hg, hb]

theorem Lane.perform_trap {l : Lane} {k : Checks} {body : Lane → State → LaneEnd} {s t : State} {x : Trap}
    (hw : l.inWindow s k) (hg : l.guard s k = true) (hb : body l s = .trap t x) :
    l.perform k body s = some (t.takeTrap l.c l.p l.pc x) := by
  unfold Lane.perform
  rw [Fibre.missing_eq_none hw.1]
  have h0 : (k.lane0 && (l.fibre s).lane != 0) = false := by
    cases hk : k.lane0 with
    | false => rfl
    | true => simp [hw.2 hk]
  simp [h0, hg, hb]

theorem Lane.perform_skip {l : Lane} {k : Checks} {body : Lane → State → LaneEnd} {s : State} (hw : l.inWindow s k)
    (hg : l.guard s k = false) :
    l.perform k body s = some (if k.term then s.leaveTo l.c l.p (l.pc + 8) else s) := by
  unfold Lane.perform
  rw [Fibre.missing_eq_none hw.1]
  have h0 : (k.lane0 && (l.fibre s).lane != 0) = false := by
    cases hk : k.lane0 with
    | false => rfl
    | true => simp [hw.2 hk]
  simp only [h0, hg]
  cases k.term <;> rfl

/-- A lane in its window whose body ends in the state `f` gives: by going on, leaving for a block, or having left. -/
def Lane.Ends (l : Lane) (body : Lane → State → LaneEnd) (s t : State) : Prop :=
  body l s = .go t ∨ body l s = .gone t ∨ (∃ u pc, body l s = .jump u pc ∧ t = u.leaveTo l.c l.p pc) ∨
    (∃ u x, body l s = .trap u x ∧ t = u.takeTrap l.c l.p l.pc x)

theorem Lane.perform_after {l : Lane} {k : Checks} {body : Lane → State → LaneEnd} {f : Lane → State → State} {s : State}
    (hw : l.inWindow s k) (h : l.guard s k = true → l.Ends body s (f l s)) : l.perform k body s = some (l.after k f s) := by
  unfold Lane.after
  cases hg : l.guard s k with
  | false => rw [Lane.perform_skip hw hg]; simp
  | true =>
    simp only [if_true]
    rcases h hg with hb | hb | ⟨u, pc, hb, ht⟩ | ⟨u, x, hb, ht⟩
    · exact Lane.perform_go hw hg hb
    · exact Lane.perform_gone hw hg hb
    · rw [Lane.perform_jump hw hg hb, ht]
    · rw [Lane.perform_trap hw hg hb, ht]

/-! ## All lanes -/

theorem performLanes_after {k : Checks} {body : Lane → State → LaneEnd} {P : Lane → State → Prop} {f : Lane → State → State}
    (h : ∀ l s, l.inWindow s k → P l s → l.Ends body s (f l s)) :
    ∀ (ls : List Lane) (s : State), LanesMeet k P f ls s → performLanes k body ls s = some (lanesAfter k f ls s)
  | [], _, _ => rfl
  | l :: ls, s, hm => by
    obtain ⟨h1, h2⟩ := hm
    simp only [performLanes, lanesAfter]
    cases hl : l.left s with
    | true => simpa [hl] using performLanes_after h ls s (by simpa [hl] using h2)
    | false =>
      obtain ⟨hw, hP⟩ := h1 hl
      simp only [hl, Bool.false_eq_true, if_false] at h2 ⊢
      rw [Lane.perform_after hw (fun hg => h l s hw (hP hg))]
      exact performLanes_after h ls _ h2

/-! ## The checks of the whole ferry -/

theorem Admits.passes {s : State} {c n : Nat} {fy : Ferry} {k : Checks} (hf : AMap.find (s.core c).ferries n = some fy)
    (h : Admits s c n fy k) : s.ferryTrap c n k = none := by
  have hfy : s.ferry c n = fy := AMap.getD_of_find _ hf
  unfold State.ferryTrap
  simp only [hfy]
  have h1 : (if isControl c then !k.ctl else !k.main) = false := by
    have := h.core
    cases hc : isControl c <;> simp_all
  have h2 : (k.fl != .none && (fy.flagOf k.fl).isNone) = false := by
    rcases h.flag with hn | ⟨i, hi, -⟩
    · simp [hn]
    · simp [hi]
  have h3 : (k.priv && s.user fy.ctx) = false := by
    cases hp : k.priv with
    | false => rfl
    | true => simp [h.priv hp]
  have h4 : (k.quad && !((if fy.rs then fy.lanes.all (fun p => (s.fibre c p).blockQ) || s.coin c 4097 else fy.q)
      && fy.lanes.all (fun p => (s.groupOf c p).quads))) = false := by
    cases hq : k.quad with
    | false => rfl
    | true =>
      obtain ⟨hb, hp⟩ := h.quad hq
      cases hr : fy.rs <;> simp_all
  rw [h1, h2, h3, h4, h.clause]
  rfl

theorem Admits.room {s : State} {c n : Nat} {fy : Ferry} {k : Checks} (h : Admits s c n fy k) :
    s.flagFull fy k (fy.toLanes c n) = false := by
  unfold State.flagFull
  rcases h.flag with hn | ⟨i, hi, hr⟩
  · simp [hn, Ferry.flagOf]
  · simp only [hi, List.any_eq_false, Bool.and_eq_true, decide_eq_true_eq, not_and, Nat.not_le]
    exact hr

/-- Issuing a word whose checks pass and whose lanes all end as `f` says. -/
theorem issue_performs {k : Checks} {body : Lane → State → LaneEnd} {P : Lane → State → Prop} {f : Lane → State → State}
    (h : ∀ l s, l.inWindow s k → P l s → l.Ends body s (f l s)) {s : State} {c n : Nat} {fy : Ferry} (hi : Issues s c n fy)
    (ha : Admits s c n fy k) (hm : LanesMeet k P f (fy.toLanes c n) (s.counted c fy)) :
    issue k body s = .next ((lanesAfter k f (fy.toLanes c n) (s.counted c fy)).advance c n k.term) := by
  unfold issue
  simp only [hi.moves, hi.here, ha.passes hi.here, ha.room]
  have := performLanes_after h (fy.toLanes c n) (s.counted c fy) hm
  unfold State.counted at this ⊢
  rw [this]
  rfl

/-! ## Words that change only their fibres -/

/-- After some lanes: those have changed their fibres, nothing else has. -/
structure Midway (f : Lane → State → Fibre → Fibre) (k : Checks) (c : Nat) (s0 s : State) (done : List Lane)
    (t : State) : Prop where
  lanes   : ∀ l ∈ done, t.fibre c l.p = if l.guard s k then f l s (s.fibre c l.p) else s.fibre c l.p
  places  : ∀ p, p ∉ done.map (·.p) → t.fibre c p = s.fibre c p
  ferries : (t.core c).ferries = (s.core c).ferries
  words   : (t.core c).counters = (s0.core c).counters
  rest    : SameOutside c s t

theorem performLanes_midway {k : Checks} {body : Lane → State → LaneEnd} {P : Lane → State → Prop}
    {f : Lane → State → Fibre → Fibre} {s s0 : State} {c n : Nat} (hk : k.term = false)
    (h : ∀ l t, l.c = c → l.n = n → l.Finds s t → P l s → body l t = .go (t.updFibre l.c l.p (f l s))) :
    ∀ (ls done : List Lane) (t : State), ((done ++ ls).map (·.p)).Nodup → (∀ l ∈ ls, l.c = c ∧ l.n = n) →
      (∀ l ∈ ls, l.p ∈ (s.ferry c n).lanes) →
      (∀ l ∈ ls, l.inWindow s k ∧ (l.guard s k = true → P l s)) → Midway f k c s0 s done t →
      ∃ u, performLanes k body ls t = some u ∧ Midway f k c s0 s (done ++ ls) u
  | [], done, t, _, _, _, _, hm => ⟨t, rfl, by simpa using hm⟩
  | l :: ls, done, t, hnd, hc, hin, hp, hm => by
    obtain ⟨hlc, hln⟩ := hc l (by simp)
    have hnot : l.p ∉ done.map (·.p) := by
      intro hin
      rw [List.map_append, List.nodup_append] at hnd
      exact hnd.2.2 l.p hin l.p (by simp) rfl
    have hF : l.Finds s t := by
      refine ⟨?_, ?_, ?_⟩
      · rw [hlc]; exact hm.places _ hnot
      · rw [hlc]; exact hm.ferries
      · rw [hlc]; exact hm.rest
    obtain ⟨hw, hP⟩ := hp l (by simp)
    have hw' : l.inWindow t k := (hF.inWindow k).2 hw
    have hnd' : (((done ++ [l]) ++ ls).map (·.p)).Nodup := by simpa using hnd
    have key : ∃ u, l.perform k body t = some u ∧ Midway f k c s0 s (done ++ [l]) u := by
      cases hg : l.guard s k with
      | false =>
        refine ⟨t, ?_, ?_⟩
        · rw [Lane.perform_skip hw' (by rw [hF.guard]; exact hg), hk]; rfl
        · refine ⟨fun x hx => ?_, fun p hp => ?_, hm.ferries, hm.words, hm.rest⟩
          · rcases List.mem_append.1 hx with hx | hx
            · exact hm.lanes x hx
            · obtain rfl : x = l := by simpa using hx
              rw [hg]; simpa [hlc] using hF.own
          · exact hm.places p (by simp at hp ⊢; exact hp.1)
      | true =>
        refine ⟨_, Lane.perform_go hw' (by rw [hF.guard]; exact hg) (h l t hlc hln hF (hP hg)), ?_⟩
        rw [hlc]
        refine ⟨fun x hx => ?_, fun p hp => ?_, ?_, ?_, hm.rest.updFibre _ _⟩
        · rcases List.mem_append.1 hx with hx' | hx'
          · have hne : x.p ≠ l.p := fun he => hnot (he ▸ List.mem_map_of_mem hx')
            rw [State.fibre_updFibre_ne _ _ (by simp [hne])]
            exact hm.lanes x hx'
          · obtain rfl : x = l := by simpa using hx'
            have := hF.own
            rw [hlc] at this
            simp [hg, this]
        · have h1 : p ∉ done.map (·.p) ∧ p ≠ l.p := by
            simp at hp ⊢; exact ⟨hp.1, hp.2⟩
          rw [State.fibre_updFibre_ne _ _ (by simp [h1.2])]
          exact hm.places p h1.1
        · simp [State.core_updFibre, Core.setFibre, hm.ferries]
        · simp [State.core_updFibre, Core.setFibre, hm.words]
    obtain ⟨u, hu, hmu⟩ := key
    have hleft : l.left t = false := by
      have := hin l (by simp)
      simp only [Lane.left, State.ferry, hlc, hln, hm.ferries] at this ⊢
      simpa using this
    simp only [performLanes, hleft, Bool.false_eq_true, if_false, hu]
    have := performLanes_midway hk h ls (done ++ [l]) u hnd' (fun x hx => hc x (by simp [hx])) (fun x hx => hin x (by simp [hx]))
      (fun x hx => hp x (by simp [hx])) hmu
    simpa using this

theorem Ferry.toLanes_p (fy : Ferry) (c n : Nat) : (fy.toLanes c n).map (·.p) = fy.lanes := by
  simp [Ferry.toLanes, Function.comp_def]

theorem Ferry.toLanes_mem {fy : Ferry} {s : State} {c n : Nat} (h : AMap.find (s.core c).ferries n = some fy) :
    ∀ l ∈ fy.toLanes c n, l.p ∈ (s.ferry c n).lanes := by
  intro l hl
  rw [show s.ferry c n = fy from AMap.getD_of_find _ h, ← fy.toLanes_p c n]
  exact List.mem_map_of_mem hl

theorem Midway.start (f : Lane → State → Fibre → Fibre) (k : Checks) (c : Nat) (s : State) (x : BitVec 12)
    (g : Counters → Counters) : Midway f k c (s.count c x g) s [] (s.count c x g) :=
  ⟨by simp, fun p _ => by simp [State.count, State.fibre], by simp [State.count], rfl, (SameOutside.refl c s).count _ _⟩

theorem Midway.start' (f : Lane → State → Fibre → Fibre) (k : Checks) (c : Nat) (s : State) : Midway f k c s s [] s :=
  ⟨by simp, fun _ _ => rfl, rfl, rfl, SameOutside.refl c s⟩

/-- All lanes done, the ferry set: only the lanes' fibres have changed. -/
theorem Midway.finish {f : Lane → State → Fibre → Fibre} {k : Checks} {c n : Nat} {fy : Ferry} {s0 s u : State}
    (hm : Midway f k c s0 s (fy.toLanes c n) u) (fy' : Ferry) : LanesChange f k c n fy fy' s0 s (u.setFerry c n fy') := by
  refine ⟨fun l hl => ?_, fun p hp => ?_, ?_, fun m hmn => ?_, ?_, hm.rest.setFerry _ _⟩
  · rw [State.fibre_setFerry]; exact hm.lanes l hl
  · rw [State.fibre_setFerry]; exact hm.places p (by rw [Ferry.toLanes_p]; exact hp)
  · simp [State.find_setFerry]
  · simp [State.find_setFerry, hmn, hm.ferries]
  · simp [State.core_setFerry, hm.words]

/-- Issuing a word that changes only the fibres of its lanes. -/
theorem issue_changes {k : Checks} {body : Lane → State → LaneEnd} {P : Lane → State → Prop}
    {f : Lane → State → Fibre → Fibre} {s : State} {c n : Nat} {fy : Ferry} (hk : k.term = false)
    (h : ∀ l t, l.c = c → l.n = n → l.Finds s t → P l s → body l t = .go (t.updFibre l.c l.p (f l s)))
    (hi : Issues s c n fy) (ha : Admits s c n fy k)
    (hp : ∀ l ∈ fy.toLanes c n, l.inWindow s k ∧ (l.guard s k = true → P l s)) :
    ∃ t, issue k body s = .next t ∧ LanesChange f k c n fy fy.onward (s.counted c fy) s t := by
  obtain ⟨u, hu, hm⟩ := performLanes_midway (n := n) hk h (fy.toLanes c n) [] (s.counted c fy)
    (by rw [List.nil_append, Ferry.toLanes_p]; exact hi.once) (by simp [Ferry.toLanes]) (Ferry.toLanes_mem hi.here) hp (Midway.start f k c s _ _)
  rw [List.nil_append] at hm
  have hfu : AMap.find (u.core c).ferries n = some fy := by rw [hm.ferries]; exact hi.here
  have hadv : u.advance c n k.term = u.setFerry c n fy.onward := by
    have hne : fy.lanes.isEmpty = false := by
      cases hl : fy.lanes with
      | nil => exact absurd hl hi.some_
      | cons a b => rfl
    simp [State.advance, hfu, hk, hne, Ferry.onward]
  refine ⟨u.setFerry c n fy.onward, ?_, hm.finish _⟩
  unfold issue
  simp only [hi.moves, hi.here, ha.passes hi.here, ha.room]
  unfold State.counted at hu
  rw [hu]
  simp [hadv]

theorem Ferry.atHalf1_eq (fy : Ferry) : flag (fy.pc.setWidth 64) 2 = fy.atHalf1 := by
  simp only [flag, fld, bitsAt, Ferry.atHalf1, BitVec.getLsbD, Nat.testBit_eq_decide_div_mod_eq, Nat.shiftRight_eq_div_pow]
  have : (fy.pc.setWidth 64).toNat = fy.pc.toNat := by simp; omega
  rw [this, Bool.eq_iff_iff, beq_iff_eq, decide_eq_true_iff, Nat.pow_one]

/-- Issuing a half. -/
theorem issueHalf_changes {g : Nat} {regs : List Nat} {body : Lane → State → LaneEnd}
    {f : Lane → State → Fibre → Fibre} {s : State} {c n : Nat} {fy : Ferry}
    (h : ∀ l t, l.c = c → l.n = n → l.Finds s t → body l t = .go (t.updFibre l.c l.p (f l s)))
    (hi : Issues s c n fy) (hp : ∀ l ∈ fy.toLanes c n, l.inWindow s (halfChecks g regs)) :
    ∃ t, issueHalf g regs body s = .next t ∧
      LanesChange f (halfChecks g regs) c n fy fy.halfOnward (s.countedHalf c fy) s t := by
  have h0 : Midway f (halfChecks g regs) c (s.countedHalf c fy) s [] (s.countedHalf c fy) := by
    unfold State.countedHalf
    split
    · exact Midway.start' f _ c s
    · exact Midway.start f _ c s _ _
  obtain ⟨u, hu, hm⟩ := performLanes_midway (P := fun _ _ => True) (n := n) (k := halfChecks g regs) rfl
    (fun l t h1 h2 h3 _ => h l t h1 h2 h3) (fy.toLanes c n) [] (s.countedHalf c fy)
    (by rw [List.nil_append, Ferry.toLanes_p]; exact hi.once) (by simp [Ferry.toLanes])
    (Ferry.toLanes_mem hi.here) (fun l hl => ⟨hp l hl, fun _ => trivial⟩) h0
  rw [List.nil_append] at hm
  have hfu : AMap.find (u.core c).ferries n = some fy := by rw [hm.ferries]; exact hi.here
  refine ⟨u.setFerry c n fy.halfOnward, ?_, hm.finish _⟩
  unfold issueHalf
  simp only [hi.moves, hi.here, Ferry.atHalf1_eq]
  unfold State.countedHalf State.counted halfChecks at hu
  rw [hu]
  simp only [hfu, Ferry.halfOnward]
  cases fy.atHalf1 <;> rfl

/-! ## Streams -/

theorem issueStream_next {body : Nat → Nat → Stream → State → StreamEnd} {s t : State} {c g : Nat} {x : Stream}
    (h : StreamRuns s c g x) (hb : body c g x s = .next t) : issueStream body s = .next (t.streamOn c g x) := by
  unfold issueStream
  simp only [h.moves, h.here, h.runs, if_true, hb]
  rfl

end Sys2Proof.Machine
end

