-- ==== Sys2Proof/Laws/Memory.lean ====
section
/-! SUPPORT. Memory keeps its canonical form, a read after a write gives what was written, and a write leaves every other
byte alone. -/

namespace Sys2Proof.Machine

/-! ## The canonical form -/

theorem Memory.wfFrom_mono {m : Memory} {lo hi : Nat} (h : Memory.wfFrom hi m = true) (le : lo ≤ hi) :
    Memory.wfFrom lo m = true := by
  cases m with
  | nil => rfl
  | cons e m =>
    obtain ⟨j, y⟩ := e
    simp only [Memory.wfFrom, Bool.and_eq_true, decide_eq_true_eq] at h ⊢
    exact ⟨⟨by omega, h.1.2⟩, h.2⟩

theorem Memory.put_wfFrom (m : Memory) (a : Nat) (b : Byte) (lo : Nat) (h : Memory.wfFrom lo m = true) (le : lo ≤ a) :
    Memory.wfFrom lo (Memory.put m a b) = true := by
  induction m generalizing lo with
  | nil =>
    unfold Memory.put
    split <;> simp_all [Memory.wfFrom]
  | cons e m ih =>
    obtain ⟨j, y⟩ := e
    have hh := h
    simp only [Memory.wfFrom, Bool.and_eq_true, decide_eq_true_eq] at hh
    obtain ⟨⟨h1, h2⟩, h3⟩ := hh
    unfold Memory.put
    split
    · next lt =>
      split
      · exact h
      · next hb =>
        simp only [Memory.wfFrom, Bool.and_eq_true, decide_eq_true_eq]
        exact ⟨⟨le, hb⟩, ⟨by omega, h2⟩, h3⟩
    · split
      · next ge eq =>
        split
        · exact Memory.wfFrom_mono h3 (by omega)
        · next hb =>
          simp only [Memory.wfFrom, Bool.and_eq_true, decide_eq_true_eq]
          exact ⟨⟨le, hb⟩, by rw [eq]; exact h3⟩
      · next ge ne =>
        simp only [Memory.wfFrom, Bool.and_eq_true, decide_eq_true_eq]
        exact ⟨⟨h1, h2⟩, ih (j + 1) h3 (by omega)⟩

theorem Memory.put_wf {m : Memory} (h : Memory.wf m = true) (a : Nat) (b : Byte) : Memory.wf (Memory.put m a b) = true :=
  Memory.put_wfFrom m a b 0 h (Nat.zero_le a)

theorem Memory.write_wf {m : Memory} (h : Memory.wf m = true) (a n v : Nat) : Memory.wf (Memory.write m a n v) = true := by
  induction n generalizing m a v with
  | zero => exact h
  | succ n ih => exact ih (Memory.put_wf h a _) (a + 1) (v / 256)

theorem Memory.writeBytes_wf {m : Memory} (h : Memory.wf m = true) (a : Nat) (bs : List Byte) :
    Memory.wf (Memory.writeBytes m a bs) = true := by
  induction bs generalizing m a with
  | nil => exact h
  | cons b bs ih => exact ih (Memory.put_wf h a b) (a + 1)

/-! ## Reads and writes -/

/-- Below its first entry a memory in canonical form lists nothing. -/
theorem Memory.get_below {m : Memory} {lo a : Nat} (h : Memory.wfFrom lo m = true) (lt : a < lo) :
    Memory.get m a = unlisted := by
  induction m generalizing lo with
  | nil => rfl
  | cons e m ih =>
    obtain ⟨j, y⟩ := e
    simp only [Memory.wfFrom, Bool.and_eq_true, decide_eq_true_eq] at h
    simp only [Memory.get]
    rw [if_neg (by omega)]
    exact ih h.2 (by omega)

theorem Memory.get_put (m : Memory) (lo a i : Nat) (b : Byte) (h : Memory.wfFrom lo m = true) :
    Memory.get (Memory.put m a b) i = if i = a then b else Memory.get m i := by
  induction m generalizing lo with
  | nil =>
    unfold Memory.put
    split
    · next hb => split <;> simp_all [Memory.get]
    · simp [Memory.get]
  | cons e m ih =>
    obtain ⟨j, y⟩ := e
    have hh := h
    simp only [Memory.wfFrom, Bool.and_eq_true, decide_eq_true_eq] at hh
    unfold Memory.put
    split
    · next lt =>
      split
      · next hb =>
        split
        · next hi =>
          subst hi
          simp only [Memory.get]
          rw [if_neg (by omega), Memory.get_below hh.2 (by omega), hb]
        · rfl
      · simp only [Memory.get]
    · split
      · next eq =>
        subst eq
        split
        · next hb =>
          split
          · next hi => subst hi; rw [Memory.get_below hh.2 (by omega), hb]
          · next hi => simp [Memory.get, hi]
        · simp only [Memory.get]; split <;> rfl
      · next ne =>
        simp only [Memory.get, ih (j + 1) hh.2]
        split
        · next hi => subst hi; simp [Ne.symm ne]
        · rfl

/-- A byte read after it was written, and every other byte. -/
theorem Memory.get_put_wf {m : Memory} (h : Memory.wf m = true) (a i : Nat) (b : Byte) :
    Memory.get (Memory.put m a b) i = if i = a then b else Memory.get m i := Memory.get_put m 0 a i b h

theorem Memory.get_write_outside {m : Memory} (h : Memory.wf m = true) (a n v i : Nat) (out : i < a ∨ a + n ≤ i) :
    Memory.get (Memory.write m a n v) i = Memory.get m i := by
  induction n generalizing m a v with
  | zero => rfl
  | succ n ih =>
    rw [Memory.write, ih (Memory.put_wf h a _) (a + 1) (v / 256) (by omega), Memory.get_put_wf h, if_neg (by omega)]

theorem Memory.read_write_same {m : Memory} (h : Memory.wf m = true) (a n v : Nat) :
    Memory.read (Memory.write m a n v) a n = v % 256 ^ n := by
  induction n generalizing m a v with
  | zero => simp [Memory.read, Nat.mod_one]
  | succ n ih =>
    have hw := Memory.put_wf h a (BitVec.ofNat 8 v)
    rw [Memory.write, Memory.read, ih hw, Memory.get_write_outside hw _ _ _ _ (by omega), Memory.get_put_wf h]
    have e : v % 256 ^ (n + 1) = v % 256 + 256 * (v / 256 % 256 ^ n) := by rw [Nat.pow_succ', Nat.mod_mul]
    rw [e]
    simp

theorem Memory.read_write_outside {m : Memory} (h : Memory.wf m = true) (a n v b k : Nat) (out : b + k ≤ a ∨ a + n ≤ b) :
    Memory.read (Memory.write m a n v) b k = Memory.read m b k := by
  induction k generalizing b with
  | zero => rfl
  | succ k ih =>
    rw [Memory.read, Memory.read, Memory.get_write_outside h _ _ _ _ (by omega), ih (b + 1) (by omega)]

end Sys2Proof.Machine
end

