-- ==== Sys2Proof/Laws/PerInstr.lean ====
section
/-! SUPPORT. What holds of every instruction as syntax, constructor by constructor: its word is a full-format word and no clause
header, so that R195 never reads it as anything else. -/

open Sys2Proof

/-- The word of an instruction, where it has one, has bit 63 clear and is no clause header (R195). -/
def Sys2Proof.Laws.OwnWord.Statement (i : Instr) : Prop := ∀ w : Word, encode i = some w → w.getLsbD 63 = false ∧ isHeader w = false

theorem Sys2Proof.Laws.OwnWord.iadd (o : AluOp) : Sys2Proof.Laws.OwnWord.Statement (.iadd o) :=
  fun _ h => packFull_ownWord (op := 0x00) (by decide) h
theorem Sys2Proof.Laws.OwnWord.isub (o : AluOp) : Sys2Proof.Laws.OwnWord.Statement (.isub o) :=
  fun _ h => packFull_ownWord (op := 0x01) (by decide) h
theorem Sys2Proof.Laws.OwnWord.iaddi (o : ImmOp) : Sys2Proof.Laws.OwnWord.Statement (.iaddi o) :=
  fun _ h => packImm_ownWord (op := 0x02) (by decide) h
theorem Sys2Proof.Laws.OwnWord.imul (o : AluOp) : Sys2Proof.Laws.OwnWord.Statement (.imul o) :=
  fun _ h => packFull_ownWord (op := 0x03) (by decide) h
theorem Sys2Proof.Laws.OwnWord.imulh (o : AluOp) : Sys2Proof.Laws.OwnWord.Statement (.imulh o) :=
  fun _ h => packFull_ownWord (op := 0x04) (by decide) h
theorem Sys2Proof.Laws.OwnWord.imad (o : AluOp) : Sys2Proof.Laws.OwnWord.Statement (.imad o) :=
  fun _ h => packFull_ownWord (op := 0x05) (by decide) h
theorem Sys2Proof.Laws.OwnWord.idiv (o : AluOp) : Sys2Proof.Laws.OwnWord.Statement (.idiv o) :=
  fun _ h => packFull_ownWord (op := 0x06) (by decide) h
theorem Sys2Proof.Laws.OwnWord.irem (o : AluOp) : Sys2Proof.Laws.OwnWord.Statement (.irem o) :=
  fun _ h => packFull_ownWord (op := 0x07) (by decide) h
theorem Sys2Proof.Laws.OwnWord.imin (o : AluOp) : Sys2Proof.Laws.OwnWord.Statement (.imin o) :=
  fun _ h => packFull_ownWord (op := 0x08) (by decide) h
theorem Sys2Proof.Laws.OwnWord.imax (o : AluOp) : Sys2Proof.Laws.OwnWord.Statement (.imax o) :=
  fun _ h => packFull_ownWord (op := 0x09) (by decide) h
theorem Sys2Proof.Laws.OwnWord.iabs (o : AluOp) : Sys2Proof.Laws.OwnWord.Statement (.iabs o) :=
  fun _ h => packFull_ownWord (op := 0x0a) (by decide) h
theorem Sys2Proof.Laws.OwnWord.ineg (o : AluOp) : Sys2Proof.Laws.OwnWord.Statement (.ineg o) :=
  fun _ h => packFull_ownWord (op := 0x0b) (by decide) h
theorem Sys2Proof.Laws.OwnWord.and (o : AluOp) : Sys2Proof.Laws.OwnWord.Statement (.and o) :=
  fun _ h => packFull_ownWord (op := 0x0c) (by decide) h
theorem Sys2Proof.Laws.OwnWord.or (o : AluOp) : Sys2Proof.Laws.OwnWord.Statement (.or o) :=
  fun _ h => packFull_ownWord (op := 0x0d) (by decide) h
theorem Sys2Proof.Laws.OwnWord.xor (o : AluOp) : Sys2Proof.Laws.OwnWord.Statement (.xor o) :=
  fun _ h => packFull_ownWord (op := 0x0e) (by decide) h
theorem Sys2Proof.Laws.OwnWord.andn (o : AluOp) : Sys2Proof.Laws.OwnWord.Statement (.andn o) :=
  fun _ h => packFull_ownWord (op := 0x0f) (by decide) h
theorem Sys2Proof.Laws.OwnWord.shl (o : AluOp) : Sys2Proof.Laws.OwnWord.Statement (.shl o) :=
  fun _ h => packFull_ownWord (op := 0x10) (by decide) h
theorem Sys2Proof.Laws.OwnWord.shr (o : AluOp) : Sys2Proof.Laws.OwnWord.Statement (.shr o) :=
  fun _ h => packFull_ownWord (op := 0x11) (by decide) h
theorem Sys2Proof.Laws.OwnWord.sar (o : AluOp) : Sys2Proof.Laws.OwnWord.Statement (.sar o) :=
  fun _ h => packFull_ownWord (op := 0x12) (by decide) h
theorem Sys2Proof.Laws.OwnWord.rot (o : AluOp) : Sys2Proof.Laws.OwnWord.Statement (.rot o) :=
  fun _ h => packFull_ownWord (op := 0x13) (by decide) h
theorem Sys2Proof.Laws.OwnWord.bfx (o : AluOp) : Sys2Proof.Laws.OwnWord.Statement (.bfx o) :=
  fun _ h => packFull_ownWord (op := 0x14) (by decide) h
theorem Sys2Proof.Laws.OwnWord.bfi (o : AluOp) : Sys2Proof.Laws.OwnWord.Statement (.bfi o) :=
  fun _ h => packFull_ownWord (op := 0x15) (by decide) h
theorem Sys2Proof.Laws.OwnWord.popc (o : AluOp) : Sys2Proof.Laws.OwnWord.Statement (.popc o) :=
  fun _ h => packFull_ownWord (op := 0x16) (by decide) h
theorem Sys2Proof.Laws.OwnWord.clz (o : AluOp) : Sys2Proof.Laws.OwnWord.Statement (.clz o) :=
  fun _ h => packFull_ownWord (op := 0x17) (by decide) h
theorem Sys2Proof.Laws.OwnWord.brev (o : AluOp) : Sys2Proof.Laws.OwnWord.Statement (.brev o) :=
  fun _ h => packFull_ownWord (op := 0x18) (by decide) h
theorem Sys2Proof.Laws.OwnWord.lea (o : AluOp) : Sys2Proof.Laws.OwnWord.Statement (.lea o) :=
  fun _ h => packFull_ownWord (op := 0x19) (by decide) h
theorem Sys2Proof.Laws.OwnWord.movi (o : ImmOp) : Sys2Proof.Laws.OwnWord.Statement (.movi o) :=
  fun _ h => packImm_ownWord (op := 0x1a) (by decide) h
theorem Sys2Proof.Laws.OwnWord.movhi (o : ImmOp) : Sys2Proof.Laws.OwnWord.Statement (.movhi o) :=
  fun _ h => packImm_ownWord (op := 0x1b) (by decide) h
theorem Sys2Proof.Laws.OwnWord.mov (o : AluOp) : Sys2Proof.Laws.OwnWord.Statement (.mov o) :=
  fun _ h => packFull_ownWord (op := 0x1c) (by decide) h
theorem Sys2Proof.Laws.OwnWord.sadd (o : AluOp) : Sys2Proof.Laws.OwnWord.Statement (.sadd o) :=
  fun _ h => packFull_ownWord (op := 0x1d) (by decide) h
theorem Sys2Proof.Laws.OwnWord.idot4 (o : AluOp) : Sys2Proof.Laws.OwnWord.Statement (.idot4 o) :=
  fun _ h => packFull_ownWord (op := 0x1e) (by decide) h
theorem Sys2Proof.Laws.OwnWord.permb (o : AluOp) : Sys2Proof.Laws.OwnWord.Statement (.permb o) :=
  fun _ h => packFull_ownWord (op := 0x1f) (by decide) h
theorem Sys2Proof.Laws.OwnWord.fadd (o : AluOp) : Sys2Proof.Laws.OwnWord.Statement (.fadd o) :=
  fun _ h => packFull_ownWord (op := 0x20) (by decide) h
theorem Sys2Proof.Laws.OwnWord.fsub (o : AluOp) : Sys2Proof.Laws.OwnWord.Statement (.fsub o) :=
  fun _ h => packFull_ownWord (op := 0x21) (by decide) h
theorem Sys2Proof.Laws.OwnWord.fmul (o : AluOp) : Sys2Proof.Laws.OwnWord.Statement (.fmul o) :=
  fun _ h => packFull_ownWord (op := 0x22) (by decide) h
theorem Sys2Proof.Laws.OwnWord.ffma (o : AluOp) : Sys2Proof.Laws.OwnWord.Statement (.ffma o) :=
  fun _ h => packFull_ownWord (op := 0x23) (by decide) h
theorem Sys2Proof.Laws.OwnWord.fmin (o : AluOp) : Sys2Proof.Laws.OwnWord.Statement (.fmin o) :=
  fun _ h => packFull_ownWord (op := 0x24) (by decide) h
theorem Sys2Proof.Laws.OwnWord.fmax (o : AluOp) : Sys2Proof.Laws.OwnWord.Statement (.fmax o) :=
  fun _ h => packFull_ownWord (op := 0x25) (by decide) h
theorem Sys2Proof.Laws.OwnWord.fdiv (o : AluOp) : Sys2Proof.Laws.OwnWord.Statement (.fdiv o) :=
  fun _ h => packFull_ownWord (op := 0x26) (by decide) h
theorem Sys2Proof.Laws.OwnWord.fsqrt (o : AluOp) : Sys2Proof.Laws.OwnWord.Statement (.fsqrt o) :=
  fun _ h => packFull_ownWord (op := 0x27) (by decide) h
theorem Sys2Proof.Laws.OwnWord.frcp (o : AluOp) : Sys2Proof.Laws.OwnWord.Statement (.frcp o) :=
  fun _ h => packFull_ownWord (op := 0x28) (by decide) h
theorem Sys2Proof.Laws.OwnWord.frsq (o : AluOp) : Sys2Proof.Laws.OwnWord.Statement (.frsq o) :=
  fun _ h => packFull_ownWord (op := 0x29) (by decide) h
theorem Sys2Proof.Laws.OwnWord.fexp2 (o : AluOp) : Sys2Proof.Laws.OwnWord.Statement (.fexp2 o) :=
  fun _ h => packFull_ownWord (op := 0x2a) (by decide) h
theorem Sys2Proof.Laws.OwnWord.flog2 (o : AluOp) : Sys2Proof.Laws.OwnWord.Statement (.flog2 o) :=
  fun _ h => packFull_ownWord (op := 0x2b) (by decide) h
theorem Sys2Proof.Laws.OwnWord.fsin (o : AluOp) : Sys2Proof.Laws.OwnWord.Statement (.fsin o) :=
  fun _ h => packFull_ownWord (op := 0x2c) (by decide) h
theorem Sys2Proof.Laws.OwnWord.fcos (o : AluOp) : Sys2Proof.Laws.OwnWord.Statement (.fcos o) :=
  fun _ h => packFull_ownWord (op := 0x2d) (by decide) h
theorem Sys2Proof.Laws.OwnWord.fclass (o : AluOp) : Sys2Proof.Laws.OwnWord.Statement (.fclass o) :=
  fun _ h => packFull_ownWord (op := 0x2e) (by decide) h
theorem Sys2Proof.Laws.OwnWord.frnd (o : AluOp) : Sys2Proof.Laws.OwnWord.Statement (.frnd o) :=
  fun _ h => packFull_ownWord (op := 0x2f) (by decide) h
theorem Sys2Proof.Laws.OwnWord.fscale (o : AluOp) : Sys2Proof.Laws.OwnWord.Statement (.fscale o) :=
  fun _ h => packFull_ownWord (op := 0x30) (by decide) h
theorem Sys2Proof.Laws.OwnWord.ffrxp (o : AluOp) : Sys2Proof.Laws.OwnWord.Statement (.ffrxp o) :=
  fun _ h => packFull_ownWord (op := 0x31) (by decide) h
theorem Sys2Proof.Laws.OwnWord.cvtff (o : AluOp) : Sys2Proof.Laws.OwnWord.Statement (.cvtff o) :=
  fun _ h => packFull_ownWord (op := 0x32) (by decide) h
theorem Sys2Proof.Laws.OwnWord.cvtfi (o : AluOp) : Sys2Proof.Laws.OwnWord.Statement (.cvtfi o) :=
  fun _ h => packFull_ownWord (op := 0x33) (by decide) h
theorem Sys2Proof.Laws.OwnWord.cvtif (o : AluOp) : Sys2Proof.Laws.OwnWord.Statement (.cvtif o) :=
  fun _ h => packFull_ownWord (op := 0x34) (by decide) h
theorem Sys2Proof.Laws.OwnWord.cvtn (o : AluOp) : Sys2Proof.Laws.OwnWord.Statement (.cvtn o) :=
  fun _ h => packFull_ownWord (op := 0x35) (by decide) h
theorem Sys2Proof.Laws.OwnWord.cvtw (o : AluOp) : Sys2Proof.Laws.OwnWord.Statement (.cvtw o) :=
  fun _ h => packFull_ownWord (op := 0x36) (by decide) h
theorem Sys2Proof.Laws.OwnWord.b4enc (o : AluOp) : Sys2Proof.Laws.OwnWord.Statement (.b4enc o) :=
  fun _ h => packFull_ownWord (op := 0x37) (by decide) h
theorem Sys2Proof.Laws.OwnWord.b4dec (o : AluOp) : Sys2Proof.Laws.OwnWord.Statement (.b4dec o) :=
  fun _ h => packFull_ownWord (op := 0x38) (by decide) h
theorem Sys2Proof.Laws.OwnWord.icmp (o : AluOp) : Sys2Proof.Laws.OwnWord.Statement (.icmp o) :=
  fun _ h => packFull_ownWord (op := 0x40) (by decide) h
theorem Sys2Proof.Laws.OwnWord.icmpi (o : ImmOp) : Sys2Proof.Laws.OwnWord.Statement (.icmpi o) :=
  fun _ h => packImm_ownWord (op := 0x41) (by decide) h
theorem Sys2Proof.Laws.OwnWord.fcmp (o : AluOp) : Sys2Proof.Laws.OwnWord.Statement (.fcmp o) :=
  fun _ h => packFull_ownWord (op := 0x42) (by decide) h
theorem Sys2Proof.Laws.OwnWord.sel (o : OwnOp) : Sys2Proof.Laws.OwnWord.Statement (.sel o) :=
  fun _ h => packFull_ownWord (op := 0x43) (by decide) h
theorem Sys2Proof.Laws.OwnWord.plop (o : OwnOp) : Sys2Proof.Laws.OwnWord.Statement (.plop o) :=
  fun _ h => packFull_ownWord (op := 0x44) (by decide) h
theorem Sys2Proof.Laws.OwnWord.pmov (o : OwnOp) : Sys2Proof.Laws.OwnWord.Statement (.pmov o) :=
  fun _ h => packFull_ownWord (op := 0x45) (by decide) h
theorem Sys2Proof.Laws.OwnWord.qswz (o : OwnOp) : Sys2Proof.Laws.OwnWord.Statement (.qswz o) :=
  fun _ h => packFull_ownWord (op := 0x50) (by decide) h
theorem Sys2Proof.Laws.OwnWord.qddx (o : AluOp) : Sys2Proof.Laws.OwnWord.Statement (.qddx o) :=
  fun _ h => packFull_ownWord (op := 0x51) (by decide) h
theorem Sys2Proof.Laws.OwnWord.qddy (o : AluOp) : Sys2Proof.Laws.OwnWord.Statement (.qddy o) :=
  fun _ h => packFull_ownWord (op := 0x52) (by decide) h
theorem Sys2Proof.Laws.OwnWord.qvote (o : OwnOp) : Sys2Proof.Laws.OwnWord.Statement (.qvote o) :=
  fun _ h => packFull_ownWord (op := 0x53) (by decide) h
theorem Sys2Proof.Laws.OwnWord.rdsr (o : OwnOp) : Sys2Proof.Laws.OwnWord.Statement (.rdsr o) :=
  fun _ h => packFull_ownWord (op := 0x54) (by decide) h
theorem Sys2Proof.Laws.OwnWord.gmov (o : OwnOp) : Sys2Proof.Laws.OwnWord.Statement (.gmov o) :=
  fun _ h => packFull_ownWord (op := 0x55) (by decide) h
theorem Sys2Proof.Laws.OwnWord.gwr (o : OwnOp) : Sys2Proof.Laws.OwnWord.Statement (.gwr o) :=
  fun _ h => packFull_ownWord (op := 0x56) (by decide) h
theorem Sys2Proof.Laws.OwnWord.fspawn (o : OwnOp) : Sys2Proof.Laws.OwnWord.Statement (.fspawn o) :=
  fun _ h => packFull_ownWord (op := 0x57) (by decide) h
theorem Sys2Proof.Laws.OwnWord.ld (o : MemOp) : Sys2Proof.Laws.OwnWord.Statement (.ld o) :=
  fun _ h => packFull_ownWord (op := 0x60) (by decide) h
theorem Sys2Proof.Laws.OwnWord.st (o : MemOp) : Sys2Proof.Laws.OwnWord.Statement (.st o) :=
  fun _ h => packFull_ownWord (op := 0x61) (by decide) h
theorem Sys2Proof.Laws.OwnWord.lds (o : MemOp) : Sys2Proof.Laws.OwnWord.Statement (.lds o) :=
  fun _ h => packFull_ownWord (op := 0x62) (by decide) h
theorem Sys2Proof.Laws.OwnWord.sts (o : MemOp) : Sys2Proof.Laws.OwnWord.Statement (.sts o) :=
  fun _ h => packFull_ownWord (op := 0x63) (by decide) h
theorem Sys2Proof.Laws.OwnWord.ldv (o : MemOp) : Sys2Proof.Laws.OwnWord.Statement (.ldv o) :=
  fun _ h => packFull_ownWord (op := 0x64) (by decide) h
theorem Sys2Proof.Laws.OwnWord.ldp (o : PeerOp) : Sys2Proof.Laws.OwnWord.Statement (.ldp o) :=
  fun _ h => packFull_ownWord (op := 0x65) (by decide) h
theorem Sys2Proof.Laws.OwnWord.stp (o : PeerOp) : Sys2Proof.Laws.OwnWord.Statement (.stp o) :=
  fun _ h => packFull_ownWord (op := 0x66) (by decide) h
theorem Sys2Proof.Laws.OwnWord.pref (o : MemOp) : Sys2Proof.Laws.OwnWord.Statement (.pref o) :=
  fun _ h => packFull_ownWord (op := 0x67) (by decide) h
theorem Sys2Proof.Laws.OwnWord.atom (o : AtomOp) : Sys2Proof.Laws.OwnWord.Statement (.atom o) :=
  fun _ h => packFull_ownWord (op := 0x80) (by decide) h
theorem Sys2Proof.Laws.OwnWord.acas (o : AtomOp) : Sys2Proof.Laws.OwnWord.Statement (.acas o) :=
  fun _ h => packFull_ownWord (op := 0x81) (by decide) h
theorem Sys2Proof.Laws.OwnWord.red (o : AtomOp) : Sys2Proof.Laws.OwnWord.Statement (.red o) :=
  fun _ h => packFull_ownWord (op := 0x82) (by decide) h
theorem Sys2Proof.Laws.OwnWord.atomp (o : PeerOp) : Sys2Proof.Laws.OwnWord.Statement (.atomp o) :=
  fun _ h => packFull_ownWord (op := 0x83) (by decide) h
theorem Sys2Proof.Laws.OwnWord.acasp (o : PeerOp) : Sys2Proof.Laws.OwnWord.Statement (.acasp o) :=
  fun _ h => packFull_ownWord (op := 0x84) (by decide) h
theorem Sys2Proof.Laws.OwnWord.redp (o : PeerOp) : Sys2Proof.Laws.OwnWord.Statement (.redp o) :=
  fun _ h => packFull_ownWord (op := 0x85) (by decide) h
theorem Sys2Proof.Laws.OwnWord.fence (o : OwnOp) : Sys2Proof.Laws.OwnWord.Statement (.fence o) :=
  fun _ h => packFull_ownWord (op := 0x90) (by decide) h
theorem Sys2Proof.Laws.OwnWord.bar (o : OwnOp) : Sys2Proof.Laws.OwnWord.Statement (.bar o) :=
  fun _ h => packFull_ownWord (op := 0x91) (by decide) h
theorem Sys2Proof.Laws.OwnWord.bara (o : OwnOp) : Sys2Proof.Laws.OwnWord.Statement (.bara o) :=
  fun _ h => packFull_ownWord (op := 0x92) (by decide) h
theorem Sys2Proof.Laws.OwnWord.barc (o : OwnOp) : Sys2Proof.Laws.OwnWord.Statement (.barc o) :=
  fun _ h => packFull_ownWord (op := 0x93) (by decide) h
theorem Sys2Proof.Laws.OwnWord.cwait (o : OwnOp) : Sys2Proof.Laws.OwnWord.Statement (.cwait o) :=
  fun _ h => packFull_ownWord (op := 0x94) (by decide) h
theorem Sys2Proof.Laws.OwnWord.cclose (o : OwnOp) : Sys2Proof.Laws.OwnWord.Statement (.cclose o) :=
  fun _ h => packFull_ownWord (op := 0x95) (by decide) h
theorem Sys2Proof.Laws.OwnWord.mbarr (o : OwnOp) : Sys2Proof.Laws.OwnWord.Statement (.mbarr o) :=
  fun _ h => packFull_ownWord (op := 0x96) (by decide) h
theorem Sys2Proof.Laws.OwnWord.mbwait (o : OwnOp) : Sys2Proof.Laws.OwnWord.Statement (.mbwait o) :=
  fun _ h => packFull_ownWord (op := 0x97) (by decide) h
theorem Sys2Proof.Laws.OwnWord.qjoin (o : OwnOp) : Sys2Proof.Laws.OwnWord.Statement (.qjoin o) :=
  fun _ h => packFull_ownWord (op := 0x98) (by decide) h
theorem Sys2Proof.Laws.OwnWord.nano (o : OwnOp) : Sys2Proof.Laws.OwnWord.Statement (.nano o) :=
  fun _ h => packFull_ownWord (op := 0x99) (by decide) h
theorem Sys2Proof.Laws.OwnWord.br (o : ImmOp) : Sys2Proof.Laws.OwnWord.Statement (.br o) :=
  fun _ h => packImm_ownWord (op := 0xa0) (by decide) h
theorem Sys2Proof.Laws.OwnWord.brx (o : ImmOp) : Sys2Proof.Laws.OwnWord.Statement (.brx o) :=
  fun _ h => packImm_ownWord (op := 0xa1) (by decide) h
theorem Sys2Proof.Laws.OwnWord.jmpr (o : OwnOp) : Sys2Proof.Laws.OwnWord.Statement (.jmpr o) :=
  fun _ h => packFull_ownWord (op := 0xa2) (by decide) h
theorem Sys2Proof.Laws.OwnWord.call (o : ImmOp) : Sys2Proof.Laws.OwnWord.Statement (.call o) :=
  fun _ h => packImm_ownWord (op := 0xa3) (by decide) h
theorem Sys2Proof.Laws.OwnWord.callr (o : OwnOp) : Sys2Proof.Laws.OwnWord.Statement (.callr o) :=
  fun _ h => packFull_ownWord (op := 0xa4) (by decide) h
theorem Sys2Proof.Laws.OwnWord.ret (o : OwnOp) : Sys2Proof.Laws.OwnWord.Statement (.ret o) :=
  fun _ h => packFull_ownWord (op := 0xa5) (by decide) h
theorem Sys2Proof.Laws.OwnWord.exit (o : OwnOp) : Sys2Proof.Laws.OwnWord.Statement (.exit o) :=
  fun _ h => packFull_ownWord (op := 0xa6) (by decide) h
theorem Sys2Proof.Laws.OwnWord.yield (o : OwnOp) : Sys2Proof.Laws.OwnWord.Statement (.yield o) :=
  fun _ h => packFull_ownWord (op := 0xa7) (by decide) h
theorem Sys2Proof.Laws.OwnWord.trap (o : OwnOp) : Sys2Proof.Laws.OwnWord.Statement (.trap o) :=
  fun _ h => packFull_ownWord (op := 0xa8) (by decide) h
theorem Sys2Proof.Laws.OwnWord.bkpt (o : OwnOp) : Sys2Proof.Laws.OwnWord.Statement (.bkpt o) :=
  fun _ h => packFull_ownWord (op := 0xa9) (by decide) h
theorem Sys2Proof.Laws.OwnWord.mclaim (o : OwnOp) : Sys2Proof.Laws.OwnWord.Statement (.mclaim o) :=
  fun _ h => packFull_ownWord (op := 0xb0) (by decide) h
theorem Sys2Proof.Laws.OwnWord.mrel (o : OwnOp) : Sys2Proof.Laws.OwnWord.Statement (.mrel o) :=
  fun _ h => packFull_ownWord (op := 0xb1) (by decide) h
theorem Sys2Proof.Laws.OwnWord.mlda (o : OwnOp) : Sys2Proof.Laws.OwnWord.Statement (.mlda o) :=
  fun _ h => packFull_ownWord (op := 0xb2) (by decide) h
theorem Sys2Proof.Laws.OwnWord.mldb (o : OwnOp) : Sys2Proof.Laws.OwnWord.Statement (.mldb o) :=
  fun _ h => packFull_ownWord (op := 0xb3) (by decide) h
theorem Sys2Proof.Laws.OwnWord.mma (o : OwnOp) : Sys2Proof.Laws.OwnWord.Statement (.mma o) :=
  fun _ h => packFull_ownWord (op := 0xb4) (by decide) h
theorem Sys2Proof.Laws.OwnWord.mbegin (o : OwnOp) : Sys2Proof.Laws.OwnWord.Statement (.mbegin o) :=
  fun _ h => packFull_ownWord (op := 0xb5) (by decide) h
theorem Sys2Proof.Laws.OwnWord.mend (o : OwnOp) : Sys2Proof.Laws.OwnWord.Statement (.mend o) :=
  fun _ h => packFull_ownWord (op := 0xb6) (by decide) h
theorem Sys2Proof.Laws.OwnWord.mzero (o : OwnOp) : Sys2Proof.Laws.OwnWord.Statement (.mzero o) :=
  fun _ h => packFull_ownWord (op := 0xb7) (by decide) h
theorem Sys2Proof.Laws.OwnWord.mdrain (o : OwnOp) : Sys2Proof.Laws.OwnWord.Statement (.mdrain o) :=
  fun _ h => packFull_ownWord (op := 0xb8) (by decide) h
theorem Sys2Proof.Laws.OwnWord.mldc (o : OwnOp) : Sys2Proof.Laws.OwnWord.Statement (.mldc o) :=
  fun _ h => packFull_ownWord (op := 0xb9) (by decide) h
theorem Sys2Proof.Laws.OwnWord.msig (o : OwnOp) : Sys2Proof.Laws.OwnWord.Statement (.msig o) :=
  fun _ h => packFull_ownWord (op := 0xba) (by decide) h
theorem Sys2Proof.Laws.OwnWord.mwait (o : OwnOp) : Sys2Proof.Laws.OwnWord.Statement (.mwait o) :=
  fun _ h => packFull_ownWord (op := 0xbb) (by decide) h
theorem Sys2Proof.Laws.OwnWord.mloop (o : ImmOp) : Sys2Proof.Laws.OwnWord.Statement (.mloop o) :=
  fun _ h => packImm_ownWord (op := 0xbc) (by decide) h
theorem Sys2Proof.Laws.OwnWord.mstop (o : OwnOp) : Sys2Proof.Laws.OwnWord.Statement (.mstop o) :=
  fun _ h => packFull_ownWord (op := 0xbd) (by decide) h
theorem Sys2Proof.Laws.OwnWord.mmovi (o : ImmOp) : Sys2Proof.Laws.OwnWord.Statement (.mmovi o) :=
  fun _ h => packImm_ownWord (op := 0xbe) (by decide) h
theorem Sys2Proof.Laws.OwnWord.madd (o : OwnOp) : Sys2Proof.Laws.OwnWord.Statement (.madd o) :=
  fun _ h => packFull_ownWord (op := 0xbf) (by decide) h
theorem Sys2Proof.Laws.OwnWord.tcopy (o : OwnOp) : Sys2Proof.Laws.OwnWord.Statement (.tcopy o) :=
  fun _ h => packFull_ownWord (op := 0xc0) (by decide) h
theorem Sys2Proof.Laws.OwnWord.tcopyp (o : OwnOp) : Sys2Proof.Laws.OwnWord.Statement (.tcopyp o) :=
  fun _ h => packFull_ownWord (op := 0xc1) (by decide) h
theorem Sys2Proof.Laws.OwnWord.halo (o : OwnOp) : Sys2Proof.Laws.OwnWord.Statement (.halo o) :=
  fun _ h => packFull_ownWord (op := 0xc2) (by decide) h
theorem Sys2Proof.Laws.OwnWord.ared (o : OwnOp) : Sys2Proof.Laws.OwnWord.Statement (.ared o) :=
  fun _ h => packFull_ownWord (op := 0xc3) (by decide) h
theorem Sys2Proof.Laws.OwnWord.bcast (o : OwnOp) : Sys2Proof.Laws.OwnWord.Statement (.bcast o) :=
  fun _ h => packFull_ownWord (op := 0xc4) (by decide) h
theorem Sys2Proof.Laws.OwnWord.tfill (o : OwnOp) : Sys2Proof.Laws.OwnWord.Statement (.tfill o) :=
  fun _ h => packFull_ownWord (op := 0xc5) (by decide) h
theorem Sys2Proof.Laws.OwnWord.rqry (o : OwnOp) : Sys2Proof.Laws.OwnWord.Statement (.rqry o) :=
  fun _ h => packFull_ownWord (op := 0xd0) (by decide) h
theorem Sys2Proof.Laws.OwnWord.rqnext (o : OwnOp) : Sys2Proof.Laws.OwnWord.Statement (.rqnext o) :=
  fun _ h => packFull_ownWord (op := 0xd1) (by decide) h
theorem Sys2Proof.Laws.OwnWord.rcq (o : OwnOp) : Sys2Proof.Laws.OwnWord.Statement (.rcq o) :=
  fun _ h => packFull_ownWord (op := 0xd2) (by decide) h
theorem Sys2Proof.Laws.OwnWord.rcqt (o : OwnOp) : Sys2Proof.Laws.OwnWord.Statement (.rcqt o) :=
  fun _ h => packFull_ownWord (op := 0xd3) (by decide) h
theorem Sys2Proof.Laws.OwnWord.rcflip (o : OwnOp) : Sys2Proof.Laws.OwnWord.Statement (.rcflip o) :=
  fun _ h => packFull_ownWord (op := 0xd4) (by decide) h
theorem Sys2Proof.Laws.OwnWord.qpush (o : OwnOp) : Sys2Proof.Laws.OwnWord.Statement (.qpush o) :=
  fun _ h => packFull_ownWord (op := 0xd5) (by decide) h
theorem Sys2Proof.Laws.OwnWord.qpop (o : OwnOp) : Sys2Proof.Laws.OwnWord.Statement (.qpop o) :=
  fun _ h => packFull_ownWord (op := 0xd6) (by decide) h
theorem Sys2Proof.Laws.OwnWord.rcls (o : OwnOp) : Sys2Proof.Laws.OwnWord.Statement (.rcls o) :=
  fun _ h => packFull_ownWord (op := 0xd7) (by decide) h
theorem Sys2Proof.Laws.OwnWord.rsub (o : OwnOp) : Sys2Proof.Laws.OwnWord.Statement (.rsub o) :=
  fun _ h => packFull_ownWord (op := 0xd8) (by decide) h
theorem Sys2Proof.Laws.OwnWord.texs (o : OwnOp) : Sys2Proof.Laws.OwnWord.Statement (.texs o) :=
  fun _ h => packFull_ownWord (op := 0xd9) (by decide) h
theorem Sys2Proof.Laws.OwnWord.residCreate (o : OwnOp) : Sys2Proof.Laws.OwnWord.Statement (.residCreate o) :=
  fun _ h => packFull_ownWord (op := 0xe0) (by decide) h
theorem Sys2Proof.Laws.OwnWord.residDestroy (o : OwnOp) : Sys2Proof.Laws.OwnWord.Statement (.residDestroy o) :=
  fun _ h => packFull_ownWord (op := 0xe0) (by decide) h
theorem Sys2Proof.Laws.OwnWord.residSetprio (o : OwnOp) : Sys2Proof.Laws.OwnWord.Statement (.residSetprio o) :=
  fun _ h => packFull_ownWord (op := 0xe0) (by decide) h
theorem Sys2Proof.Laws.OwnWord.residSetpin (o : OwnOp) : Sys2Proof.Laws.OwnWord.Statement (.residSetpin o) :=
  fun _ h => packFull_ownWord (op := 0xe0) (by decide) h
theorem Sys2Proof.Laws.OwnWord.residPromote (o : OwnOp) : Sys2Proof.Laws.OwnWord.Statement (.residPromote o) :=
  fun _ h => packFull_ownWord (op := 0xe0) (by decide) h
theorem Sys2Proof.Laws.OwnWord.residDemote (o : OwnOp) : Sys2Proof.Laws.OwnWord.Statement (.residDemote o) :=
  fun _ h => packFull_ownWord (op := 0xe0) (by decide) h
theorem Sys2Proof.Laws.OwnWord.residRead (o : OwnOp) : Sys2Proof.Laws.OwnWord.Statement (.residRead o) :=
  fun _ h => packFull_ownWord (op := 0xe0) (by decide) h
theorem Sys2Proof.Laws.OwnWord.vpub (o : OwnOp) : Sys2Proof.Laws.OwnWord.Statement (.vpub o) :=
  fun _ h => packFull_ownWord (op := 0xe1) (by decide) h
theorem Sys2Proof.Laws.OwnWord.vrecl (o : OwnOp) : Sys2Proof.Laws.OwnWord.Statement (.vrecl o) :=
  fun _ h => packFull_ownWord (op := 0xe2) (by decide) h
theorem Sys2Proof.Laws.OwnWord.cwb (o : OwnOp) : Sys2Proof.Laws.OwnWord.Statement (.cwb o) :=
  fun _ h => packFull_ownWord (op := 0xe3) (by decide) h
theorem Sys2Proof.Laws.OwnWord.cinv (o : OwnOp) : Sys2Proof.Laws.OwnWord.Statement (.cinv o) :=
  fun _ h => packFull_ownWord (op := 0xe4) (by decide) h
theorem Sys2Proof.Laws.OwnWord.iinv (o : OwnOp) : Sys2Proof.Laws.OwnWord.Statement (.iinv o) :=
  fun _ h => packFull_ownWord (op := 0xe5) (by decide) h
theorem Sys2Proof.Laws.OwnWord.fetchb (o : OwnOp) : Sys2Proof.Laws.OwnWord.Statement (.fetchb o) :=
  fun _ h => packFull_ownWord (op := 0xe6) (by decide) h
theorem Sys2Proof.Laws.OwnWord.rdtime (o : OwnOp) : Sys2Proof.Laws.OwnWord.Statement (.rdtime o) :=
  fun _ h => packFull_ownWord (op := 0xe7) (by decide) h
theorem Sys2Proof.Laws.OwnWord.perfr (o : OwnOp) : Sys2Proof.Laws.OwnWord.Statement (.perfr o) :=
  fun _ h => packFull_ownWord (op := 0xe8) (by decide) h
theorem Sys2Proof.Laws.OwnWord.lnchLaunch (o : OwnOp) : Sys2Proof.Laws.OwnWord.Statement (.lnchLaunch o) :=
  fun _ h => packFull_ownWord (op := 0xe9) (by decide) h
theorem Sys2Proof.Laws.OwnWord.lnchBind (o : OwnOp) : Sys2Proof.Laws.OwnWord.Statement (.lnchBind o) :=
  fun _ h => packFull_ownWord (op := 0xe9) (by decide) h
theorem Sys2Proof.Laws.OwnWord.lnchUnbind (o : OwnOp) : Sys2Proof.Laws.OwnWord.Statement (.lnchUnbind o) :=
  fun _ h => packFull_ownWord (op := 0xe9) (by decide) h
theorem Sys2Proof.Laws.OwnWord.mtcr (o : OwnOp) : Sys2Proof.Laws.OwnWord.Statement (.mtcr o) :=
  fun _ h => packFull_ownWord (op := 0xea) (by decide) h
theorem Sys2Proof.Laws.OwnWord.mfcr (o : OwnOp) : Sys2Proof.Laws.OwnWord.Statement (.mfcr o) :=
  fun _ h => packFull_ownWord (op := 0xeb) (by decide) h
theorem Sys2Proof.Laws.OwnWord.halt (o : OwnOp) : Sys2Proof.Laws.OwnWord.Statement (.halt o) :=
  fun _ h => packFull_ownWord (op := 0xec) (by decide) h
theorem Sys2Proof.Laws.OwnWord.ckpt (o : OwnOp) : Sys2Proof.Laws.OwnWord.Statement (.ckpt o) :=
  fun _ h => packFull_ownWord (op := 0xed) (by decide) h
theorem Sys2Proof.Laws.OwnWord.hnop (o : Half) : Sys2Proof.Laws.OwnWord.Statement (.hnop o) :=
  fun _ h => nomatch h
theorem Sys2Proof.Laws.OwnWord.halfIadd (o : Half) : Sys2Proof.Laws.OwnWord.Statement (.halfIadd o) :=
  fun _ h => nomatch h
theorem Sys2Proof.Laws.OwnWord.halfIsub (o : Half) : Sys2Proof.Laws.OwnWord.Statement (.halfIsub o) :=
  fun _ h => nomatch h
theorem Sys2Proof.Laws.OwnWord.halfAnd (o : Half) : Sys2Proof.Laws.OwnWord.Statement (.halfAnd o) :=
  fun _ h => nomatch h
theorem Sys2Proof.Laws.OwnWord.halfOr (o : Half) : Sys2Proof.Laws.OwnWord.Statement (.halfOr o) :=
  fun _ h => nomatch h
theorem Sys2Proof.Laws.OwnWord.halfXor (o : Half) : Sys2Proof.Laws.OwnWord.Statement (.halfXor o) :=
  fun _ h => nomatch h
theorem Sys2Proof.Laws.OwnWord.halfShl (o : Half) : Sys2Proof.Laws.OwnWord.Statement (.halfShl o) :=
  fun _ h => nomatch h
theorem Sys2Proof.Laws.OwnWord.halfShr (o : Half) : Sys2Proof.Laws.OwnWord.Statement (.halfShr o) :=
  fun _ h => nomatch h
theorem Sys2Proof.Laws.OwnWord.halfSar (o : Half) : Sys2Proof.Laws.OwnWord.Statement (.halfSar o) :=
  fun _ h => nomatch h
theorem Sys2Proof.Laws.OwnWord.halfMov (o : Half) : Sys2Proof.Laws.OwnWord.Statement (.halfMov o) :=
  fun _ h => nomatch h
theorem Sys2Proof.Laws.OwnWord.halfImin (o : Half) : Sys2Proof.Laws.OwnWord.Statement (.halfImin o) :=
  fun _ h => nomatch h
theorem Sys2Proof.Laws.OwnWord.halfImax (o : Half) : Sys2Proof.Laws.OwnWord.Statement (.halfImax o) :=
  fun _ h => nomatch h
theorem Sys2Proof.Laws.OwnWord.halfFadd (o : Half) : Sys2Proof.Laws.OwnWord.Statement (.halfFadd o) :=
  fun _ h => nomatch h
theorem Sys2Proof.Laws.OwnWord.halfFsub (o : Half) : Sys2Proof.Laws.OwnWord.Statement (.halfFsub o) :=
  fun _ h => nomatch h
theorem Sys2Proof.Laws.OwnWord.halfFmul (o : Half) : Sys2Proof.Laws.OwnWord.Statement (.halfFmul o) :=
  fun _ h => nomatch h
theorem Sys2Proof.Laws.OwnWord.halfFmin (o : Half) : Sys2Proof.Laws.OwnWord.Statement (.halfFmin o) :=
  fun _ h => nomatch h
theorem Sys2Proof.Laws.OwnWord.halfFmax (o : Half) : Sys2Proof.Laws.OwnWord.Statement (.halfFmax o) :=
  fun _ h => nomatch h
theorem Sys2Proof.Laws.OwnWord.halfMovi (o : Half) : Sys2Proof.Laws.OwnWord.Statement (.halfMovi o) :=
  fun _ h => nomatch h
theorem Sys2Proof.Laws.OwnWord.halfIabs (o : Half) : Sys2Proof.Laws.OwnWord.Statement (.halfIabs o) :=
  fun _ h => nomatch h
theorem Sys2Proof.Laws.OwnWord.halfIneg (o : Half) : Sys2Proof.Laws.OwnWord.Statement (.halfIneg o) :=
  fun _ h => nomatch h
theorem Sys2Proof.Laws.OwnWord.ferrySelection (core : Nat) : Sys2Proof.Laws.OwnWord.Statement (.ferrySelection core) :=
  fun _ h => nomatch h
theorem Sys2Proof.Laws.OwnWord.entrySpill (core : Nat) : Sys2Proof.Laws.OwnWord.Statement (.entrySpill core) :=
  fun _ h => nomatch h
theorem Sys2Proof.Laws.OwnWord.resultLands (core : Nat) (place : Nat) (idx : Nat) : Sys2Proof.Laws.OwnWord.Statement (.resultLands core place idx) :=
  fun _ h => nomatch h
theorem Sys2Proof.Laws.OwnWord.lotteryDraw : Sys2Proof.Laws.OwnWord.Statement .lotteryDraw :=
  fun _ h => nomatch h
theorem Sys2Proof.Laws.OwnWord.clusterPlacement (die : Nat) : Sys2Proof.Laws.OwnWord.Statement (.clusterPlacement die) :=
  fun _ h => nomatch h
theorem Sys2Proof.Laws.OwnWord.spanReady (rank : SpanRank) (spanId : BitVec 16) : Sys2Proof.Laws.OwnWord.Statement (.spanReady rank spanId) :=
  fun _ h => nomatch h
theorem Sys2Proof.Laws.OwnWord.boundIdleExpiry (lq : Nat) : Sys2Proof.Laws.OwnWord.Statement (.boundIdleExpiry lq) :=
  fun _ h => nomatch h
theorem Sys2Proof.Laws.OwnWord.groupEnd (core : Nat) (slot : Nat) : Sys2Proof.Laws.OwnWord.Statement (.groupEnd core slot) :=
  fun _ h => nomatch h
theorem Sys2Proof.Laws.OwnWord.gridEnd (grid : Nat) : Sys2Proof.Laws.OwnWord.Statement (.gridEnd grid) :=
  fun _ h => nomatch h
theorem Sys2Proof.Laws.OwnWord.barTimeout (core : Nat) (slot : Nat) (phase : Nat) : Sys2Proof.Laws.OwnWord.Statement (.barTimeout core slot phase) :=
  fun _ h => nomatch h
theorem Sys2Proof.Laws.OwnWord.nanoExpiry (core : Nat) (ferry : Nat) : Sys2Proof.Laws.OwnWord.Statement (.nanoExpiry core ferry) :=
  fun _ h => nomatch h
theorem Sys2Proof.Laws.OwnWord.retentionEntry (core : Nat) : Sys2Proof.Laws.OwnWord.Statement (.retentionEntry core) :=
  fun _ h => nomatch h
theorem Sys2Proof.Laws.OwnWord.retentionExit (core : Nat) : Sys2Proof.Laws.OwnWord.Statement (.retentionExit core) :=
  fun _ h => nomatch h
theorem Sys2Proof.Laws.OwnWord.leaseSweep (core : Nat) : Sys2Proof.Laws.OwnWord.Statement (.leaseSweep core) :=
  fun _ h => nomatch h
theorem Sys2Proof.Laws.OwnWord.bounceDecay : Sys2Proof.Laws.OwnWord.Statement .bounceDecay :=
  fun _ h => nomatch h
theorem Sys2Proof.Laws.OwnWord.l1Fill (core : Nat) (line : Nat) (dom : Domain) : Sys2Proof.Laws.OwnWord.Statement (.l1Fill core line dom) :=
  fun _ h => nomatch h
theorem Sys2Proof.Laws.OwnWord.writebackArrival (core : Nat) (line : Nat) : Sys2Proof.Laws.OwnWord.Statement (.writebackArrival core line) :=
  fun _ h => nomatch h
theorem Sys2Proof.Laws.OwnWord.l2Eviction (die : Nat) (line : Nat) : Sys2Proof.Laws.OwnWord.Statement (.l2Eviction die line) :=
  fun _ h => nomatch h
theorem Sys2Proof.Laws.OwnWord.directoryRequest (die : Nat) (word : Nat) (req : DirReq) : Sys2Proof.Laws.OwnWord.Statement (.directoryRequest die word req) :=
  fun _ h => nomatch h
theorem Sys2Proof.Laws.OwnWord.bisnpReceipt (line : Nat) (home : Sender) : Sys2Proof.Laws.OwnWord.Statement (.bisnpReceipt line home) :=
  fun _ h => nomatch h
theorem Sys2Proof.Laws.OwnWord.birspReceipt (line : Nat) (holder : Sender) : Sys2Proof.Laws.OwnWord.Statement (.birspReceipt line holder) :=
  fun _ h => nomatch h
theorem Sys2Proof.Laws.OwnWord.releasePushComplete (core : Nat) (ferry : Nat) : Sys2Proof.Laws.OwnWord.Statement (.releasePushComplete core ferry) :=
  fun _ h => nomatch h
theorem Sys2Proof.Laws.OwnWord.settleNotice (core : Nat) (place : Nat) (home : Sender) : Sys2Proof.Laws.OwnWord.Statement (.settleNotice core place home) :=
  fun _ h => nomatch h
theorem Sys2Proof.Laws.OwnWord.engineCommandComplete (core : Nat) (slot : Nat) (queue : Nat) : Sys2Proof.Laws.OwnWord.Statement (.engineCommandComplete core slot queue) :=
  fun _ h => nomatch h
theorem Sys2Proof.Laws.OwnWord.pageWalk (die : Nat) (ctx : BitVec 12) (va : Word) : Sys2Proof.Laws.OwnWord.Statement (.pageWalk die ctx va) :=
  fun _ h => nomatch h
theorem Sys2Proof.Laws.OwnWord.faultRecordWrite : Sys2Proof.Laws.OwnWord.Statement .faultRecordWrite :=
  fun _ h => nomatch h
theorem Sys2Proof.Laws.OwnWord.shootdown (value : Word) : Sys2Proof.Laws.OwnWord.Statement (.shootdown value) :=
  fun _ h => nomatch h
theorem Sys2Proof.Laws.OwnWord.shootdownComplete : Sys2Proof.Laws.OwnWord.Statement .shootdownComplete :=
  fun _ h => nomatch h
theorem Sys2Proof.Laws.OwnWord.replayPage (value : Word) : Sys2Proof.Laws.OwnWord.Statement (.replayPage value) :=
  fun _ h => nomatch h
theorem Sys2Proof.Laws.OwnWord.replayToken (value : Word) : Sys2Proof.Laws.OwnWord.Statement (.replayToken value) :=
  fun _ h => nomatch h
theorem Sys2Proof.Laws.OwnWord.replayExhaustedPage (value : Word) : Sys2Proof.Laws.OwnWord.Statement (.replayExhaustedPage value) :=
  fun _ h => nomatch h
theorem Sys2Proof.Laws.OwnWord.replayExhaustedToken (value : Word) : Sys2Proof.Laws.OwnWord.Statement (.replayExhaustedToken value) :=
  fun _ h => nomatch h
theorem Sys2Proof.Laws.OwnWord.faultWatchdog (die : Nat) (token : Nat) : Sys2Proof.Laws.OwnWord.Statement (.faultWatchdog die token) :=
  fun _ h => nomatch h
theorem Sys2Proof.Laws.OwnWord.preSave (value : Word) : Sys2Proof.Laws.OwnWord.Statement (.preSave value) :=
  fun _ h => nomatch h
theorem Sys2Proof.Laws.OwnWord.preRestore (value : Word) : Sys2Proof.Laws.OwnWord.Statement (.preRestore value) :=
  fun _ h => nomatch h
theorem Sys2Proof.Laws.OwnWord.preKill (value : Word) : Sys2Proof.Laws.OwnWord.Statement (.preKill value) :=
  fun _ h => nomatch h
theorem Sys2Proof.Laws.OwnWord.saveRecordWrite : Sys2Proof.Laws.OwnWord.Statement .saveRecordWrite :=
  fun _ h => nomatch h
theorem Sys2Proof.Laws.OwnWord.moveStart : Sys2Proof.Laws.OwnWord.Statement .moveStart :=
  fun _ h => nomatch h
theorem Sys2Proof.Laws.OwnWord.movePage : Sys2Proof.Laws.OwnWord.Statement .movePage :=
  fun _ h => nomatch h
theorem Sys2Proof.Laws.OwnWord.copyOnWrite (die : Nat) (token : Nat) : Sys2Proof.Laws.OwnWord.Statement (.copyOnWrite die token) :=
  fun _ h => nomatch h
theorem Sys2Proof.Laws.OwnWord.vpubAccept (core : Nat) (slot : Nat) : Sys2Proof.Laws.OwnWord.Statement (.vpubAccept core slot) :=
  fun _ h => nomatch h
theorem Sys2Proof.Laws.OwnWord.vpubComplete (ctx : BitVec 12) (region : BitVec 4) : Sys2Proof.Laws.OwnWord.Statement (.vpubComplete ctx region) :=
  fun _ h => nomatch h
theorem Sys2Proof.Laws.OwnWord.vreclAccept (core : Nat) (slot : Nat) : Sys2Proof.Laws.OwnWord.Statement (.vreclAccept core slot) :=
  fun _ h => nomatch h
theorem Sys2Proof.Laws.OwnWord.vreclPageVisit (ctx : BitVec 12) (region : BitVec 4) : Sys2Proof.Laws.OwnWord.Statement (.vreclPageVisit ctx region) :=
  fun _ h => nomatch h
theorem Sys2Proof.Laws.OwnWord.recoveryTimer (plane : Nat) : Sys2Proof.Laws.OwnWord.Statement (.recoveryTimer plane) :=
  fun _ h => nomatch h
theorem Sys2Proof.Laws.OwnWord.fabricRequestArrival (pkt : FabricRequest) : Sys2Proof.Laws.OwnWord.Statement (.fabricRequestArrival pkt) :=
  fun _ h => nomatch h
theorem Sys2Proof.Laws.OwnWord.peerTimeoutDeclaration (peer : Nat) : Sys2Proof.Laws.OwnWord.Statement (.peerTimeoutDeclaration peer) :=
  fun _ h => nomatch h
theorem Sys2Proof.Laws.OwnWord.planeDown (station : Nat) : Sys2Proof.Laws.OwnWord.Statement (.planeDown station) :=
  fun _ h => nomatch h
theorem Sys2Proof.Laws.OwnWord.planeUp (station : Nat) : Sys2Proof.Laws.OwnWord.Statement (.planeUp station) :=
  fun _ h => nomatch h
theorem Sys2Proof.Laws.OwnWord.dieDeath (die : Nat) : Sys2Proof.Laws.OwnWord.Statement (.dieDeath die) :=
  fun _ h => nomatch h
theorem Sys2Proof.Laws.OwnWord.poisonedRead (line : Nat) (port : Bool) : Sys2Proof.Laws.OwnWord.Statement (.poisonedRead line port) :=
  fun _ h => nomatch h
theorem Sys2Proof.Laws.OwnWord.hostMemoryAccess (pa : Nat) (data : Option (List Byte)) : Sys2Proof.Laws.OwnWord.Statement (.hostMemoryAccess pa data) :=
  fun _ h => nomatch h
theorem Sys2Proof.Laws.OwnWord.rsubAccept (core : Nat) (slot : Nat) : Sys2Proof.Laws.OwnWord.Statement (.rsubAccept core slot) :=
  fun _ h => nomatch h
theorem Sys2Proof.Laws.OwnWord.rsubConsume (die : Nat) (sub : Nat) : Sys2Proof.Laws.OwnWord.Statement (.rsubConsume die sub) :=
  fun _ h => nomatch h
theorem Sys2Proof.Laws.OwnWord.occlusionRecord (sub : Nat) : Sys2Proof.Laws.OwnWord.Statement (.occlusionRecord sub) :=
  fun _ h => nomatch h
theorem Sys2Proof.Laws.OwnWord.rasterLinkLoss (ctx : BitVec 12) (target : Word) : Sys2Proof.Laws.OwnWord.Statement (.rasterLinkLoss ctx target) :=
  fun _ h => nomatch h
theorem Sys2Proof.Laws.OwnWord.adamStep (net : Nat) : Sys2Proof.Laws.OwnWord.Statement (.adamStep net) :=
  fun _ h => nomatch h
theorem Sys2Proof.Laws.OwnWord.rcflipAccept (core : Nat) (slot : Nat) : Sys2Proof.Laws.OwnWord.Statement (.rcflipAccept core slot) :=
  fun _ h => nomatch h
theorem Sys2Proof.Laws.OwnWord.trapRecordPush : Sys2Proof.Laws.OwnWord.Statement .trapRecordPush :=
  fun _ h => nomatch h
theorem Sys2Proof.Laws.OwnWord.resumeResume (ctx : BitVec 12) : Sys2Proof.Laws.OwnWord.Statement (.resumeResume ctx) :=
  fun _ h => nomatch h
theorem Sys2Proof.Laws.OwnWord.resumeEnd (ctx : BitVec 12) : Sys2Proof.Laws.OwnWord.Statement (.resumeEnd ctx) :=
  fun _ h => nomatch h
theorem Sys2Proof.Laws.OwnWord.resumeKill (ctx : BitVec 12) : Sys2Proof.Laws.OwnWord.Statement (.resumeKill ctx) :=
  fun _ h => nomatch h
theorem Sys2Proof.Laws.OwnWord.bspartWrite (core : Nat) (value : Word) : Sys2Proof.Laws.OwnWord.Statement (.bspartWrite core value) :=
  fun _ h => nomatch h
theorem Sys2Proof.Laws.OwnWord.planeSteerWrite (value : Word) : Sys2Proof.Laws.OwnWord.Statement (.planeSteerWrite value) :=
  fun _ h => nomatch h
theorem Sys2Proof.Laws.OwnWord.planeQuiesceWrite (value : Word) : Sys2Proof.Laws.OwnWord.Statement (.planeQuiesceWrite value) :=
  fun _ h => nomatch h
theorem Sys2Proof.Laws.OwnWord.peerDeclareDead (peer : Nat) (value : Word) : Sys2Proof.Laws.OwnWord.Statement (.peerDeclareDead peer value) :=
  fun _ h => nomatch h
theorem Sys2Proof.Laws.OwnWord.peerReadmit (peer : Nat) (value : Word) : Sys2Proof.Laws.OwnWord.Statement (.peerReadmit peer value) :=
  fun _ h => nomatch h
theorem Sys2Proof.Laws.OwnWord.fabRtoWrite (value : Word) : Sys2Proof.Laws.OwnWord.Statement (.fabRtoWrite value) :=
  fun _ h => nomatch h
theorem Sys2Proof.Laws.OwnWord.fabricCounterClear (counter : Nat) : Sys2Proof.Laws.OwnWord.Statement (.fabricCounterClear counter) :=
  fun _ h => nomatch h
theorem Sys2Proof.Laws.OwnWord.pkgCfgWrite (value : Word) : Sys2Proof.Laws.OwnWord.Statement (.pkgCfgWrite value) :=
  fun _ h => nomatch h
theorem Sys2Proof.Laws.OwnWord.rcSlotWrite (net : Nat) (value : Word) : Sys2Proof.Laws.OwnWord.Statement (.rcSlotWrite net value) :=
  fun _ h => nomatch h
theorem Sys2Proof.Laws.OwnWord.islandOff (island : Nat) : Sys2Proof.Laws.OwnWord.Statement (.islandOff island) :=
  fun _ h => nomatch h
theorem Sys2Proof.Laws.OwnWord.islandOn (island : Nat) : Sys2Proof.Laws.OwnWord.Statement (.islandOn island) :=
  fun _ h => nomatch h
theorem Sys2Proof.Laws.OwnWord.islandAdmission : Sys2Proof.Laws.OwnWord.Statement .islandAdmission :=
  fun _ h => nomatch h
theorem Sys2Proof.Laws.OwnWord.imgGo (value : Word) : Sys2Proof.Laws.OwnWord.Statement (.imgGo value) :=
  fun _ h => nomatch h
theorem Sys2Proof.Laws.OwnWord.imageVerified : Sys2Proof.Laws.OwnWord.Statement .imageVerified :=
  fun _ h => nomatch h
theorem Sys2Proof.Laws.OwnWord.attGo (value : Word) : Sys2Proof.Laws.OwnWord.Statement (.attGo value) :=
  fun _ h => nomatch h
theorem Sys2Proof.Laws.OwnWord.ckptRestore (value : Word) : Sys2Proof.Laws.OwnWord.Statement (.ckptRestore value) :=
  fun _ h => nomatch h
theorem Sys2Proof.Laws.OwnWord.ucieLinkTraining (up : BitVec 8) : Sys2Proof.Laws.OwnWord.Statement (.ucieLinkTraining up) :=
  fun _ h => nomatch h
theorem Sys2Proof.Laws.OwnWord.packageReset : Sys2Proof.Laws.OwnWord.Statement .packageReset :=
  fun _ h => nomatch h
theorem Sys2Proof.Laws.OwnWord.controlRegisterWrite (offset : Nat) (value : Word) : Sys2Proof.Laws.OwnWord.Statement (.controlRegisterWrite offset value) :=
  fun _ h => nomatch h
theorem Sys2Proof.Laws.OwnWord.fabricResponseArrival (rsp : FabricResponse) : Sys2Proof.Laws.OwnWord.Statement (.fabricResponseArrival rsp) :=
  fun _ h => nomatch h
theorem Sys2Proof.Laws.OwnWord.traversalUnitError (die : Nat) (unit : Nat) : Sys2Proof.Laws.OwnWord.Statement (.traversalUnitError die unit) :=
  fun _ h => nomatch h
theorem Sys2Proof.Laws.OwnWord.controlThreadRestart (core : Nat) (thread : Nat) (pc : BitVec 48) : Sys2Proof.Laws.OwnWord.Statement (.controlThreadRestart core thread pc) :=
  fun _ h => nomatch h
theorem Sys2Proof.Laws.OwnWord.attestationReportWritten : Sys2Proof.Laws.OwnWord.Statement .attestationReportWritten :=
  fun _ h => nomatch h
theorem Sys2Proof.Laws.OwnWord.checkpointCutComplete : Sys2Proof.Laws.OwnWord.Statement .checkpointCutComplete :=
  fun _ h => nomatch h
theorem Sys2Proof.Laws.OwnWord.checkpointRestoreComplete : Sys2Proof.Laws.OwnWord.Statement .checkpointRestoreComplete :=
  fun _ h => nomatch h
end

