-- ==== Sys2Proof/Laws/Words.lean ====
section
/-! SUPPORT. What the bodies that many words share do to a lane's fibre. -/

namespace Sys2Proof.Machine

theorem Lane.put_finds {l : Lane} {s t : State} (h : l.Finds s t) (tr : Bool) (d : BitVec 8) (v : Word) :
    l.put t tr d v = t.updFibre l.c l.p (l.writes s tr d v) := by
  simp only [Lane.put, State.updFibre, Lane.writes, h.rest.coin]

theorem Lane.addFp_put_finds {l : Lane} {s t : State} (h : l.Finds s t) (tr : Bool) (d : BitVec 8) (v : Word) (x : BitVec 5) :
    l.addFp (l.put t tr d v) x = t.updFibre l.c l.p (fun f => (l.writes s tr d v f).addFp x) := by
  rw [Lane.put_finds h, Lane.addFp, State.updFibre_updFibre]

/-- A word with the body of a register result. -/
theorem writesD_of_regBody {i : Instr} {k : Checks} {tr : Bool} {d a b c : BitVec 8} {g : Word → Word → Word → Word}
    {v : Lane → State → Word} (hx : ∀ s, exec i s = issue k (regBody tr d a b c g) s) (hk : k.term = false)
    (hv : i.wf = true → ∀ l s, v l s = g (l.reg s a) (l.reg s b) (l.reg s c)) : WritesD i k tr d v := by
  intro hw s co n fy hi ha hp
  rw [hx]
  refine issue_changes (P := fun _ _ => True) hk (fun l t _ _ hF _ => ?_) hi ha hp
  simp only [regBody, hF.reg, hv hw, Lane.put_finds hF]

/-- A word with the body of a floating-point result. -/
theorem writesFp_of_fpBody {i : Instr} {k : Checks} {tr : Bool} {d a b c : BitVec 8} {g : Word → Word → Word → Word × BitVec 5}
    {v : Lane → State → Word × BitVec 5} (hx : ∀ s, exec i s = issue k (fpBody tr d a b c g) s) (hk : k.term = false)
    (hv : i.wf = true → ∀ l s, v l s = g (l.reg s a) (l.reg s b) (l.reg s c)) : WritesFp i k tr d v := by
  intro hw s co n fy hi ha hp
  rw [hx]
  refine issue_changes (P := fun _ _ => True) hk (fun l t _ _ hF _ => ?_) hi ha hp
  simp only [fpBody, hF.reg, hv hw, Lane.addFp_put_finds hF]

theorem Lane.defer_finds {l : Lane} {s t : State} (h : l.Finds s t) (fl : Fl) (regs : List (Nat × Word)) (x : BitVec 5) :
    l.defer t fl regs [] x none none .b8 [] true = t.updFibre l.c l.p (l.owes s fl regs x) := by
  unfold Lane.defer Lane.owes
  rw [h.ferry]

/-- A word with the body of a result that lands later. -/
theorem floatLands_of_laterBody {mk : AluOp → Instr} {regs : AluOp → List Nat}
    {v : AluOp → Word → Word → Word → Word × BitVec 5}
    (hx : ∀ o s, exec (mk o) s =
      issue (checksOf (mk o) o.ctl (regs o)) (laterBody o.ctl.fl o.d o.a o.b o.c (v o)) s) : FloatLands mk regs v := by
  intro o hw s co n fy hi ha hp
  rw [hx]
  refine issue_changes (P := fun _ _ => True) rfl (fun l t _ _ hF _ => ?_) hi ha hp
  simp only [laterBody, hF.reg, Lane.defer_finds hF]

/-- A word that writes one predicate. -/
theorem writesPred_of_putPred {i : Instr} {k : Checks} {body : Lane → State → LaneEnd} {d : Nat} {v : Lane → State → Bool}
    (hx : ∀ s, exec i s = issue k body s) (hk : k.term = false)
    (hv : i.wf = true → ∀ l s t, l.Finds s t → body l t = .go (l.putPred t d (v l s))) : WritesPred i k d v := by
  intro hw s co n fy hi ha hp
  rw [hx]
  exact issue_changes (P := fun _ _ => True) hk (fun l t _ _ hF _ => hv hw l s t hF) hi ha hp

/-- A word whose lanes end as `f` says. -/
theorem performs_of_issue {i : Instr} {k : Checks} {body : Lane → State → LaneEnd} {P : Lane → State → Prop}
    {f : Lane → State → State} (hx : ∀ s, exec i s = issue k body s)
    (h : ∀ l s, l.inWindow s k → P l s → l.Ends body s (f l s)) : Performs i k P f := by
  intro s c n fy hi ha hm
  rw [hx]
  exact issue_performs h hi ha hm

end Sys2Proof.Machine
end

