-- ==== Sys2Proof/Tests/Slice0.lean ====
section
/-! SUPPORT. Tests: words that the checks refuse; words that decode as the spec writes them; one step of an instruction against a
value that the spec gives; and for each statement a state and operands that meet its hypotheses. -/

namespace Sys2Proof.Tests

set_option Elab.async false

open Sys2Proof Sys2Proof.Machine

/-! ## Operands -/

/-- No inversion, guard p15 (which is always true), no flag, no transient. -/
def ctl : Ctl := { n := false, g := 15, fl := .none, t := false }
def ctlA : Ctl := { n := false, g := 15, fl := .setA, t := false }

def alu (ty : Ty) (d a b c : BitVec 8) (opx : BitVec 8 := 0) : AluOp :=
  { ctl := ctl, d := d, a := a, b := b, c := c, ty := ty, rm := .rne, sat := false, opx := opx }
def imm (d a : BitVec 8) (i : BitVec 31) : ImmOp := { ctl := ctl, d := d, a := a, imm := i }
def memo (d a b c : BitVec 8) (sz : Sz) (i : BitVec 7 := 0) : MemOp :=
  { ctl := ctl, d := d, a := a, b := b, c := c, sz := sz, os := false, sx := false, ord := .plain, nf := false, imm7 := i }
def atm (d a b c : BitVec 8) (sz : Sz) (scr : Bool) (op : Aop) : AtomOp :=
  { ctl := ctl, d := d, a := a, b := b, c := c, sz := sz, os := false, scr := scr, ord := .plain, aop := op, imm4 := 0 }
def per (d a b c : BitVec 8) (sz : Sz) (op : Aop := .add) : PeerOp :=
  { ctl := ctl, d := d, a := a, b := b, c := c, sz := sz, ord := .plain, aop := op, imm4 := 0 }
def own (d a b c : BitVec 8) (m : BitVec 15) : OwnOp := { ctl := ctl, d := d, a := a, b := b, c := c, mod := m }
def half (ty : Hty) (d s : BitVec 7) (i : Bool := false) : Half := { g := 0, t := false, d := d, i := i, s := s, ty := ty }

/-! ## Each check refuses an ill-formed term -/

/-- N with guard 15 (R197); FL on a word that takes no flag; a second unused operand; a type, rounding mode, SAT or OPX that the
instruction does not take (R215, check 3). -/
theorem smoke_alu :
    ([.iadd { alu .i32 1 2 3 0 with ctl := { ctl with n := true } }, .isub { alu .i32 1 2 3 0 with ctl := ctlA }, .imul (alu .f32 1 2 3 0),
      .imulh (alu .i32 1 2 3 4), .imad { alu .i32 1 2 3 4 with rm := .rtz }, .idiv { alu .i32 1 2 3 0 with sat := true },
      .irem (alu .i32 1 2 3 0 1), .imin (alu .i8 1 2 3 0), .imax (alu .b4 1 2 3 0), .iabs (alu .u32 1 2 0 0), .ineg (alu .i32 1 2 3 0),
      .and (alu .i32 1 2 3 1), .or (alu .f64 1 2 3 0), .xor (alu .i32 1 2 3 0 2), .andn (alu .i32 1 2 3 1),
      .shl (alu .i32 1 2 0 0 0xA0), .shr (alu .i32 1 2 3 0 0xC1), .sar (alu .i32 1 2 3 0 1), .rot (alu .i64 1 2 3 0 0x81),
      .bfx (alu .i32 1 2 3 4), .bfi (alu .i32 1 2 3 4 1), .popc (alu .i32 1 2 1 0), .clz (alu .i32 1 2 0 1), .brev (alu .f32 1 2 0 0),
      .lea (alu .u64 1 2 3 0), .mov (alu .i32 1 2 0 1), .sadd (alu .i8 1 2 3 0), .idot4 (alu .i32 1 2 3 4), .permb (alu .i64 1 2 3 4)] : List Instr).all
      (fun i => !i.wf) = true ∧
    ([.iaddi { imm 1 2 3 with ctl := ctlA }, .movi (imm 1 2 3), .movhi (imm 1 2 0x40000), .icmpi (imm 0x60 1 2), .br (imm 1 0 1),
      .brx (imm 1 2 0), .call (imm 1 2 0), .mloop (imm 1 2 0), .mmovi (imm 16 0 1)] : List Instr).all (fun i => !i.wf) = true := by
  decide +kernel
theorem smoke_float :
    ([.fadd (alu .i32 1 2 3 0), .fsub { alu .f64 1 2 3 0 with sat := true }, .fmul (alu .f32 1 2 3 1), .ffma (alu .e4m3 1 2 3 4),
      .fmin { alu .f32 1 2 3 0 with rm := .rup }, .fmax (alu .f32 1 2 3 1), .fdiv (alu .f16 1 2 3 0), .fsqrt (alu .f32 1 2 3 0),
      .frcp (alu .f64 1 2 0 0), .frsq (alu .f32 1 2 1 0), .fexp2 (alu .f32 1 2 0 1), .flog2 (alu .f32 1 2 0 0 1), .fsin (alu .f64 1 2 0 0),
      .fcos { alu .f32 1 2 0 0 with rm := .rdn }, .fclass (alu .i32 1 2 0 0), .frnd (alu .e5m2 1 2 0 0), .fscale (alu .f32 1 2 3 4),
      .ffrxp (alu .f32 1 2 0 0 2), .cvtff (alu .f32 1 2 0 0 4), .cvtfi (alu .f32 1 2 0 0 4), .cvtif (alu .f32 1 2 0 0 4),
      .cvtn (alu .f64 1 2 3 0 8), .cvtw (alu .f32 1 2 0 0 4), .b4enc (alu .b4 1 2 3 0 0), .b4dec (alu .b4 1 2 3 0 8),
      .icmp (alu .i32 16 1 2 0 0), .fcmp (alu .f32 1 2 3 1 0), .qddx (alu .f16 1 2 0 0), .qddy (alu .f32 1 2 0 0 2)] : List Instr).all
      (fun i => !i.wf) = true := by decide +kernel
theorem smoke_memory :
    ([.ld (memo 1 32 0 0 .b4), .st { memo 1 2 0 0 .b4 with sx := true }, .lds (memo 1 2 0 0 .b16), .sts { memo 1 2 0 0 .b4 with ord := .acq },
      .ldv { memo 1 2 0 0 .b8 with sx := true }, .pref (memo 2 2 0 0 .b4), .ldp (per 1 2 3 0 .b16), .stp { per 1 2 3 0 .b8 with ord := .acq },
      .atom (atm 1 2 3 4 .b2 false .add), .acas (atm 1 2 3 5 .b4 false .add), .red (atm 1 2 3 4 .b4 false .add), .atomp (per 1 2 3 4 .b1),
      .acasp (per 1 2 3 5 .b8), .redp (per 1 2 3 4 .b8), .ld { memo 1 2 0 0 .b4 16 with nf := true }] : List Instr).all
      (fun i => !i.wf) = true := by decide +kernel
theorem smoke_own :
    ([.sel (own 1 2 3 16 0), .plop (own 16 0 0 0 0), .pmov (own 1 2 0 0 0), .qswz (own 1 2 3 0 0), .qvote (own 1 2 0 0 3), .rdsr (own 1 23 0 0 0),
      .gmov (own 1 32 0 0 0), .gwr (own 32 1 0 0 0), .fspawn (own 1 2 3 4 0), .fence (own 1 0 0 0 0), .bar (own 0 0 0 0 16),
      .bara (own 1 0 0 0 0), .barc (own 0 0 0 0 1), .cwait (own 0 0 0 0 32), .cclose (own 0 0 0 0 1), .mbarr (own 0 0 0 0 16),
      .mbwait (own 1 0 0 0 0), .qjoin (own 0 0 0 0 0), .nano (own 1 0 0 0 5), .jmpr (own 0 1 2 0 0), .callr (own 1 2 3 0 0),
      .ret (own 0 1 0 0 1), .exit (own 1 0 0 0 0), .yield (own 0 0 0 0 1), .trap (own 0 1 0 0 4096), .bkpt (own 0 0 0 0 1)] : List Instr).all
      (fun i => !i.wf) = true := by decide +kernel
theorem smoke_stream :
    ([.mclaim (own 0 0 0 0 0xFFF), .mrel (own 0 0 0 0 0x1000), .mlda (own 64 0 0 0 0x2000), .mldb (own 0 16 0 0 0x2000),
      .mma (own 0 0 1 0 0x2080), .mbegin (own 0 0 0 0 2), .mend (own 0 0 0 0 1), .mzero (own 0 0 0 0 0x3000), .mdrain (own 0 0 0 0 0x1800),
      .mldc (own 0 0 0 1 0x2000), .msig (own 0 0 0 0 16), .mwait (own 0 16 0 0 0), .mstop (own 0 0 0 0 1), .madd (own 0 0 16 0 0),
      .mstop { own 0 0 0 0 0 with ctl := { ctl with g := 0 } }] : List Instr).all (fun i => !i.wf) = true := by decide +kernel
theorem smoke_system :
    ([.tcopy (own 0 1 0 0 0x5000), .tcopyp (own 0 1 2 0 0x0800), .halo (own 0 1 2 3 1), .ared (own 0 1 2 3 0), .bcast (own 1 1 2 3 0),
      .tfill (own 1 2 3 0 0x4000), .rqry (own 1 2 3 0 0), .rqnext (own 1 2 3 4 0), .rcq (own 1 2 0 16 0), .rcqt (own 1 2 3 4 2),
      .rcflip (own 0 0 0 0 2), .qpush (own 1 2 3 4 0), .qpop (own 1 2 3 4 0), .rcls (own 1 2 0 4 1), .rsub (own 0 1 2 3 0),
      .texs (own 1 2 3 4 6), .residCreate (own 1 2 3 0 1), .residDestroy (own 1 2 3 0 0), .residSetprio (own 1 2 3 0 0),
      .residSetpin (own 1 2 3 0 0), .residPromote (own 1 2 3 0 0), .residDemote (own 1 2 3 0 0), .residRead (own 1 2 3 0 7),
      .vpub (own 1 0 0 0 16), .vrecl (own 1 2 3 0 0), .cwb (own 1 2 3 0 0), .cinv (own 0 2 3 1 0), .iinv (own 0 2 3 0 2),
      .fetchb (own 0 0 0 0 1), .rdtime (own 1 0 0 0 2), .perfr (own 1 0 0 0 6), .lnchLaunch (own 1 2 3 4 1), .lnchBind (own 1 2 3 4 0),
      .lnchUnbind (own 1 2 3 4 3), .mtcr (own 1 2 0 0 7), .mfcr (own 1 2 0 0 0), .halt (own 1 2 0 0 0), .ckpt (own 1 2 3 0 0)] : List Instr).all
      (fun i => !i.wf) = true := by decide +kernel
theorem smoke_halves :
    ([.hnop (half .i64 0 0), .halfIadd (half .f32 1 2), .halfIsub (half .f64 1 2), .halfAnd (half .f32 1 2), .halfOr (half .f32 1 2),
      .halfXor (half .f32 1 2), .halfShl (half .f32 1 2), .halfShr (half .f32 1 2), .halfSar (half .f32 1 2), .halfMov (half .i32 1 2 true),
      .halfImin (half .f32 1 2), .halfImax (half .f32 1 2), .halfFadd (half .i32 1 2), .halfFsub (half .i32 1 2), .halfFmul (half .u32 1 2),
      .halfFmin (half .i32 1 2), .halfFmax (half .u64 1 2), .halfMovi (half .i32 1 2), .halfIabs (half .u32 1 2),
      .halfIneg (half .f32 1 2)] : List Instr).all (fun i => !i.wf) = true := by decide +kernel
/-- A step of an agent that the package does not have is ill formed. -/
theorem smoke_events :
    ([.ferrySelection 640, .entrySpill 640, .resultLands 704 0 0, .clusterPlacement 4, .boundIdleExpiry 256, .groupEnd 640 0,
      .barTimeout 640 0 0, .nanoExpiry 704 0, .l2Eviction 4 0, .releasePushComplete 704 0, .engineCommandComplete 0 0 7,
      .shootdown 0, .replayPage 3, .replayToken 1, .preSave 1, .preRestore 1, .preKill 1, .recoveryTimer 16, .dieDeath 4, .adamStep 2,
      .bspartWrite 640 0, .islandOff 256, .traversalUnitError 0 8] : List Instr).all (fun i => !i.wf) = true := by decide +kernel

/-! ## Every instruction word decodes as the opcode map and the layouts of the spec write it (R196, R200 to R205, R211) -/

/-- A full-format word from its fields, at the places that R196 gives them; the guard is p15. -/
def code (op d a b c m : Nat) : Word := BitVec.ofNat 64 (op * 2 ^ 55 + 15 * 2 ^ 50 + d * 2 ^ 39 + a * 2 ^ 31 + b * 2 ^ 23 + c * 2 ^ 15 + m)

/-- A half from its fields, at the places that R205 gives them; guard code 0. -/
def hcode (op6 d i s ty : Nat) : Nat := op6 * 2 ^ 25 + d * 2 ^ 15 + i * 2 ^ 14 + s * 2 ^ 7 + ty * 2 ^ 4

def decodes (r : Word × Instr) : Bool := decodeWord r.1 == .single r.2

theorem decode_integer :
    ([(code 0x00 1 2 3 0 0x0000, .iadd (alu .i32 1 2 3 0 0)),
      (code 0x01 1 2 3 0 0x0000, .isub (alu .i32 1 2 3 0 0)),
      (code 0x02 1 2 255 255 0x7FFE, .iaddi (imm 1 2 2147483646)),
      (code 0x03 1 2 3 0 0x0000, .imul (alu .i32 1 2 3 0 0)),
      (code 0x04 1 2 3 0 0x1800, .imulh (alu .u64 1 2 3 0 0)),
      (code 0x05 1 2 3 4 0x1000, .imad (alu .u32 1 2 3 4 0)),
      (code 0x06 1 2 3 0 0x0000, .idiv (alu .i32 1 2 3 0 0)),
      (code 0x07 1 2 3 0 0x0000, .irem (alu .i32 1 2 3 0 0)),
      (code 0x08 1 2 3 0 0x1800, .imin (alu .u64 1 2 3 0 0)),
      (code 0x09 1 2 3 0 0x0000, .imax (alu .i32 1 2 3 0 0)),
      (code 0x0A 1 2 0 0 0x0800, .iabs (alu .i64 1 2 0 0 0)),
      (code 0x0B 1 2 0 0 0x0800, .ineg (alu .i64 1 2 0 0 0)),
      (code 0x0C 1 2 3 0 0x0000, .and (alu .i32 1 2 3 0 0)),
      (code 0x0D 1 2 3 0 0x0000, .or (alu .i32 1 2 3 0 0)),
      (code 0x0E 1 2 3 0 0x0000, .xor (alu .i32 1 2 3 0 0)),
      (code 0x0F 1 2 3 0 0x0000, .andn (alu .i32 1 2 3 0 0)),
      (code 0x10 1 2 0 0 0x08A5, .shl (alu .i64 1 2 0 0 165)),
      (code 0x11 1 2 0 0 0x08A5, .shr (alu .i64 1 2 0 0 165)),
      (code 0x12 1 2 0 0 0x08A5, .sar (alu .i64 1 2 0 0 165)),
      (code 0x13 1 2 3 0 0x1040, .rot (alu .u32 1 2 3 0 64)),
      (code 0x14 1 2 3 0 0x0000, .bfx (alu .i32 1 2 3 0 0)),
      (code 0x15 1 2 3 4 0x1000, .bfi (alu .u32 1 2 3 4 0)),
      (code 0x16 1 2 0 0 0x0800, .popc (alu .i64 1 2 0 0 0)),
      (code 0x17 1 2 0 0 0x0800, .clz (alu .i64 1 2 0 0 0)),
      (code 0x18 1 2 0 0 0x0800, .brev (alu .i64 1 2 0 0 0)),
      (code 0x19 1 2 3 0 0x0805, .lea (alu .i64 1 2 3 0 5)),
      (code 0x1A 1 0 0 0 0x0005, .movi (imm 1 0 5)),
      (code 0x1B 1 2 0 6 0x7FF8, .movhi (imm 1 2 229368)),
      (code 0x1C 1 2 0 0 0x0800, .mov (alu .i64 1 2 0 0 0)),
      (code 0x1D 1 2 3 0 0x0000, .sadd (alu .i32 1 2 3 0 0)),
      (code 0x1E 1 2 3 4 0x5800, .idot4 (alu .u8 1 2 3 4 0)),
      (code 0x1F 1 2 3 4 0x1800, .permb (alu .u64 1 2 3 4 0))] : List (Word × Instr)).all decodes = true := by decide +kernel
theorem decode_float :
    ([(code 0x20 1 2 3 0 0x2800, .fadd (alu .f64 1 2 3 0 0)),
      (code 0x21 1 2 3 0 0x2800, .fsub (alu .f64 1 2 3 0 0)),
      (code 0x22 1 2 3 0 0x2800, .fmul (alu .f64 1 2 3 0 0)),
      (code 0x23 1 2 3 4 0x3800, .ffma (alu .bf16 1 2 3 4 0)),
      (code 0x24 1 2 3 0 0x2800, .fmin (alu .f64 1 2 3 0 0)),
      (code 0x25 1 2 3 0 0x2800, .fmax (alu .f64 1 2 3 0 0)),
      (code 0x26 1 2 3 0 0x2800, .fdiv (alu .f64 1 2 3 0 0)),
      (code 0x27 1 2 0 0 0x2000, .fsqrt (alu .f32 1 2 0 0 0)),
      (code 0x28 1 2 0 0 0x2000, .frcp (alu .f32 1 2 0 0 0)),
      (code 0x29 1 2 0 0 0x2000, .frsq (alu .f32 1 2 0 0 0)),
      (code 0x2A 1 2 0 0 0x2000, .fexp2 (alu .f32 1 2 0 0 0)),
      (code 0x2B 1 2 0 0 0x2000, .flog2 (alu .f32 1 2 0 0 0)),
      (code 0x2C 1 2 0 0 0x2000, .fsin (alu .f32 1 2 0 0 0)),
      (code 0x2D 1 2 0 0 0x2000, .fcos (alu .f32 1 2 0 0 0)),
      (code 0x2E 1 2 0 0 0x2000, .fclass (alu .f32 1 2 0 0 0)),
      (code 0x2F 1 2 0 0 0x2000, .frnd (alu .f32 1 2 0 0 0)),
      (code 0x30 1 2 3 0 0x3000, .fscale (alu .f16 1 2 3 0 0)),
      (code 0x31 1 2 0 0 0x2801, .ffrxp (alu .f64 1 2 0 0 1)),
      (code 0x32 1 2 0 0 0x2005, .cvtff (alu .f32 1 2 0 0 5)),
      (code 0x33 1 2 0 0 0x200A, .cvtfi (alu .f32 1 2 0 0 10)),
      (code 0x34 1 2 0 0 0x0005, .cvtif (alu .i32 1 2 0 0 5)),
      (code 0x35 1 2 3 0 0x2008, .cvtn (alu .f32 1 2 3 0 8)),
      (code 0x36 1 2 0 0 0x201B, .cvtw (alu .f32 1 2 0 0 27)),
      (code 0x37 1 2 0 0 0x6007, .b4enc (alu .b4 1 2 0 0 7)),
      (code 0x38 1 2 3 0 0x6005, .b4dec (alu .b4 1 2 3 0 5))] : List (Word × Instr)).all decodes = true := by decide +kernel
theorem decode_predicate_quad_group :
    ([(code 0x40 3 2 1 4 0x1035, .icmp (alu .u32 3 2 1 4 53)),
      (code 0x41 163 8 0 0 0x0009, .icmpi (imm 163 8 9)),
      (code 0x42 3 2 1 0 0x2007, .fcmp (alu .f32 3 2 1 0 7)),
      (code 0x43 1 2 3 4 0x0000, .sel (own 1 2 3 4 0)),
      (code 0x44 1 2 3 4 0x00C0, .plop (own 1 2 3 4 192)),
      (code 0x45 0 2 3 0 0x0001, .pmov (own 0 2 3 0 1)),
      (code 0x50 1 2 3 0 0x0003, .qswz (own 1 2 3 0 3)),
      (code 0x51 1 2 0 0 0x2001, .qddx (alu .f32 1 2 0 0 1)),
      (code 0x52 1 2 0 0 0x2001, .qddy (alu .f32 1 2 0 0 1)),
      (code 0x53 1 2 0 0 0x0006, .qvote (own 1 2 0 0 6)),
      (code 0x54 1 20 0 0 0x0001, .rdsr (own 1 20 0 0 1)),
      (code 0x55 1 2 0 0 0x0000, .gmov (own 1 2 0 0 0)),
      (code 0x56 1 2 0 0 0x0000, .gwr (own 1 2 0 0 0)),
      (code 0x57 1 2 3 0 0x0000, .fspawn (own 1 2 3 0 0))] : List (Word × Instr)).all decodes = true := by decide +kernel
theorem decode_memory :
    ([(code 0x60 4 2 5 0 0x3003, .ld (memo 4 2 5 0 .b8 3)),
      (code 0x61 4 2 5 0 0x2001, .st (memo 4 2 5 0 .b4 1)),
      (code 0x62 4 2 5 0 0x4000, .lds (memo 4 2 5 0 .b16 0)),
      (code 0x63 4 2 5 0 0x1002, .sts (memo 4 2 5 0 .b2 2)),
      (code 0x64 4 2 5 6 0x3000, .ldv (memo 4 2 5 6 .b8 0)),
      (code 0x65 4 2 5 0 0x4000, .ldp (per 4 2 5 0 .b16 .add)),
      (code 0x66 4 2 5 0 0x0000, .stp (per 4 2 5 0 .b1 .add)),
      (code 0x67 1 2 5 0 0x2000, .pref (memo 1 2 5 0 .b4 0)),
      (code 0x80 4 2 5 6 0x3480, .atom (atm 4 2 5 6 .b8 true .exch)),
      (code 0x81 4 2 5 6 0x2000, .acas (atm 4 2 5 6 .b4 false .add)),
      (code 0x82 0 2 5 6 0x20B0, .red (atm 0 2 5 6 .b4 false .fadd)),
      (code 0x83 4 2 5 6 0x20A0, .atomp (per 4 2 5 6 .b4 .decw)),
      (code 0x84 4 2 5 6 0x3000, .acasp (per 4 2 5 6 .b8 .add)),
      (code 0x85 0 2 5 6 0x3070, .redp (per 0 2 5 6 .b8 .xor))] : List (Word × Instr)).all decodes = true := by decide +kernel
theorem decode_control :
    ([(code 0x90 9 0 0 0 0x0201, .fence (own 9 0 0 0 513)),
      (code 0x91 0 0 0 0 0x0003, .bar (own 0 0 0 0 3)),
      (code 0x92 0 0 0 0 0x0001, .bara (own 0 0 0 0 1)),
      (code 0x93 0 0 0 0 0x0000, .barc (own 0 0 0 0 0)),
      (code 0x94 0 0 0 0 0x0007, .cwait (own 0 0 0 0 7)),
      (code 0x95 0 0 0 0 0x0000, .cclose (own 0 0 0 0 0)),
      (code 0x96 0 0 0 0 0x0009, .mbarr (own 0 0 0 0 9)),
      (code 0x97 0 2 0 0 0x0009, .mbwait (own 0 2 0 0 9)),
      (code 0x98 0 0 0 0 0x0041, .qjoin (own 0 0 0 0 65)),
      (code 0x99 0 0 0 0 0x0064, .nano (own 0 0 0 0 100)),
      (code 0xA0 0 0 0 0 0x0010, .br (imm 0 0 16)),
      (code 0xA1 0 2 16 10 0x0010, .brx (imm 0 2 134545424)),
      (code 0xA2 0 2 0 0 0x0000, .jmpr (own 0 2 0 0 0)),
      (code 0xA3 50 0 0 0 0x001B, .call (imm 50 0 27)),
      (code 0xA4 1 2 0 0 0x0000, .callr (own 1 2 0 0 0)),
      (code 0xA5 0 50 0 0 0x0000, .ret (own 0 50 0 0 0)),
      (code 0xA6 0 0 0 0 0x0000, .exit (own 0 0 0 0 0)),
      (code 0xA7 0 0 0 0 0x0000, .yield (own 0 0 0 0 0)),
      (code 0xA8 0 2 0 0 0x0123, .trap (own 0 2 0 0 291)),
      (code 0xA9 0 0 0 0 0x0000, .bkpt (own 0 0 0 0 0))] : List (Word × Instr)).all decodes = true := by decide +kernel
theorem decode_stream :
    ([(code 0xB0 0 0 0 0 0x0102, .mclaim (own 0 0 0 0 258)),
      (code 0xB1 0 0 0 0 0x0102, .mrel (own 0 0 0 0 258)),
      (code 0xB2 1 2 3 0 0x2000, .mlda (own 1 2 3 0 8192)),
      (code 0xB3 1 2 3 0 0x6000, .mldb (own 1 2 3 0 24576)),
      (code 0xB4 0 0 1 0 0x2A80, .mma (own 0 0 1 0 10880)),
      (code 0xB5 0 0 0 0 0x0001, .mbegin (own 0 0 0 0 1)),
      (code 0xB6 0 0 0 0 0x0000, .mend (own 0 0 0 0 0)),
      (code 0xB7 2 0 0 0 0x2800, .mzero (own 2 0 0 0 10240)),
      (code 0xB8 2 3 4 0 0x4000, .mdrain (own 2 3 4 0 16384)),
      (code 0xB9 2 3 4 0 0x2000, .mldc (own 2 3 4 0 8192)),
      (code 0xBA 0 0 0 0 0x0005, .msig (own 0 0 0 0 5)),
      (code 0xBB 0 2 0 0 0x0005, .mwait (own 0 2 0 0 5)),
      (code 0xBC 0 4 0 0 0x0003, .mloop (imm 0 4 3)),
      (code 0xBD 0 0 0 0 0x0000, .mstop (own 0 0 0 0 0)),
      (code 0xBE 5 0 0 10 0x0001, .mmovi (imm 5 0 327681)),
      (code 0xBF 1 1 0 0 0x4080, .madd (own 1 1 0 0 16512))] : List (Word × Instr)).all decodes = true := by decide +kernel
theorem decode_engine_and_graphics :
    ([(code 0xC0 0 2 0 0 0x2080, .tcopy (own 0 2 0 0 8320)),
      (code 0xC1 0 2 8 0 0x2280, .tcopyp (own 0 2 8 0 8832)),
      (code 0xC2 0 2 8 9 0x2800, .halo (own 0 2 8 9 10240)),
      (code 0xC3 0 2 8 9 0x2900, .ared (own 0 2 8 9 10496)),
      (code 0xC4 0 2 8 9 0x0000, .bcast (own 0 2 8 9 0)),
      (code 0xC5 1 2 3 0 0x2280, .tfill (own 1 2 3 0 8832)),
      (code 0xD0 1 2 0 0 0x0011, .rqry (own 1 2 0 0 17)),
      (code 0xD1 1 2 3 0 0x0000, .rqnext (own 1 2 3 0 0)),
      (code 0xD2 1 2 0 4 0x0001, .rcq (own 1 2 0 4 1)),
      (code 0xD3 1 2 3 4 0x0000, .rcqt (own 1 2 3 4 0)),
      (code 0xD4 0 0 0 0 0x0001, .rcflip (own 0 0 0 0 1)),
      (code 0xD5 0 20 8 2 0x0001, .qpush (own 0 20 8 2 1)),
      (code 0xD6 8 20 0 2 0x0001, .qpop (own 8 20 0 2 1)),
      (code 0xD7 1 2 0 4 0x0000, .rcls (own 1 2 0 4 0)),
      (code 0xD8 0 2 3 0 0x0000, .rsub (own 0 2 3 0 0)),
      (code 0xD9 1 2 3 4 0x0005, .texs (own 1 2 3 4 5))] : List (Word × Instr)).all decodes = true := by decide +kernel
theorem decode_system :
    ([(code 0xE0 1 2 3 0 0x0000, .residCreate (own 1 2 3 0 0)),
      (code 0xE0 1 2 3 0 0x0001, .residDestroy (own 1 2 3 0 1)),
      (code 0xE0 1 2 3 0 0x0002, .residSetprio (own 1 2 3 0 2)),
      (code 0xE0 1 2 3 0 0x0003, .residSetpin (own 1 2 3 0 3)),
      (code 0xE0 1 2 3 0 0x0004, .residPromote (own 1 2 3 0 4)),
      (code 0xE0 1 2 3 0 0x0005, .residDemote (own 1 2 3 0 5)),
      (code 0xE0 1 2 3 0 0x0006, .residRead (own 1 2 3 0 6)),
      (code 0xE1 13 0 0 0 0x0002, .vpub (own 13 0 0 0 2)),
      (code 0xE2 14 15 0 0 0x0002, .vrecl (own 14 15 0 0 2)),
      (code 0xE3 0 23 24 0 0x0000, .cwb (own 0 23 24 0 0)),
      (code 0xE4 0 23 24 0 0x0000, .cinv (own 0 23 24 0 0)),
      (code 0xE5 0 23 24 0 0x0001, .iinv (own 0 23 24 0 1)),
      (code 0xE6 0 0 0 0 0x0000, .fetchb (own 0 0 0 0 0)),
      (code 0xE7 1 0 0 0 0x0001, .rdtime (own 1 0 0 0 1)),
      (code 0xE8 1 0 0 0 0x0008, .perfr (own 1 0 0 0 8)),
      (code 0xE9 1 2 0 0 0x0000, .lnchLaunch (own 1 2 0 0 0)),
      (code 0xE9 1 2 3 4 0x0001, .lnchBind (own 1 2 3 4 1)),
      (code 0xE9 1 2 0 0 0x0002, .lnchUnbind (own 1 2 0 0 2)),
      (code 0xEA 1 2 0 0 0x0010, .mtcr (own 1 2 0 0 16)),
      (code 0xEB 1 0 0 0 0x0100, .mfcr (own 1 0 0 0 256)),
      (code 0xEC 0 2 0 0 0x0000, .halt (own 0 2 0 0 0)),
      (code 0xED 1 2 3 0 0x0001, .ckpt (own 1 2 3 0 1))] : List (Word × Instr)).all decodes = true := by decide +kernel
/-- Each half stands in half 0 of a pair word whose half 1 is HNOP (R205). -/
theorem decode_halves :
    ([(hcode 0x1 9 0 2 1, .halfIadd (half .i64 9 2)),
      (hcode 0x2 9 0 2 1, .halfIsub (half .i64 9 2)),
      (hcode 0x3 9 0 2 1, .halfAnd (half .i64 9 2)),
      (hcode 0x4 9 0 2 1, .halfOr (half .i64 9 2)),
      (hcode 0x5 9 0 2 1, .halfXor (half .i64 9 2)),
      (hcode 0x6 9 0 2 1, .halfShl (half .i64 9 2)),
      (hcode 0x7 9 0 2 1, .halfShr (half .i64 9 2)),
      (hcode 0x8 9 0 2 1, .halfSar (half .i64 9 2)),
      (hcode 0x9 9 0 2 1, .halfMov (half .i64 9 2)),
      (hcode 0xa 9 0 2 1, .halfImin (half .i64 9 2)),
      (hcode 0xb 9 0 2 1, .halfImax (half .i64 9 2)),
      (hcode 0xc 9 0 2 5, .halfFadd (half .f64 9 2)),
      (hcode 0xd 9 0 2 5, .halfFsub (half .f64 9 2)),
      (hcode 0xe 9 0 2 5, .halfFmul (half .f64 9 2)),
      (hcode 0xf 9 0 2 5, .halfFmin (half .f64 9 2)),
      (hcode 0x10 9 0 2 5, .halfFmax (half .f64 9 2)),
      (hcode 0x11 9 1 2 1, .halfMovi (half .i64 9 2 true)),
      (hcode 0x12 9 0 2 1, .halfIabs (half .i64 9 2)),
      (hcode 0x13 9 0 2 1, .halfIneg (half .i64 9 2))] : List (Nat × Instr)).all
      (fun r => decodeWord (BitVec.ofNat 64 (2 ^ 63 + r.1 * 2 ^ 31)) == .pair r.2 (.hnop (half .i32 0 0))) = true := by decide +kernel
/-- Words that the spec's own listings give, with their text there (R210, R211 and the programs of chapters 9 to 18). -/
theorem decode_listings :
    ([(0x103C068206002800, .fadd (alu .f64 13 4 12 0)), (0x533C000000000000, .exit (own 0 0 0 0 0)),
      (0x11BC02028303A800, .ffma { alu .f64 4 5 6 7 with rm := .rne }), (0x20BC51847FFFFFFB, .icmpi (imm 0xA3 8 0x7FFFFFFB)),
      (0x483C048000000201, .fence (own 9 0 0 0 0x201)), (0x503C00007FFFFFE8, .br (imm 0 0 0x7FFFFFE8)), (0x493C000000000001, .bara (own 0 0 0 0 1)),
      (0x5A3C000000802A80, .mma (own 0 0 1 0 0x2A80)), (0x5FBC008080004080, .madd (own 1 1 0 0 0x4080)),
      (0x5E3C00027FFFFFFB, .mloop (imm 0 4 0x7FFFFFFB)), (0x6ABC000A04010001, .qpush (own 0 20 8 2 1)), (0x7080068000000002, .vpub { own 13 0 0 0 2 with ctl := { ctl with g := 0 } }),
      (0x71BC000B8C000000, .cwb (own 0 23 24 0 0)), (0x72BC000B8C000000, .iinv (own 0 23 24 0 0)), (0x53BC000000000000, .yield (own 0 0 0 0 0)),
      (0x733C000000000000, .fetchb (own 0 0 0 0 0)), (0x51BC19000000001B, .call (imm 50 0 27)), (0x0D3C04800000006F, .movi (imm 9 0 111)),
      (0x52BC001900000000, .ret (own 0 50 0 0 0)), (0x413C00008404A000, .red (atm 0 1 8 9 .b4 false .add))] : List (Word × Instr)).all
      decodes = true := by decide +kernel
/-- Headers: WAIT f0 with SETA f1; E alone; and a header of no words is none (R209, R210). -/
theorem decode_headers :
    decodeWord 0x7F90008F80000000 = .header { len := 2, wait := 1, setA := some 1, setB := none, e := false, q := false, yh := 0 } ∧
    decodeWord 0x7F90017FC0000000 = .header { len := 2, wait := 2, setA := none, setB := none, e := true, q := false, yh := 0 } ∧
    decodeWord 0x7F80000000000000 = .badHeader := by decide +kernel
/-- The pair of the spec's listing: IADD.I64 w9, 1 beside FMUL.F64 w12, w10 (R205). -/
theorem decode_pair :
    decodeWord 0x81C260481D860550 = .pair (.halfIadd { half .i64 9 1 true with g := 3 }) (.halfFmul { half .f64 12 10 with g := 3 }) := by
  decide +kernel

/-! ## Small states -/

/-- A page of context 0 in the core's data TLB, from virtual page 0. -/
def page (pte comp : Word) : TlbEntry := { ctx := 0, page := 0, big := false, pte := pte, comp := comp, compPa := 0, dom := .package }

/-- Main core 0 runs one group of one quad, and its ferry 0, of these lanes, moves; the group declares 4096 bytes of scratchpad, and
virtual page 0 is physical page 0x10000, readable, writable and a user's. -/
def start (lanes : List Nat) : State :=
  let s := (State.reset.placeFerry 0).updGroup 0 0 (fun g => { g with scratchSize := 4096 })
  { (s.setFerry 0 0 (placedFerry lanes 0)).updCore 0 (fun k => { k with dtlb := [page 0x1003D 0] }) with cur := .ferry 0 0 }

/-- That state with these registers in lane 0. -/
def withRegs (lanes : List Nat) (rs : List (Nat × Word)) : State :=
  (start lanes).updFibre 0 0 (fun f => rs.foldl (fun (f : Fibre) r => f.write r.1 r.2) f)

/-- The state after an instruction; the state before it where it does not go on. -/
def after (i : Instr) (s : State) : State := match exec i s with
  | .next t => t
  | _ => s

/-- A register, the predicates, FPSTAT and the results on their way of lane 0. -/
def reg (t : State) (r : Nat) : Word := (t.fibre 0 0).window.getD r 0
def preds (t : State) : BitVec 16 := (t.fibre 0 0).pred
def stat (t : State) : BitVec 5 := (t.fibre 0 0).fpstat
def owed (t : State) : List (Nat × Word) := (t.fibre 0 0).pending.flatMap (fun x => x.regs)
def owedPreds (t : State) : List (Nat × Bool) := (t.fibre 0 0).pending.flatMap (fun x => x.preds)
/-- A word of the group's scratchpad. -/
def scratch (t : State) (a n : Nat) : Nat := t.scrRead 0 0 (.group a) n
/-- The code of the last trap. -/
def trapCode (t : State) : Option Nat := t.trapPushes.getLast?.map (fun x => fld (x.words.getD 0 0) 0 8)

/-! ## Values that the spec states -/

/-- Integer words on their examples (R226 to R234): wrapping at the width, signedness, saturation, shift counts modulo the width. -/
theorem test_iadd : reg (after (.iadd (alu .i32 9 4 5 0)) (withRegs [0] [(4, 0xFFFFFFFF), (5, 2)])) 9 = 1 := by decide +kernel
theorem test_isub : reg (after (.isub (alu .u64 9 4 5 0)) (withRegs [0] [(4, 1), (5, 2)])) 9 = 0xFFFFFFFFFFFFFFFF := by decide +kernel
theorem test_iaddi : reg (after (.iaddi (imm 9 4 0x7FFFFFFF)) (withRegs [0] [(4, 0)])) 9 = 0xFFFFFFFFFFFFFFFF := by decide +kernel
theorem test_imul : reg (after (.imul (alu .i32 9 4 5 0)) (withRegs [0] [(4, 0x10000), (5, 0x10001)])) 9 = 0x10000 := by decide +kernel
theorem test_imulh_signed : reg (after (.imulh (alu .i32 9 4 5 0)) (withRegs [0] [(4, 0xFFFFFFFF), (5, 1)])) 9 = 0xFFFFFFFF := by decide +kernel
theorem test_imulh_unsigned : reg (after (.imulh (alu .u32 9 4 5 0)) (withRegs [0] [(4, 0xFFFFFFFF), (5, 1)])) 9 = 0 := by decide +kernel
theorem test_imad : reg (after (.imad (alu .u64 9 4 5 6)) (withRegs [0] [(4, 3), (5, 4), (6, 5)])) 9 = 17 := by decide +kernel
theorem test_idiv : owed (after (.idiv (alu .i32 4 5 6 0)) (withRegs [0] [(5, 0xFFFFFFF9), (6, 2)])) = [(4, 0xFFFFFFFD)] := by decide +kernel
theorem test_idiv_zero : owed (after (.idiv (alu .i32 4 5 6 0)) (withRegs [0] [(5, 0xFFFFFFF9)])) = [(4, 0xFFFFFFFF)] := by decide +kernel
theorem test_irem : owed (after (.irem (alu .i32 4 5 6 0)) (withRegs [0] [(5, 0xFFFFFFF9), (6, 2)])) = [(4, 0xFFFFFFFF)] := by decide +kernel
theorem test_irem_zero : owed (after (.irem (alu .i32 4 5 6 0)) (withRegs [0] [(5, 0xFFFFFFF9)])) = [(4, 0xFFFFFFF9)] := by decide +kernel
theorem test_imin : reg (after (.imin (alu .i32 9 4 5 0)) (withRegs [0] [(4, 0xFFFFFFFF), (5, 1)])) 9 = 0xFFFFFFFF := by decide +kernel
theorem test_imax : reg (after (.imax (alu .u32 9 4 5 0)) (withRegs [0] [(4, 0xFFFFFFFF), (5, 1)])) 9 = 0xFFFFFFFF := by decide +kernel
theorem test_iabs_least : reg (after (.iabs (alu .i32 9 4 0 0)) (withRegs [0] [(4, 0x80000000)])) 9 = 0x80000000 := by decide +kernel
theorem test_ineg : reg (after (.ineg (alu .i32 9 4 0 0)) (withRegs [0] [(4, 1)])) 9 = 0xFFFFFFFF := by decide +kernel
theorem test_andn : reg (after (.andn (alu .i64 9 4 5 0)) (withRegs [0] [(4, 0xF), (5, 0x5)])) 9 = 0xA := by decide +kernel
theorem test_shl : reg (after (.shl (alu .i32 9 4 5 0)) (withRegs [0] [(4, 1), (5, 33)])) 9 = 2 := by decide +kernel
theorem test_shr_imm : reg (after (.shr (alu .i64 9 4 0 0 0xA0)) (withRegs [0] [(4, 0x8000000000000000)])) 9 = 0x80000000 := by decide +kernel
theorem test_sar : reg (after (.sar (alu .u32 9 4 5 0)) (withRegs [0] [(4, 0x80000000), (5, 31)])) 9 = 0xFFFFFFFF := by decide +kernel
theorem test_rot : reg (after (.rot (alu .i32 9 4 5 0)) (withRegs [0] [(4, 0x80000001), (5, 1)])) 9 = 3 := by decide +kernel
theorem test_bfx_signed : reg (after (.bfx (alu .i32 4 5 6 0)) (withRegs [0] [(5, 0xDEADBEEF), (6, 0xC08)])) 4 = 0xFFFFFDBE := by decide +kernel
theorem test_bfx_unsigned : reg (after (.bfx (alu .u32 4 5 6 0)) (withRegs [0] [(5, 0xDEADBEEF), (6, 0xC08)])) 4 = 0xDBE := by decide +kernel
theorem test_bfi : reg (after (.bfi (alu .u32 4 5 6 7)) (withRegs [0] [(5, 0xFF), (6, 0x404), (7, 0x12345678)])) 4 = 0x123456F8 := by decide +kernel
theorem test_popc : reg (after (.popc (alu .i32 9 4 0 0)) (withRegs [0] [(4, 0xFF000000F0)])) 9 = 4 := by decide +kernel
theorem test_clz_zero : reg (after (.clz (alu .i32 9 4 0 0)) (withRegs [0] [(4, 0x100000000)])) 9 = 32 := by decide +kernel
theorem test_brev : reg (after (.brev (alu .i32 9 4 0 0)) (withRegs [0] [(4, 1)])) 9 = 0x80000000 := by decide +kernel
theorem test_lea : reg (after (.lea (alu .i32 9 4 5 0 3)) (withRegs [0] [(4, 0x100), (5, 0xFFFFFFFF)])) 9 = 0xF8 := by decide +kernel
theorem test_movhi : reg (after (.movhi (imm 4 4 0x37FF8)) (withRegs [0] [(4, 1)])) 4 = 0x7FF8000000000001 := by decide +kernel
theorem test_sadd : reg (after (.sadd (alu .i32 9 4 5 0)) (withRegs [0] [(4, 0x7FFFFFFF), (5, 1)])) 9 = 0x7FFFFFFF := by decide +kernel
theorem test_idot4 : reg (after (.idot4 (alu .i8 9 4 5 6)) (withRegs [0] [(4, 0xFF020304), (5, 0x01010101), (6, 10)])) 9 = 18 := by decide +kernel
theorem test_permb : reg (after (.permb (alu .u64 9 4 5 6)) (withRegs [0] [(4, 0x0706050403020100), (5, 0x0F0E0D0C0B0A0908), (6, 0xF0)])) 9 = 0xF00 := by
  decide +kernel

/-- Floating-point words (R178 to R190, R235 to R243). -/
theorem test_fadd : reg (after (.fadd (alu .f64 13 4 12 0)) (withRegs [0] [(4, 0x3FF0000000000000), (12, 0x4000000000000000)])) 13 =
    0x4008000000000000 := by decide +kernel
theorem test_fadd_inexact : stat (after (.fadd (alu .f64 13 4 12 0)) (withRegs [0] [(4, 0x3FF0000000000000), (12, 0x4340000000000000)])) = 1 := by
  decide +kernel
theorem test_fsub_nan : reg (after (.fsub (alu .f32 13 4 5 0)) (withRegs [0] [(4, 0x7F800001), (5, 0x3F800000)])) 13 = 0x7FC00001 := by decide +kernel
theorem test_fmul : reg (after (.fmul (alu .f32 13 4 5 0)) (withRegs [0] [(4, 0x40000000), (5, 0xC0400000)])) 13 = 0xC0C00000 := by decide +kernel
theorem test_ffma : reg (after (.ffma (alu .f64 13 4 5 6)) (withRegs [0] [(4, 0x4000000000000000), (5, 0x4000000000000000), (6, 0x3FF0000000000000)])) 13 =
    0x4014000000000000 := by decide +kernel
theorem test_fmin_zeros : reg (after (.fmin (alu .f32 13 4 5 0)) (withRegs [0] [(4, 0), (5, 0x80000000)])) 13 = 0x80000000 := by decide +kernel
theorem test_fmax_nan : reg (after (.fmax (alu .f32 13 4 5 0)) (withRegs [0] [(4, 0x7FC00000), (5, 0x3F800000)])) 13 = 0x3F800000 := by decide +kernel
theorem test_fdiv : owed (after (.fdiv (alu .f64 13 4 5 0)) (withRegs [0] [(4, 0x3FF0000000000000)])) = [(13, 0x7FF0000000000000)] := by decide +kernel
theorem test_fsqrt : owed (after (.fsqrt (alu .f32 13 4 0 0)) (withRegs [0] [(4, 0x40800000)])) = [(13, 0x40000000)] := by decide +kernel
theorem test_ffrxp : reg (after (.ffrxp (alu .f64 13 4 0 0 1)) (withRegs [0] [(4, 1)])) 13 = 0xFFFFFBCE := by decide +kernel
theorem test_cvtfi : reg (after (.cvtfi (alu .f32 13 4 0 0 0)) (withRegs [0] [(4, 0x4F800000)])) 13 = 0x7FFFFFFF := by decide +kernel
theorem test_cvtif : reg (after (.cvtif (alu .i32 13 4 0 0 4)) (withRegs [0] [(4, 0xFFFFFFFF)])) 13 = 0xBF800000 := by decide +kernel
theorem test_cvtn : (reg (after (.cvtn (alu .f32 13 4 5 0 8)) (withRegs [0] [(4, 0x43960000)])) 13).toNat % 256 = 0x79 := by decide +kernel
theorem test_cvtn_sat : (reg (after (.cvtn { alu .f32 13 4 5 0 8 with sat := true }) (withRegs [0] [(4, 0x43FA0000)])) 13).toNat % 256 = 0x7E ∧
    (reg (after (.cvtn (alu .f32 13 4 5 0 8)) (withRegs [0] [(4, 0x43FA0000)])) 13).toNat % 256 = 0x7F := by decide +kernel
theorem test_b4dec : (reg (after (.b4dec (alu .b4 8 6 7 0)) (withRegs [0] [(6, 6), (7, 0x62)])) 8).toNat % 2 ^ 32 = 0x41800000 := by decide +kernel
/-- R187's block: 20.0, 7.0 and -1.3 of type 01. -/
theorem test_b4_block : b4Block 1 false ([0x41A00000, 0x40E00000, 0xBFA66666].map (decodeF .f32)) = (0x62, [6, 4, 9], fpIX) := by decide +kernel

/-- Predicates (R244 to R248). -/
theorem test_icmpi : (preds (after (.icmpi (imm 0xA3 8 0x7FFFFFFB)) (withRegs [0] [(8, 0xFFFFFFFFFFFFFFFA)]))).getLsbD 3 = true ∧
    (preds (after (.icmpi (imm 0xA3 8 0x7FFFFFFB)) (withRegs [0] [(8, 0xFFFFFFFFFFFFFFFB)]))).getLsbD 3 = false := by decide +kernel
theorem test_icmp_unsigned : (preds (after (.icmp (alu .u32 3 4 5 0 2)) (withRegs [0] [(4, 0xFFFFFFFF), (5, 1)]))).getLsbD 3 = false := by
  decide +kernel
theorem test_fcmp_nan : (preds (after (.fcmp (alu .f64 3 4 5 0 0)) (withRegs [0] [(4, 0x7FF8000000000000), (5, 0x7FF8000000000000)]))).getLsbD 3 = false := by
  decide +kernel
theorem test_sel : reg (after (.sel (own 9 4 5 15 0)) (withRegs [0] [(4, 7), (5, 8)])) 9 = 7 := by decide +kernel
theorem test_plop_and : (preds (after (.plop (own 1 15 15 0 0xC0)) (start [0]))).getLsbD 1 = true ∧
    (preds (after (.plop (own 1 15 0 0 0xC0)) (start [0]))).getLsbD 1 = false := by decide +kernel
theorem test_pmov_reads_p15 : reg (after (.pmov (own 9 0 0 0 0)) (start [0])) 9 = 0x8000 := by decide +kernel
theorem test_rcls : reg (after (.rcls (own 9 4 0 1 0)) (withRegs [0] [(4, 0), (5, 0x41000000), (6, 0x40C0000000000000)])) 9 = 0x41C00000 ∧
    (preds (after (.rcls (own 9 4 0 1 0)) (withRegs [0] [(4, 0), (5, 0x41000000), (6, 0x40C0000000000000)]))).getLsbD 1 = false := by decide +kernel

/-- Quads (R250, R252): lane 0 takes lane 1's register, and every lane the same vote. -/
theorem test_qswz : reg (after (.qswz (own 9 3 0 0 0)) ((start [0, 1, 2, 3]).updFibre 0 1 (fun f => f.write 3 5))) 9 = 5 := by decide +kernel
theorem test_qvote : (preds (after (.qvote (own 1 2 0 0 0)) ((start [0, 1, 2, 3]).updFibre 0 3 (fun f => f.setPred 2 true)))).getLsbD 1 = true := by
  decide +kernel

/-- A pair of R205's listing: w9 gains 1. -/
theorem test_pair_half : reg (after (.halfIadd { half .i64 9 1 true with g := 3 }) (withRegs [0] [(9, 41)])) 9 = 42 := by decide +kernel

/-- An access of a lane to a segment of scratchpad that is still to be performed, with register 6 for its result. -/
def lateScr (kind : LateKind) (off n data : Nat) : LateAccess :=
  { kind := kind, stamp := 0, ctx := 0, at_ := .scratch (.group off), n := n, data := data, reg := 6, sz := .b4, sx := false, acq := false }
def lateIn (lanes : List Nat) (a : Nat → LateAccess) (s : State) : State :=
  lanes.foldl (fun (s : State) p => s.updFibre 0 p (fun f => { f with pending := [
    { flag := some 0, regs := [], preds := [], fp := 0, line := none, await := none, peerSz := .b4, late := [a p], unit := false }] })) s
/-- The lanes of a ferry add to one word in their order: they receive 10, 11, 13 and 16, and the word ends as 20 (R267). -/
theorem test_atom_lanes :
    let t := (lateIn [0, 1, 2, 3] (fun p => lateScr (.aop .add true) 8 4 (p + 1))
      ((start [0, 1, 2, 3]).scrWrite 0 0 (.group 8) 4 10)).performLate 0 3 (lateScr (.aop .add true) 8 4 4)
    (List.range 4).map (fun p => (t.fibre 0 p).pending.flatMap (fun x => x.regs)) = [[(6, 10)], [(6, 11)], [(6, 13)], [(6, 16)]] ∧
    scratch t 8 4 = 20 := by decide +kernel
def lane0 : Lane := { c := 0, p := 0, n := 0, pos := 0, pc := 0 }
/-- A store to the scratchpad reads back, of two lanes at one byte the higher lane's stays, and CAS exchanges only where the word matches
(R85, R257, R266). -/
theorem test_sts :
    let s := withRegs [0] [(4, 0x1122334455667788), (5, 4)]
    memAddr (memo 4 0 5 0 .b4) lane0 s = 16 ∧ storeData .b4 4 lane0 s = 0x55667788 ∧
    scratch ((lateIn [0, 1] (fun p => lateScr .store 16 4 (0x55667788 + p)) (start [0, 1])).performLate 0 1 (lateScr .store 16 4 0x55667789)) 16 4 = 0x55667789 := by decide +kernel
theorem test_lds : loadRegs .b2 true 4 (scratch ((start [0]).scrWrite 0 0 (.group 6) 2 0x8001) 6 2) = [(4, 0xFFFFFFFFFFFF8001)] ∧
    owed ((lateIn [0] (fun _ => { lateScr .load 6 2 0 with sx := true }) ((start [0]).scrWrite 0 0 (.group 6) 2 0x8001)).settleFibre 0 0) =
      [(6, 0xFFFFFFFFFFFF8001)] := by decide +kernel
theorem test_acas :
    let s := (start [0]).scrWrite 0 0 (.group 0) 4 7
    scratch ((lateIn [0] (fun _ => lateScr (.cas 9) 0 4 7) s).settleFibre 0 0) 0 4 = 9 ∧
    scratch ((lateIn [0] (fun _ => lateScr (.cas 9) 0 4 6) s).settleFibre 0 0) 0 4 = 7 ∧
    casOf (atm 4 0 5 6 .b4 true .add) lane0 (withRegs [0] [(6, 0), (7, 9)]) 0 = 9 := by decide +kernel
/-- A misaligned load traps MISALIGNED, code 0x0B of R346, and a word with a register past the window WINDOW. -/
theorem test_ld_misaligned : (after (.ld (memo 4 0 5 0 .b8 0)) ((withRegs [0] [(5, 0)]).updGroup 0 0 (fun g => { g with gregs := g.gregs.set 0 4 }))).trapPushes.map
    (fun x => (fld (x.words.getD 0 0) 0 8, x.words.getD 4 0)) = [(TrapCode.misaligned.num, 4)] := by decide +kernel
/-- The core's L1 with 8 bytes stored at address 0x10008. -/
def stored : State := (start [0]).storeBytes 0 0 .package 0x10008 8 0x123
/-- A load reads what the same core stored (R42). -/
theorem test_ld_after_st : (stored.loadBytes 0 0 .package 0x10008 8).2.1 = 0x123 := by decide +kernel

/-- Two arrivals complete a phase of EXP 2 and set PEND to EXP again (R276). -/
theorem test_mbarr :
    let s := (start [0]).scrWrite 0 0 (.group 8) 8 0x20002
    let t := after (.mbarr (own 0 0 0 0 1)) s
    scratch t 8 8 = 0x10002 ∧ scratch (after (.mbarr (own 0 0 0 0 1)) t) 8 8 = 0x100020002 := by decide +kernel
/-- BR -24 of R279's example: from 0x20100 to 0x20040; and a RET to an address that is not aligned traps. -/
theorem test_br :
    let s := (start [0]).updFibre 0 0 (fun f => { f with pc := 0x20100 })
    let t := after (.br (imm 0 0 0x7FFFFFE8)) (s.setFerry 0 0 { placedFerry [0] 0 with pc := 0x20100 })
    (t.fibre 0 0).pc = 0x20040 := by decide +kernel
theorem test_ret_misaligned : trapCode (after (.ret (own 0 50 0 0 0)) (withRegs [0] [(50, 4)])) = some TrapCode.illegalTarget.num := by decide +kernel
theorem test_trap : ((after (.trap (own 0 4 0 0 0x123)) (withRegs [0] [(4, 77)])).trapPushes.map (fun x => (x.words.getD 1 0, x.words.getD 4 0, x.words.getD 5 0))) =
    [(8, 77, 0x123)] := by decide +kernel

/-- The lottery's first two states from seed 1 (R162); the stack and home die of R45; the FP64 sum of R308; the exact sum of R196. -/
theorem test_lottery : lotteryStep 1 = 0x00042021 ∧ lotteryStep 0x00042021 = 0x04080601 := by decide +kernel
theorem test_home : homeOf (0x000012345678 / 4) = 1 := by decide +kernel
theorem test_det_sum : (fAdd .f64 .rne false (fAdd .f64 .rne false 0x3FF0000000000000 0x4340000000000000).1 0x3FF0000000000000).1 = 0x4340000000000000 := by
  decide +kernel
/-- Islands 7 and 3 are queued behind island 12, and 3 goes before 7 (R392, R393). -/
theorem test_island_order :
    let p := { State.reset.plat with wakeQueue := [(12, 0)], islands := AMap.put (AMap.put State.reset.plat.islands 7 0) 3 0 }
    let t := after (.islandOn 3) (after (.islandOn 7) { State.reset with plat := p, gtb := 5000 })
    t.plat.wakeQueue.map (fun x => x.1) = [12, 3, 7] := by decide +kernel

/-- A placed word is the one that the next step runs. -/
theorem test_step_runs_placed : (match step (State.reset.withFetchWord 64 0x0D3C04800000006F) with
    | .next t => some (reg t 9)
    | _ => none) = some 111 := by decide +kernel

/-! ## Each statement's hypotheses are met -/

/-- The ferry that moves in `start lanes`. -/
def ferry (lanes : List Nat) : Ferry := placedFerry lanes 0

/-- What `Admits` asks, computed. -/
def admitsB (s : State) (c n : Nat) (fy : Ferry) (k : Checks) : Bool :=
  (if isControl c then k.ctl else k.main) &&
  (k.fl == .none || (match fy.flagOf k.fl with
    | some i => (fy.toLanes c n).all (fun l => !l.guard s k || decide ((l.fibre s).flagCount i.val < 63))
    | none => false)) &&
  (!k.priv || !s.user fy.ctx) &&
  (!k.quad || ((if fy.rs then fy.lanes.all (fun p => (s.fibre c p).blockQ) else fy.q) && fy.lanes.all (fun p => (s.groupOf c p).quads))) &&
  fy.structureOk k.term

theorem admits_of {s : State} {c n : Nat} {fy : Ferry} {k : Checks} (h : admitsB s c n fy k = true) : Admits s c n fy k := by
  simp only [admitsB, Bool.and_eq_true, Bool.or_eq_true, Bool.not_eq_true', List.all_eq_true] at h
  obtain ⟨⟨⟨⟨h1, h2⟩, h3⟩, h4⟩, h5⟩ := h
  refine ⟨h1, ?_, fun hk => h3.resolve_left (by simp [hk]), fun hk => ?_, h5⟩
  · rcases h2 with h2 | h2
    · exact .inl (by simpa using h2)
    · right
      cases hf : fy.flagOf k.fl with
      | none => simp [hf] at h2
      | some i =>
        simp only [hf, List.all_eq_true, Bool.or_eq_true, decide_eq_true_eq] at h2
        exact ⟨i, rfl, fun l hl hg => (h2 l hl).resolve_left (by simp [hg])⟩
  · rcases h4 with h4 | h4
    · exact absurd hk (by simp [h4])
    · exact ⟨by simpa using h4.1, h4.2⟩

/-- What `Issues` asks of ferry 0, computed. -/
def issuesB (s : State) (c : Nat) (fy : Ferry) : Bool :=
  s.cur == .ferry c 0 && AMap.find (s.core c).ferries 0 == some fy && !fy.lanes.isEmpty && decide fy.lanes.Nodup

theorem issues_of {s : State} {c : Nat} {fy : Ferry} (h : issuesB s c fy = true) : Issues s c 0 fy := by
  simp only [issuesB, Bool.and_eq_true, beq_iff_eq, Bool.not_eq_true', decide_eq_true_eq] at h
  exact ⟨h.1.1.1, h.1.1.2, fun e => by simp [e] at h, h.2⟩

def inWindowB (l : Lane) (s : State) (k : Checks) : Bool :=
  ((l.fibre s).named k).all (fun r => decide (r < (l.fibre s).window.length)) && (!k.lane0 || (l.fibre s).lane == 0)

theorem inWindow_of {l : Lane} {s : State} {k : Checks} (h : inWindowB l s k = true) : l.inWindow s k := by
  simp only [inWindowB, Bool.and_eq_true, List.all_eq_true, decide_eq_true_eq, Bool.or_eq_true, Bool.not_eq_true', beq_iff_eq] at h
  exact ⟨h.1, fun hk => h.2.resolve_left (by simp [hk])⟩

/-- A well-formed word whose ferry moves in the state, passes its checks, and has in every lane its registers and its guard. -/
def Ready (s : State) (fy : Ferry) (x : Instr × Checks) : Prop :=
  x.1.wf = true ∧ Issues s 0 0 fy ∧ Admits s 0 0 fy x.2 ∧ ∀ l ∈ fy.toLanes 0 0, l.inWindow s x.2 ∧ l.guard s x.2 = true

def readyB (s : State) (fy : Ferry) (x : Instr × Checks) : Bool :=
  x.1.wf && issuesB s 0 fy && admitsB s 0 0 fy x.2 && (fy.toLanes 0 0).all (fun l => inWindowB l s x.2 && l.guard s x.2)

theorem ready_of {s : State} {fy : Ferry} {xs : List (Instr × Checks)} (h : xs.all (readyB s fy) = true) : ∀ x ∈ xs, Ready s fy x := by
  intro x hx
  have h := List.all_eq_true.mp h x hx
  simp only [readyB, Bool.and_eq_true, List.all_eq_true] at h
  exact ⟨h.1.1.1, issues_of h.1.1.2, admits_of h.1.2, fun l hl => ⟨inWindow_of (h.2 l hl).1, (h.2 l hl).2⟩⟩

/-- The lane of a ferry of one. -/
def lane (c : Nat) : Lane := { c := c, p := 0, n := 0, pos := 0, pc := 0 }

/-- A well-formed word that a ferry of one lane performs in the state: its checks pass, its guard holds and `P` holds of the lane. -/
def Solo (s : State) (c : Nat) (i : Instr) (k : Checks) (P : Lane → State → Prop) : Prop :=
  i.wf = true ∧ Issues s c 0 (ferry [0]) ∧ Admits s c 0 (ferry [0]) k ∧ (lane c).guard (s.counted c (ferry [0])) k = true ∧
  ∀ f, LanesMeet k P f ((ferry [0]).toLanes c 0) (s.counted c (ferry [0]))

def soloB (s : State) (c : Nat) (i : Instr) (k : Checks) : Bool :=
  i.wf && issuesB s c (ferry [0]) && admitsB s c 0 (ferry [0]) k && inWindowB (lane c) (s.counted c (ferry [0])) k &&
    (lane c).guard (s.counted c (ferry [0])) k

theorem solo_of {s : State} {c : Nat} {i : Instr} {k : Checks} {P : Lane → State → Prop} (h : soloB s c i k = true)
    (hP : P (lane c) (s.counted c (ferry [0]))) : Solo s c i k P := by
  simp only [soloB, Bool.and_eq_true] at h
  exact ⟨h.1.1.1.1, issues_of h.1.1.1.2, admits_of h.1.1.2, h.2, fun f => ⟨fun _ => ⟨inWindow_of h.1.2, fun _ => hP⟩, trivial⟩⟩

/-- A result that is there, with a property of it. -/
def gives {ε α : Type} (x : State × Except ε α) (q : State → α → Bool) : Bool := match x with
  | (t, .ok a) => q t a
  | _ => false
theorem of_gives {ε α : Type} {x : State × Except ε α} {q : State → α → Bool} (h : gives x q = true) :
    ∃ t a, x = (t, .ok a) ∧ q t a = true := by
  rcases x with ⟨t, _ | a⟩
  · simp [gives] at h
  · exact ⟨t, a, rfl, h⟩
theorem ok_of {ε α : Type} {x : State × Except ε α} (h : gives x (fun _ _ => true) = true) : ∃ t a, x = (t, .ok a) :=
  let ⟨t, a, e, _⟩ := of_gives h
  ⟨t, a, e⟩

theorem of_gives_imp {ε α : Type} {x : State × Except ε α} {a : Prop} {f : State → α → Bool} (h : gives x (fun t r => !f t r) = true) :
    ∃ t r, x = (t, .ok r) ∧ (a → f t r = false) :=
  let ⟨t, r, e, h⟩ := of_gives h
  ⟨t, r, e, fun _ => by simpa using h⟩
theorem of_gives_both {ε α : Type} {x : State × Except ε α} {a : Prop} {f g : State → α → Bool} (h : gives x (fun t r => !f t r && !g t r) = true) :
    ∃ t r, x = (t, .ok r) ∧ (a → f t r = false) ∧ g t r = false :=
  let ⟨t, r, e, h⟩ := of_gives h
  ⟨t, r, e, by simp at h; exact ⟨fun _ => h.1, h.2⟩⟩
/-- A stop that is there, with a property of it. -/
def fails {ε α : Type} (x : State × Except ε α) (q : State → ε → Bool) : Bool := match x with
  | (t, .error a) => q t a
  | _ => false
theorem of_fails {ε α : Type} {x : State × Except ε α} {q : State → ε → Bool} (h : fails x q = true) :
    ∃ t a, x = (t, .error a) ∧ q t a = true := by
  rcases x with ⟨t, a | _⟩
  · exact ⟨t, a, rfl, h⟩
  · simp [fails] at h

def quad : List Nat := [0, 1, 2, 3]
def chk (mk : AluOp → Instr) (regs : AluOp → List Nat) (o : AluOp) : Instr × Checks := (mk o, checksOf (mk o) o.ctl (regs o))

theorem witness_IntegerArithmetic : ∀ x ∈ [chk .iadd useDAB (alu .i32 9 4 255 0), chk .isub useDAB (alu .u64 9 4 5 0),
    chk .imul useDAB (alu .i64 9 4 5 0), chk .imulh useDAB (alu .u32 9 4 5 0), chk .imad useDABC (alu .i32 9 4 5 6),
    chk .ineg useDA (alu .i32 9 4 0 0), chk .iabs useDA (alu .i64 9 4 0 0), chk .imin useDAB (alu .u32 9 4 5 0),
    chk .imax useDAB (alu .i32 9 4 5 0), chk .and useDAB (alu .i32 9 9 9 0), chk .or useDAB (alu .u64 9 4 5 0),
    chk .xor useDAB (alu .i32 9 4 5 0), chk .andn useDAB (alu .i32 9 4 5 0), chk .mov useDA (alu .i32 9 4 0 0),
    chk .popc useDA (alu .i64 9 4 0 0), chk .clz useDA (alu .i32 9 4 0 0), chk .brev useDA (alu .u32 9 4 0 0)],
    Ready (start quad) (ferry quad) x := ready_of (by decide +kernel)
theorem witness_ShiftsAndBitFields : ∀ x ∈ [chk .shl useDAB (alu .i32 9 4 5 0), chk .shl useDA (alu .i64 9 4 0 0 0xBF),
    chk .shr useDAB (alu .u32 9 4 5 0), chk .shr useDA (alu .i32 9 4 0 0 0x9F), chk .sar useDAB (alu .i32 9 4 5 0),
    chk .sar useDA (alu .i32 9 4 0 0 0x80), chk .rot useDAB (alu .i32 9 4 5 0 0x40), chk .rot useDA (alu .u64 9 4 0 0 0xFF),
    chk .bfx useDAB (alu .i64 9 4 5 0), chk .bfi useDABC (alu .u64 9 4 5 6)], Ready (start quad) (ferry quad) x :=
  ready_of (by decide +kernel)
theorem witness_LeaAndImmediates :
    (∀ x ∈ [chk .lea useDAB (alu .i32 9 4 5 0 7), chk .lea useDAB (alu .u32 9 4 5 0), chk .lea useDAB (alu .i64 9 4 5 0)],
      Ready (start quad) (ferry quad) x) ∧
    (∀ x ∈ [(.iaddi (imm 9 4 0x40000000), checksOf (.iaddi (imm 9 4 0x40000000)) ctl (regsDA 9 4)),
      (.movi (imm 9 0 1), checksOf (.movi (imm 9 0 1)) ctl [9]),
      (.movhi (imm 9 4 0x3FFFF), checksOf (.movhi (imm 9 4 0x3FFFF)) ctl (regsDA 9 4))], Ready (start quad) (ferry quad) x) :=
  ⟨ready_of (by decide +kernel), ready_of (by decide +kernel)⟩
theorem witness_SaturationDotAndBytes : ∀ x ∈ [chk .sadd useDAB (alu .i32 9 4 5 0), chk .sadd useDAB (alu .u64 9 4 5 0),
    chk .idot4 useDABC (alu .i8 9 4 5 6), chk .idot4 useDABC (alu .u8 9 4 5 6), chk .permb useDABC (alu .u64 9 4 5 6)],
    Ready (start quad) (ferry quad) x := ready_of (by decide +kernel)
theorem witness_DivisionLandsLater : ∀ x ∈ [chk .idiv useDAB { alu .i32 9 4 5 0 with ctl := ctlA }, chk .irem useDAB (alu .u64 9 4 5 0)],
    Ready (start quad) (ferry quad) x := ready_of (by decide +kernel)
theorem witness_FloatArithmetic : ∀ x ∈ [chk .fadd useDAB (alu .f64 9 4 5 0), chk .fsub useDAB { alu .f32 9 4 5 0 with sat := true },
    chk .fmul useDAB { alu .f16 9 4 5 0 with rm := .rtz }, chk .ffma useDABC (alu .bf16 9 4 5 6), chk .fmin useDAB (alu .f32 9 4 5 0),
    chk .fmax useDAB (alu .f64 9 4 5 0), chk .fdiv useDAB { alu .f32 9 4 5 0 with ctl := ctlA }, chk .fsqrt useDA (alu .f64 9 4 0 0)],
    Ready (start quad) (ferry quad) x := ready_of (by decide +kernel)
/-- 1.0 and 2.0 are exact. -/
theorem witness_InexactResultSetsIx : (decodeF .f32 0x3F800000).exact = some 1 ∧ (decodeF .f32 0x40000000).exact = some 2 := by decide +kernel
theorem witness_NanOperandIsResult : (decodeF .f32 0x3F800000).isNan = false ∧ (decodeF .f32 0x7F800001).isNan = true ∧
    (decodeF .f32 0x7FC00000).isNan = true := by decide +kernel
theorem witness_FloatFunctionsAndConversions : ∀ x ∈ [chk .frcp useDA (alu .f32 9 4 0 0), chk .frsq useDA (alu .f32 9 4 0 0),
    chk .fexp2 useDA (alu .f32 9 4 0 0), chk .flog2 useDA (alu .f32 9 4 0 0), chk .fsin useDA (alu .f32 9 4 0 0),
    chk .fcos useDA (alu .f32 9 4 0 0), chk .fclass useDA (alu .e5m2 9 4 0 0), chk .frnd useDA (alu .f16 9 4 0 0),
    chk .fscale useDAB (alu .f64 9 4 5 0), chk .ffrxp useDA (alu .bf16 9 4 0 0), chk .cvtff useDA (alu .f32 9 4 0 0 5),
    chk .cvtfi useDA (alu .f64 9 4 0 0 11), chk .cvtif useDA (alu .u8 9 4 0 0 6), chk .cvtn useDAB (alu .f32 9 4 5 0 8),
    chk .cvtw useDA (alu .f32 9 4 0 0 8), chk .b4dec useDAB (alu .b4 9 4 5 0 4), chk .b4enc b4EncRegs (alu .b4 9 16 0 0),
    chk .b4enc b4EncRegs (alu .b4 9 16 0 0 4), chk .b4enc b4EncRegs (alu .b4 9 16 5 0 8)], Ready (start quad) (ferry quad) x :=
  ready_of (by decide +kernel)
theorem witness_FloatToIntegerSaturates : (decodeF .f32 0x7FC00000).isNan = true ∧ decodeF .f32 0xFF800000 = .inf true ∧
    (decodeF .f32 0x3F800000).exact = some 1 := by decide +kernel
theorem witness_ComparesWritePredicate : ∀ x ∈ [chk .icmp (fun o => regsDA o.a o.b) (alu .i32 3 4 5 0 5),
    chk .icmp (fun o => regsDA o.a o.b) (alu .u64 3 4 5 2 0x35), chk .fcmp (fun o => regsDA o.a o.b) (alu .f32 3 4 5 0 7),
    (.icmpi (imm 0xA3 4 9), checksOf (.icmpi (imm 0xA3 4 9)) ctl [4])], Ready (start quad) (ferry quad) x := ready_of (by decide +kernel)
theorem witness_PredicateWords : ∀ x ∈ [(.sel (own 9 4 5 1 0), checksOf (.sel (own 9 4 5 1 0)) ctl (regsDAB 9 4 5)),
    (.plop (own 1 2 3 4 0xC0), checksOf (.plop (own 1 2 3 4 0xC0)) ctl []), (.pmov (own 9 0 0 0 0), checksOf (.pmov (own 9 0 0 0 0)) ctl [9]),
    (.pmov (own 0 4 5 0 1), checksOf (.pmov (own 0 4 5 0 1)) ctl (regsDA 4 5))], Ready (start quad) (ferry quad) x := ready_of (by decide +kernel)
theorem witness_QuadWords : ∀ x ∈ [(.qswz (own 9 4 5 0 3), quadChecks (.qswz (own 9 4 5 0 3)) ctl (regsDAB 9 4 5)),
    (.qddx (alu .f32 9 4 0 0), quadChecks (.qddx (alu .f32 9 4 0 0)) ctl (regsDA 9 4)),
    (.qddy (alu .f64 9 4 0 0 1), quadChecks (.qddy (alu .f64 9 4 0 0 1)) ctl (regsDA 9 4)),
    (.qvote (own 1 2 0 0 6), quadChecks (.qvote (own 1 2 0 0 6)) ctl [])], Ready (start quad) (ferry quad) x := ready_of (by decide +kernel)
/-- GMOV; GWR in lane 0; FSPAWN where a lane is free and where none is. -/
theorem witness_GroupRegistersAndFspawn :
    (∀ x ∈ [(.gmov (own 9 31 0 0 0), mainChecks (.gmov (own 9 31 0 0 0)) ctl [9])], Ready (start quad) (ferry quad) x) ∧
    Solo (start [0]) 0 (.gwr (own 31 4 0 0 0)) { mainChecks (.gwr (own 31 4 0 0 0)) ctl [4] with lane0 := true } (fun _ _ => True) ∧
    Solo (start [0]) 0 (.fspawn (own 1 4 5 0 0)) (mainChecks (.fspawn (own 1 4 5 0 0)) ctl (regsDA 4 5))
      (fun l s => fld (l.reg s 5) 48 16 = 0 ∧ fld (l.reg s 5) 0 3 = 0) :=
  ⟨ready_of (by decide +kernel), solo_of (by decide +kernel) trivial, solo_of (by decide +kernel) (by decide +kernel)⟩

def halfReadyB (s : State) (fy : Ferry) (x : Instr × Half) : Bool :=
  x.1.wf && issuesB s 0 fy && (fy.toLanes 0 0).all (fun l => inWindowB l s (halfChecks (Half.guardNo x.2) (Half.regs x.2)))
def h3 (ty : Hty) (i : Bool := false) : Half := { half ty 9 2 i with g := 3 }
theorem witness_PairHalves :
    ([(.halfIadd (h3 .i32), h3 .i32), (.halfIsub (h3 .i64), h3 .i64), (.halfAnd (h3 .u32 true), h3 .u32 true), (.halfOr (h3 .u64), h3 .u64),
      (.halfXor (h3 .i32), h3 .i32), (.halfShl (h3 .i32 true), h3 .i32 true), (.halfShr (h3 .i64), h3 .i64), (.halfSar (h3 .u32), h3 .u32),
      (.halfMov (h3 .i32), h3 .i32), (.halfMovi (h3 .i64 true), h3 .i64 true), (.halfImin (h3 .u32), h3 .u32), (.halfImax (h3 .i32), h3 .i32),
      (.halfIabs (h3 .i32), h3 .i32), (.halfIneg (h3 .u64), h3 .u64), (.halfFadd (h3 .f32), h3 .f32), (.halfFsub (h3 .f64), h3 .f64),
      (.halfFmul (h3 .f32 true), h3 .f32 true), (.halfFmin (h3 .f32), h3 .f32), (.halfFmax (h3 .f64), h3 .f64),
      (.hnop (half .i32 0 0), { half .i32 0 0 with g := 3 })] : List (Instr × Half)).all (halfReadyB (start quad) (ferry quad)) = true := by decide +kernel
/-- The instruction answers a next state. -/
def goesOn (o : Host.Outcome State Fault Refusal) : Bool := match o with
  | .next _ => true
  | _ => false
theorem next_of {o : Host.Outcome State Fault Refusal} (h : goesOn o = true) : ∃ t, o = .next t := by
  cases o <;> simp [goesOn] at h
  exact ⟨_, rfl⟩
/-- A word on registers alone that goes on; and one that traps. -/
theorem mem_of_find {α : Type} {p : Nat} {f : α} : (m : AMap α) → AMap.find m p = some f → ∃ k, (k, f) ∈ m
  | [], h => by simp [AMap.find] at h
  | (j, x) :: m, h => by
    unfold AMap.find at h
    split at h
    · exact ⟨j, by simp_all⟩
    · obtain ⟨k, hk⟩ := mem_of_find m h
      exact ⟨k, List.mem_cons_of_mem _ hk⟩
theorem noLate_of {s : State} {c : Nat} (h : ∀ x ∈ (s.core c).fibres, x.2.lates = []) : s.noLate c := by
  intro p
  unfold State.fibre AMap.getD
  split
  · obtain ⟨k, hk⟩ := mem_of_find _ ‹_›
    exact h _ hk
  · rfl
theorem witness_RegisterWordsLeaveTheRest : registerOnly (.movi (imm 9 0 5)) = true ∧ (start [0]).cur = .ferry 0 0 ∧
    (start [0]).noLate 0 ∧ (∃ t, exec (.movi (imm 9 0 5)) (start [0]) = .next t) ∧ (∃ t, exec (.trap (own 0 4 0 0 1)) (start [0]) = .next t) :=
  ⟨rfl, rfl, noLate_of (by decide +kernel), next_of (by decide +kernel), next_of (by decide +kernel)⟩

/-- A ferry of one lane begins to push for a release. -/
def Pushes (s : State) (i : Instr) (k : Checks) : Prop :=
  i.wf = true ∧ Issues s 0 0 (ferry [0]) ∧ Admits s 0 0 (ferry [0]) k ∧ (ferry [0]).hold = .none ∧ s.activeLanes (ferry [0]) 0 0 k ≠ []

theorem pushes_of {s : State} {i : Instr} {k : Checks} (h : soloB s 0 i k = true) (ha : s.activeLanes (ferry [0]) 0 0 k = [0]) : Pushes s i k := by
  simp only [soloB, Bool.and_eq_true] at h
  exact ⟨h.1.1.1.1, issues_of h.1.1.1.2, admits_of h.1.1.2, rfl, by simp [ha]⟩

/-- A ferry of one lane holds a release whose push is over. -/
def holding (i : Instr) (s : State) : State :=
  { s.setFerry 0 0 { ferry [0] with hold := .release 0 i } with gtb := 1 }

def Held (s : State) (i : Instr) (k : Checks) (P : Lane → State → Prop) : Prop :=
  i.wf = true ∧ AMap.find (s.core 0).ferries 0 = some { ferry [0] with hold := .release 0 i } ∧
  s.releaseReady 0 (s.activeLanes { ferry [0] with hold := .release 0 i } 0 0 k) 0 i = true ∧ Admits (s.unheld 0 0) 0 0 (ferry [0]) k ∧
  (lane 0).guard ((s.unheld 0 0).counted 0 (ferry [0])) k = true ∧
  ∀ f, LanesMeet k P f ((ferry [0]).toLanes 0 0) ((s.unheld 0 0).counted 0 (ferry [0]))

def heldB (s : State) (i : Instr) (k : Checks) : Bool :=
  i.wf && AMap.find (s.core 0).ferries 0 == some { ferry [0] with hold := .release 0 i } &&
  s.releaseReady 0 (s.activeLanes { ferry [0] with hold := .release 0 i } 0 0 k) 0 i && admitsB (s.unheld 0 0) 0 0 (ferry [0]) k &&
  (lane 0).guard ((s.unheld 0 0).counted 0 (ferry [0])) k && inWindowB (lane 0) ((s.unheld 0 0).counted 0 (ferry [0])) k

theorem held_of {s : State} {i : Instr} {k : Checks} {P : Lane → State → Prop} (h : heldB s i k = true)
    (hP : P (lane 0) ((s.unheld 0 0).counted 0 (ferry [0]))) : Held s i k P := by
  simp only [heldB, Bool.and_eq_true, beq_iff_eq] at h
  exact ⟨h.1.1.1.1.1, h.1.1.1.1.2, h.1.1.1.2, admits_of h.1.1.2, h.1.2, fun f => ⟨fun _ => ⟨inWindow_of h.2, fun _ => hP⟩, trivial⟩⟩

/-- A ferry of one lane waits for an engine, and it is its turn. -/
def waiting (i : Instr) (s : State) : State :=
  { s.setFerry 0 0 { ferry [0] with hold := .accept 0 i [0] } with gtb := 1 }

def Accepted (s : State) (want : Instr → Bool) (i : Instr) (k : Checks) (P : Lane → State → Prop) : Prop :=
  i.wf = true ∧ s.nextAccept 0 0 want = some (0, i, 0) ∧ (lane 0).inWindow (s.acceptCount 0 0) k ∧ (lane 0).guard (s.acceptCount 0 0) k = true ∧
  P (lane 0) (s.acceptCount 0 0)

def acceptedB (s : State) (want : Instr → Bool) (i : Instr) (k : Checks) : Bool :=
  i.wf && s.nextAccept 0 0 want == some (0, i, 0) && inWindowB (lane 0) (s.acceptCount 0 0) k && (lane 0).guard (s.acceptCount 0 0) k

theorem accepted_of {s : State} {want : Instr → Bool} {i : Instr} {k : Checks} {P : Lane → State → Prop} (h : acceptedB s want i k = true)
    (hP : P (lane 0) (s.acceptCount 0 0)) : Accepted s want i k P := by
  simp only [acceptedB, Bool.and_eq_true, beq_iff_eq] at h
  exact ⟨h.1.1.1, h.1.1.2, inWindow_of h.1.2, h.2, hP⟩

/-- A load of the first page; a load with NF of a page that is absent. -/
theorem witness_GlobalLoads :
    let o : MemOp := { memo 4 0 5 0 .b16 with ord := .acq }
    let n : MemOp := { memo 4 0 5 0 .b4 15 with nf := true }
    let v : MemOp := memo 4 0 5 6 .b8 0x7F
    Solo (withRegs [0] [(5, 2)]) 0 (.ld o) (checksOf (.ld o) o.ctl (memRegs o)) (fun l s => ∃ t p,
      s.resolve l.c (l.ctx s) (memAddr o l s) o.sz.bytes .read none true = (t, .ok p) ∧ (o.ord = .acq → t.podBusy p.dom p.pa = false)) ∧
    Solo (withRegs [0] [(5, 2)]) 0 (.ldv v) (checksOf (.ldv v) v.ctl (memRegs v ++ [v.c.toNat])) (fun l s => ∃ t p,
      s.resolve l.c (l.ctx s) (memAddr v l s) v.sz.bytes .read (some ((l.reg s v.c).setWidth 16)) true = (t, .ok p) ∧
      (v.ord = .acq → t.podBusy p.dom p.pa = false)) ∧
    Solo (withRegs [0] [(5, 0xFFFFFFFF)]) 0 (.ld n) (checksOf (.ld n) n.ctl (memRegs n)) (fun l s => n.nf = true ∧ ∃ t x,
      s.resolve l.c (l.ctx s) (memAddr n l s) n.sz.bytes .read none true = (t, .error x) ∧
      t.nfZero (Via.of l.c) (l.ctx s) (memAddr n l s) none x = true) := by
  refine ⟨solo_of (by decide +kernel) ?_, solo_of (by decide +kernel) ?_, solo_of (by decide +kernel) ⟨rfl, ?_⟩⟩
  · exact of_gives_imp (by decide +kernel)
  · exact of_gives_imp (by decide +kernel)
  · exact of_fails (by decide +kernel)
/-- A plain store; a store by a release: its push, and its end. -/
theorem witness_GlobalStores :
    let o : MemOp := memo 4 0 5 0 .b16
    let r : MemOp := { memo 4 0 5 0 .b4 with ord := .rel }
    let P (o : MemOp) (l : Lane) (s : State) : Prop :=
      l.helper s = true ∨ ∃ t p, s.resolve l.c (l.ctx s) (memAddr o l s) o.sz.bytes .write none true = (t, .ok p)
    Solo (start [0]) 0 (.st o) (checksOf (.st o) o.ctl (memRegs o)) (P o) ∧
    Pushes (start [0]) (.st r) (checksOf (.st r) r.ctl (memRegs r)) ∧
    Held (holding (.st r) (start [0])) (.st r) (checksOf (.st r) r.ctl (memRegs r)) (P r) := by
  refine ⟨solo_of (by decide +kernel) (.inr (ok_of ?_)), pushes_of (by decide +kernel) (by decide +kernel),
    held_of (by decide +kernel) (.inr (ok_of ?_))⟩ <;> decide +kernel

theorem hit {ε α : Type} {x : Except ε α} (h : (match x with
    | .ok _ => true
    | .error _ => false) = true) : ∃ t, x = .ok t := by
  cases x
  · simp at h
  · exact ⟨_, rfl⟩
theorem missed {α : Type} {x : Except Trap α} (h : (match x with
    | .ok _ => false
    | .error t => t.code == .protection) = true) : ∃ t, x = .error t ∧ t.code = .protection := by
  cases x with
  | error t => exact ⟨t, rfl, by simpa using h⟩
  | ok _ => simp at h

/-- The scratchpad, the window aperture at its last register, and an address that is neither. -/
theorem witness_ScratchpadAccesses :
    let ok (o : MemOp) (l : Lane) (s : State) : Prop := ∃ t, l.scrTarget s (memAddr o l s) o.sz.bytes = .ok t
    let a : MemOp := memo 4 0 5 0 .b8 0x7F
    let n : MemOp := { memo 4 0 5 0 .b4 3 with nf := true }
    let r : MemOp := { memo 4 0 5 0 .b2 with ord := .rel }
    Solo (withRegs [0] [(5, 0x200)]) 0 (.lds a) (mainChecks (.lds a) a.ctl (memRegs a)) (ok a) ∧
    Solo (withRegs [0] [(5, 0x1FFE0100)]) 0 (.lds a) (mainChecks (.lds a) a.ctl (memRegs a)) (ok a) ∧
    Solo (withRegs [0] [(5, 0x400)]) 0 (.lds n) (mainChecks (.lds n) n.ctl (memRegs n)) (fun l s =>
      n.nf = true ∧ ∃ t, l.scrTarget s (memAddr n l s) n.sz.bytes = .error t ∧ t.code = .protection) ∧
    Solo (withRegs [0] [(5, 0x1FFE0100)]) 0 (.sts a) (mainChecks (.sts a) a.ctl (memRegs a)) (ok a) ∧
    Pushes (start [0]) (.sts r) (mainChecks (.sts r) r.ctl (memRegs r)) ∧
    Held (holding (.sts r) (start [0])) (.sts r) (mainChecks (.sts r) r.ctl (memRegs r)) (ok r) ∧
    Memory.wf ((start [0]).group 0 0).scratch = true := by
  refine ⟨solo_of (by decide +kernel) (hit ?_), solo_of (by decide +kernel) (hit ?_), solo_of (by decide +kernel) ⟨rfl, missed ?_⟩,
    solo_of (by decide +kernel) (hit ?_), pushes_of (by decide +kernel) (by decide +kernel), held_of (by decide +kernel) (hit ?_),
    by decide +kernel⟩ <;> decide +kernel

/-- Memory at reset is canonical; 16 bytes at an address of their own size. -/
theorem witness_StoresReadBack : State.Inv (start [0]) ∧ 0x10010 % 16 = 0 ∧ (0 : Nat) ∉ wordsOf 0x10010 16 := by
  refine ⟨?_, ?_, ?_⟩ <;> first | exact (by decide +kernel) | (unfold State.Inv; decide +kernel)

/-- Package 0 and package 1 are members of the running grid; page 0 of the heap is in the pod's domain, on die 0; package 1 is in the
peer table. -/
def pod (rs : List (Nat × Word)) : State :=
  let s := withRegs [0] rs
  let g : Grid := { rcd := [], ctx := 0, lq := 0, next := 0, returned := [], discarded := false, killed := false, prot := false, peerLost := false, dataLost := false, ampl := false, losts := 0, lostId := none, drops := 0, pushes := 0, budget := none, binding := none, coresRan := [], members := [0, 1], ending := none }
  { (s.updDie 0 (fun d => { d with tlb := [{ page 0x1003D 0 with dom := .pod }] })) with
    grids := [(0, g)], records := [(0, [3, 0, 0, 0, 1])], fabric := { s.fabric with peers := [(1, 0x10000)] },
    plat := { s.plat with pkgCfg := 0x8000000000000000 } }
/-- A copy of the first 16 bytes of peer 1's line is kept. -/
def kept (s : State) : State := { s with fabric := { s.fabric with
  copies := [{ home := 1, inc := 0, line := 0, va := 0, bytes := List.replicate 16 0, inL2 := true, leases := [] }] } }
/-- LDP and STP on the package's own object and on its peer's, plain and by a release, and of a copy that is kept. -/
theorem witness_PeerAccesses :
    let o : PeerOp := per 4 5 6 0 .b16
    let r : PeerOp := { per 4 5 6 0 .b4 with ord := .rel }
    let k (i : Instr) (o : PeerOp) : Checks := checksOf i o.ctl (pairRegs (o.sz == .b16) o.d ++ [o.a.toNat, o.b.toNat])
    let clear (o : PeerOp) (l : Lane) (s : State) : Prop := s.peerTrap (l.ctx s) (l.members s) (l.reg s o.b) (peerAddr o l s) o.sz.bytes = none
    let peer (o : PeerOp) (l : Lane) (s : State) : Nat := ((l.reg s o.b).extractLsb' 0 10).toNat
    Solo (pod []) 0 (.ldp o) (k (.ldp o) o) (fun l s => clear o l s ∧ peer o l s = s.accid ∧
      ∃ t p, s.peerPlace (l.ctx s) (peerAddr o l s) 8 .read = (t, .ok p) ∧
      gives (((t.beforeLoad l.c l.p p (peerAddr o l s).toNat 16 false).atHome l.c p (peerAddr o l s).toNat 16).peerRead (l.ctx s) (peerAddr o l s) 8 2)
        (fun _ _ => true) = true) ∧
    Solo (kept (pod [(6, 1)])) 0 (.ldp o) (k (.ldp o) o) (fun l s => clear o l s ∧ peer o l s ≠ s.accid ∧ o.ord ≠ .acq ∧
      s.readsLine l.c l.p (peer o l s) (peerAddr o l s) = false ∧ (s.peerCopy l.c (peer o l s) (peerAddr o l s) o.sz.bytes).isSome) ∧
    Solo (pod [(6, 1)]) 0 (.ldp o) (k (.ldp o) o) (fun l s => clear o l s ∧ peer o l s ≠ s.accid ∧
      s.peerCopy l.c (peer o l s) (peerAddr o l s) o.sz.bytes = none ∧
      (s.sendPeer (peer o l s) (.read (peerAddr o l s) o.sz.bytes) (.fibre l.c l.p) true l.pc).isSome) ∧
    Solo (pod []) 0 (.stp o) (k (.stp o) o) (fun l s => clear o l s ∧ peer o l s = s.accid ∧
      ∃ t p, s.peerPlace (l.ctx s) (peerAddr o l s) 8 .write = (t, .ok p) ∧
      gives ((t.atHome l.c p (peerAddr o l s).toNat 16).peerWrite (l.ctx s) (peerAddr o l s) 8 (Machine.bytesOf 16 (storeData o.sz o.d l s)) 2)
        (fun _ _ => true) = true) ∧
    Pushes (pod [(6, 1)]) (.stp r) (k (.stp r) r) ∧
    Held (holding (.stp r) (pod [(6, 1)])) (.stp r) (k (.stp r) r) (fun l s => clear r l s ∧ peer r l s ≠ s.accid ∧
      (s.sendPeer (peer r l s) (.write (peerAddr r l s) (Machine.bytesOf 4 (storeData r.sz r.d l s)) (List.replicate 4 true)) (.fibre l.c l.p) false
        l.pc).isSome) := by
  refine ⟨solo_of (by decide +kernel) ⟨?_, ?_, of_gives ?_⟩, solo_of (by decide +kernel) ⟨?_, ?_, ?_, ?_, ?_⟩,
    solo_of (by decide +kernel) ⟨?_, ?_, ?_, ?_⟩, solo_of (by decide +kernel) ⟨?_, ?_, of_gives ?_⟩, pushes_of (by decide +kernel) (by decide +kernel),
    held_of (by decide +kernel) ⟨?_, ?_, ?_⟩⟩ <;> decide +kernel

/-- A group register is added to the address. -/
def based (a : Word) (s : State) : State := s.updGroup 0 0 (fun g => { g with gregs := g.gregs.set 0 a })
/-- Context 0 has a translation record, whose page table is empty. -/
def mapped (s : State) : State := { s with records := [(0, [3, 0, 0, 0, 1])] }
/-- The fault buffer is enabled. -/
def faulting (s : State) : State :=
  let t := mapped { s with plat := { s.plat with fbuf := 0x20000 } }
  (t.devWrite 0x20008 8 6)
/-- The hypotheses of AccessStops, in turn, for a plain access of 4 bytes whose address is group register 0 and 4 times register 5. -/
def StopsAt (i : Instr) (k : Checks) (kind : AccessKind) (addr : Lane → State → Word) : Prop :=
  let aligned (l : Lane) (s : State) : Prop := l.helper s = false ∧ (addr l s).toNat % 4 = 0
  Solo (based 2 (start [0])) 0 i k (fun l s => l.helper s = false ∧ (addr l s).toNat % 4 ≠ 0) ∧
  Solo (based 0x0200000000000000 (start [0])) 0 i k (fun l s => aligned l s ∧ (addr l s).extractLsb' 57 7 ≠ 0) ∧
  Solo (mapped (based 0x40000000 (start [0]))) 0 i k (fun l s => aligned l s ∧ (addr l s).extractLsb' 57 7 = 0 ∧
    fails (s.translate l.c (l.ctx s) (addr l s).toNat false) (fun t e => e == .page && !t.fbufOn) = true) ∧
  Solo (faulting (based 0x40000000 (start [0]))) 0 i k (fun l s => aligned l s ∧ (addr l s).extractLsb' 57 7 = 0 ∧
    fails (s.translate l.c (l.ctx s) (addr l s).toNat false) (fun t e => e == .page && t.fbufOn &&
      (t.joinWait (dieOf l.c) .fault (l.ctx s) (addr l s &&& 0x01FFFFFFFFFF0000) (addr l s) (.fibre l.c l.p) false kind l.pc.toNat).isSome) = true)
/-- LD, LDV, ST, ATOM, ACAS and RED of an address that is not aligned, of one above bit 56, and of a page that is not there. -/
theorem witness_AccessStops :
    let o : MemOp := memo 4 0 5 6 .b4
    let a : AtomOp := atm 4 0 5 6 .b4 false .add
    StopsAt (.ld { o with c := 0 }) (checksOf (.ld { o with c := 0 }) ctl (memRegs { o with c := 0 })) .read (memAddr o) ∧
    StopsAt (.ldv o) (checksOf (.ldv o) ctl (memRegs o ++ [6])) .read (memAddr o) ∧
    StopsAt (.st { o with c := 0 }) (checksOf (.st { o with c := 0 }) ctl (memRegs { o with c := 0 })) .write (memAddr o) ∧
    StopsAt (.atom a) { checksOf (.atom a) ctl (atomRegs a true false) with ctl := true } .atomic (atomAddr a) ∧
    StopsAt (.acas a) { checksOf (.acas a) ctl (atomRegs a true true) with ctl := true } .atomic (atomAddr a) ∧
    StopsAt (.red { a with d := 0 }) { checksOf (.red { a with d := 0 }) ctl (atomRegs { a with d := 0 } false false) with ctl := true } .atomic
      (atomAddr a) := by
  refine ⟨⟨?_, ?_, ?_, ?_⟩, ⟨?_, ?_, ?_, ?_⟩, ⟨?_, ?_, ?_, ?_⟩, ⟨?_, ?_, ?_, ?_⟩, ⟨?_, ?_, ?_, ?_⟩, ⟨?_, ?_, ?_, ?_⟩⟩ <;>
    exact solo_of (by decide +kernel) (by decide +kernel)
/-- The hypotheses of ScratchStops: an address that is not aligned, one past the segment, and a register past the window. -/
theorem witness_ScratchStops :
    let o : MemOp := memo 4 0 5 0 .b4
    ∀ x ∈ [(Instr.lds o, mainChecks (.lds o) ctl (memRegs o)), (.sts o, mainChecks (.sts o) ctl (memRegs o))],
    Solo (based 2 (start [0])) 0 x.1 x.2 (fun l s => l.helper s = false ∧ (memAddr o l s).toNat % 4 ≠ 0) ∧
    Solo (based 0x1000 (start [0])) 0 x.1 x.2 (fun l s => l.helper s = false ∧ (memAddr o l s).toNat % 4 = 0 ∧ l.outside s (memAddr o l s)) ∧
    Solo ((based 0xFFF00080 (start [0])).updFibre 0 0 (fun f => { f with window := f.window.take 8 })) 0 x.1 x.2 (fun l s => l.helper s = false ∧ (memAddr o l s).toNat % 4 = 0 ∧
      inAperture (memAddr o l s) = true ∧ (l.apertureTrap s (memAddr o l s)).isSome) := by
  intro o x hx
  simp only [List.mem_cons, List.not_mem_nil, or_false] at hx
  obtain rfl | rfl := hx <;>
    exact ⟨solo_of (by decide +kernel) (by decide +kernel), solo_of (by decide +kernel) (by unfold Lane.outside; decide +kernel),
      solo_of (by decide +kernel) (by decide +kernel)⟩
/-- The hypotheses of PeerStops: an address that is not aligned, a package outside the span, and one that is dead. -/
theorem witness_PeerStops :
    let o : PeerOp := per 4 5 6 0 .b4
    let k (i : Instr) : Checks := checksOf i ctl [4, 5, 6]
    let peer (l : Lane) (s : State) : Nat := ((l.reg s 6).extractLsb' 0 10).toNat
    ∀ x ∈ [(Instr.ldp o, k (.ldp o)), (.stp o, k (.stp o)), (.atomp { o with c := 4 }, k (.atomp { o with c := 4 }))],
    Solo (pod [(5, 2)]) 0 x.1 x.2 (fun l s => l.helper s = false ∧ (peerAddr o l s).toNat % 4 ≠ 0) ∧
    Solo (pod [(6, 2)]) 0 x.1 x.2 (fun l s => l.helper s = false ∧ (peerAddr o l s).toNat % 4 = 0 ∧ peer l s ∉ l.members s) ∧
    Solo (pod [(6, 0x401)]) 0 x.1 x.2 (fun l s => (l.reg s 6).extractLsb' 10 54 ≠ 0) ∧
    Solo ({ pod [(6, 1)] with fabric := { (pod [(6, 1)]).fabric with peers := [(1, 0x30000)] } }) 0 x.1 x.2 (fun l s =>
      l.helper s = false ∧ (peerAddr o l s).toNat % 4 = 0 ∧ (l.reg s 6).extractLsb' 10 54 = 0 ∧ peer l s ∈ l.members s ∧
      (s.peerEntry (peer l s)).getLsbD 16 = true ∧ s.inHeap (l.ctx s) (peerAddr o l s).toNat 4 = true ∧ peer l s ≠ s.accid ∧
      (s.peerEntry (peer l s)).getLsbD 17 = true) := by
  intro o k peer x hx
  simp only [List.mem_cons, List.not_mem_nil, or_false] at hx
  obtain rfl | rfl | rfl := hx <;>
    exact ⟨solo_of (by decide +kernel) (by decide +kernel), solo_of (by decide +kernel) (by decide +kernel),
      solo_of (by decide +kernel) (by decide +kernel), solo_of (by decide +kernel) (by decide +kernel)⟩

/-- Finite values, a NaN and infinities of binary32 and binary64. -/
theorem witness_AtomicOperations : (decodeF .f32 0x3F800000).exact = some 1 ∧ (decodeF .f64 0x4000000000000000).exact = some 2 ∧
    (fAdd .f32 .rne false 0x3F800000 0x3F800000).2 = 0 ∧ (decodeF .f64 0x7FF8000000000000).isNan = true ∧
    decodeF .f32 0x7F800000 = .inf false ∧ decodeF .f32 0xFF800000 = .inf true := by decide +kernel
/-- ATOM in the scratchpad and ACAS in memory with an acquire; RED by a release; a helper. -/
theorem witness_LocalAtomics :
    let a : AtomOp := atm 4 0 5 6 .b8 true .exch
    let c : AtomOp := { atm 4 0 5 6 .b4 false .add with ord := .acq }
    let r : AtomOp := { atm 0 0 5 6 .b4 false .fadd with ord := .rel }
    let k (i : Instr) (o : AtomOp) (regs : List Nat) : Checks := { checksOf i o.ctl regs with ctl := !o.scr }
    let mem (o : AtomOp) (l : Lane) (s : State) : Prop := ∃ t p, s.resolve l.c (l.ctx s) (atomAddr o l s) o.sz.bytes .atomic none false = (t, .ok p) ∧
      (ordAcq o.ord = true → t.podBusy p.dom p.pa = false) ∧ t.atomicWaits l.c p.dom p.pa o.sz.bytes = false
    Solo (start [0]) 0 (.atom a) (k (.atom a) a (atomRegs a true false)) (fun l s => ∃ t, l.scrTarget s (atomAddr a l s) a.sz.bytes = .ok t) ∧
    Solo (start [0]) 0 (.acas c) (k (.acas c) c (atomRegs c true true)) (mem c) ∧
    Pushes (start [0]) (.red r) (k (.red r) r (atomRegs r false false)) ∧
    Held (holding (.red r) (start [0])) (.red r) (k (.red r) r (atomRegs r false false)) (mem r) ∧
    Solo ((start [0]).updFibre 0 0 (fun f => { f with helper := true })) 0 (.atom a) (k (.atom a) a (atomRegs a true false))
      (fun l s => l.helper s = true) := by
  refine ⟨solo_of (by decide +kernel) (hit ?_), solo_of (by decide +kernel) (of_gives_both ?_), pushes_of (by decide +kernel) (by decide +kernel),
    held_of (by decide +kernel) (of_gives_both ?_), solo_of (by decide +kernel) ?_⟩ <;> decide +kernel

/-- ATOMP on the package's own object, ACASP on the peer's, REDP by a release. -/
theorem witness_PeerAtomics :
    let a : PeerOp := per 4 5 6 7 .b8 .minu
    let b : PeerOp := per 4 5 6 7 .b4 .minu
    let c : PeerOp := per 4 5 6 8 .b4
    let r : PeerOp := { per 0 5 6 7 .b4 with ord := .rel }
    let clear (o : PeerOp) (l : Lane) (s : State) : Prop := s.peerTrap (l.ctx s) (l.members s) (l.reg s o.b) (peerAddr o l s) o.sz.bytes = none
    let peer (o : PeerOp) (l : Lane) (s : State) : Nat := ((l.reg s o.b).extractLsb' 0 10).toNat
    Solo (pod []) 0 (.atomp a) (checksOf (.atomp a) a.ctl (peerRegs a true false)) (fun l s => clear a l s ∧ peer a l s = s.accid ∧
      ∃ t p, s.peerPlace (l.ctx s) (peerAddr a l s) 8 .atomic = (t, .ok p) ∧ (p.e.kind != 2) = true) ∧
    Solo ((pod []).updDie 0 (fun d => { d with tlb := [{ page 0x1003D 0x80000000 with dom := .pod }] })) 0 (.atomp b)
      (checksOf (.atomp b) b.ctl (peerRegs b true false)) (fun l s => l.helper s = false ∧ clear b l s ∧ peer b l s = s.accid ∧
      ∃ t p, s.peerPlace (l.ctx s) (peerAddr b l s) 4 .atomic = (t, .ok p) ∧ (p.e.kind == 2) = true) ∧
    Solo (pod [(6, 1)]) 0 (.acasp c) (checksOf (.acasp c) c.ctl (peerRegs c true true)) (fun l s => clear c l s ∧ peer c l s ≠ s.accid ∧
      (s.sendPeer (peer c l s) (.cas (peerAddr c l s) .b4 (l.reg s 8) (l.regN s 9)) (.fibre l.c l.p) true l.pc).isSome) ∧
    Pushes (pod []) (.redp r) (checksOf (.redp r) r.ctl (peerRegs r false false)) ∧
    Held (holding (.redp r) (pod [])) (.redp r) (checksOf (.redp r) r.ctl (peerRegs r false false)) (fun l s => clear r l s ∧ peer r l s = s.accid ∧
      ∃ t p, s.peerPlace (l.ctx s) (peerAddr r l s) 4 .atomic = (t, .ok p) ∧ (p.e.kind != 2) = true) := by
  refine ⟨solo_of (by decide +kernel) ⟨?_, ?_, of_gives ?_⟩, solo_of (by decide +kernel) ⟨?_, ?_, ?_, of_gives ?_⟩, solo_of (by decide +kernel) ⟨?_, ?_, ?_⟩,
    pushes_of (by decide +kernel) (by decide +kernel), held_of (by decide +kernel) ⟨?_, ?_, of_gives ?_⟩⟩ <;> decide +kernel

/-- An acquire fence waits; a release fence pushes; each is performed once its waits are over. -/
theorem witness_FenceReportsLosses :
    let q : OwnOp := own 9 0 0 0 0x100
    let r : OwnOp := own 9 0 0 0 0x201
    let a : OwnOp := own 9 0 0 0 0x33F
    let k (o : OwnOp) : Checks := checksOf (.fence o) o.ctl [o.d.toNat]
    Pushes (start [0]) (.fence q) (k q) ∧ Pushes (start [0]) (.fence r) (k r) ∧
    Held (holding (.fence q) (start [0])) (.fence q) (k q) (fun _ _ => True) ∧ Held (holding (.fence r) (start [0])) (.fence r) (k r) (fun _ _ => True) ∧
    Held (holding (.fence a) (start [0])) (.fence a) (k a) (fun _ _ => True) := by
  refine ⟨pushes_of ?_ ?_, pushes_of ?_ ?_, held_of ?_ trivial, held_of ?_ trivial, held_of ?_ trivial⟩ <;> decide +kernel

theorem witness_Barriers :
    Solo (start [0]) 0 (.bar (own 0 0 0 0 15)) { termChecks (.bar (own 0 0 0 0 15)) ctl [] with ctl := false } (fun l s => s.owesAck l.c l.p = false) ∧
    Solo (start [0]) 0 (.bara (own 0 0 0 0 2)) (mainChecks (.bara (own 0 0 0 0 2)) ctl []) (fun l s => s.owesAck l.c l.p = false) ∧
    Solo (start [0]) 0 (.barc (own 0 0 0 0 0)) { termChecks (.barc (own 0 0 0 0 0)) ctl [] with ctl := false } (fun l s => s.owesAck l.c l.p = false) ∧
    ({ Barrier.blank with first := some (5, 0) } : Barrier).first.isSome = true := by
  refine ⟨solo_of ?_ ?_, solo_of ?_ ?_, solo_of ?_ ?_, ?_⟩ <;> decide +kernel

/-- CCLOSE and CWAIT with no batch open; CWAIT 0 with one outstanding; QJOIN; NANO. -/
theorem witness_BatchesJoinsPauses :
    let w : OwnOp := own 0 0 0 0 0
    let busy : State := ((start [0]).enqueue 0 0 1 0 (.fill 3 false 0 0 8 none) 0).updFibre 0 0 (fun f => { f with closedBatches := [[0]] })
    Solo (start [0]) 0 (.cclose w) (mainChecks (.cclose w) ctl []) (fun l s => (s.closed l.c l.p).length ≤ 32) ∧
    Solo (start [0]) 0 (.cwait w) (mainChecks (.cwait w) ctl []) (fun l s => (s.closed l.c l.p).length ≤ (w.mod.extractLsb' 0 5).toNat) ∧
    Solo busy 0 (.cwait w) (mainChecks (.cwait w) ctl []) (fun l s => (w.mod.extractLsb' 0 5).toNat < (s.closed l.c l.p).length) ∧
    Solo (start [0]) 0 (.qjoin (own 0 0 0 0 0x41)) (mainChecks (.qjoin (own 0 0 0 0 0x41)) ctl []) (fun _ _ => True) ∧
    Solo (start [0]) 0 (.nano (own 0 0 0 0 0x7FFF)) (checksOf (.nano (own 0 0 0 0 0x7FFF)) ctl []) (fun _ _ => True) := by
  refine ⟨solo_of ?_ ?_, solo_of ?_ ?_, solo_of ?_ ?_, solo_of ?_ trivial, solo_of ?_ trivial⟩ <;> decide +kernel

/-- The last phase object, declared and not; a wait that goes on and one that does not. -/
theorem witness_PhaseObjects :
    let o : OwnOp := own 0 0 0 0 15
    let w : OwnOp := own 0 4 0 0 15
    let none_ : State := (start [0]).updGroup 0 0 (fun g => { g with scratchSize := 127 })
    let kw : Checks := { termChecks (.mbwait w) ctl [4] with ctl := false }
    let declared (l : Lane) (s : State) : Prop := 8 * 15 + 8 ≤ (s.group l.c (l.fibre s).gslot).scratchSize
    Solo (start [0]) 0 (.mbarr o) (mainChecks (.mbarr o) ctl []) (fun l s => declared l s ∧ s.owesAck l.c l.p = false) ∧ Solo none_ 0 (.mbarr o) (mainChecks (.mbarr o) ctl []) (fun l s => ¬ declared l s) ∧
    Solo (start [0]) 0 (.mbwait w) kw declared ∧ Solo none_ 0 (.mbwait w) kw (fun l s => ¬ declared l s) := by
  refine ⟨solo_of ?_ ?_, solo_of ?_ ?_, solo_of ?_ ?_, solo_of ?_ ?_⟩ <;> decide +kernel

/-- Transfers within the 48 bits, above them, and to an address that is not aligned; BRX within its table, at its last entry, and past it. -/
theorem witness_ControlTransfers :
    let off (l : Lane) (i : BitVec 31) : Word := l.pc.setWidth 64 + 8 * i.signExtend 64
    let o : ImmOp := imm 0 5 0x08050010
    let x (l : Lane) (s : State) : Nat := ((l.reg s o.a).setWidth 32).toNat
    let j : OwnOp := own 0 5 0 0 0
    Solo (start [0]) 0 (.br (imm 0 0 3)) (termChecks (.br (imm 0 0 3)) ctl []) (fun l _ => (off l 3).extractLsb' 48 16 = 0) ∧
    Solo (start [0]) 0 (.br (imm 0 0 0x7FFFFFFF)) (termChecks (.br (imm 0 0 0x7FFFFFFF)) ctl []) (fun l _ => (off l 0x7FFFFFFF).extractLsb' 48 16 ≠ 0) ∧
    Solo (start [0]) 0 (.call (imm 9 0 3)) (termChecks (.call (imm 9 0 3)) ctl [9]) (fun l _ => (off l 3).extractLsb' 48 16 = 0) ∧
    Solo (withRegs [0] [(5, 0xFFFFFFFFFFF8)]) 0 (.jmpr j) (termChecks (.jmpr j) ctl [5]) (fun l s => (l.reg s 5).extractLsb' 48 16 = 0 ∧
      (l.reg s 5).extractLsb' 0 3 = 0) ∧
    Solo (withRegs [0] [(5, 4)]) 0 (.ret j) (termChecks (.ret j) ctl [5]) (fun l s => (l.reg s 5).extractLsb' 48 16 = 0 ∧ (l.reg s 5).extractLsb' 0 3 ≠ 0) ∧
    Solo (withRegs [0] [(5, 0x1000000000000)]) 0 (.callr { j with d := 9 }) (termChecks (.callr { j with d := 9 }) ctl (regsDA 9 5))
      (fun l s => (l.reg s 5).extractLsb' 48 16 ≠ 0) ∧
    Solo (withRegs [0] [(5, 5)]) 0 (.brx o) (termChecks (.brx o) ctl [5]) (fun l s => x l s < (o.imm.extractLsb' 16 11).toNat + 1) ∧
    Solo (withRegs [0] [(5, 6)]) 0 (.brx o) (termChecks (.brx o) ctl [5]) (fun l s => ¬ x l s < (o.imm.extractLsb' 16 11).toNat + 1) ∧
    Solo (start [0]) 0 (.yield (own 0 0 0 0 0)) (termChecks (.yield (own 0 0 0 0 0)) ctl []) (fun _ _ => True) ∧
    Solo (start [0]) 0 (.exit (own 0 0 0 0 0)) (termChecks (.exit (own 0 0 0 0 0)) ctl []) (fun _ _ => True) ∧
    Solo (start [0]) 0 (.trap (own 0 4 0 0 0xFFF)) (checksOf (.trap (own 0 4 0 0 0xFFF)) ctl [4]) (fun _ _ => True) ∧
    Solo (start [0]) 0 (.bkpt (own 0 0 0 0 0)) (checksOf (.bkpt (own 0 0 0 0 0)) ctl []) (fun _ _ => True) := by
  refine ⟨solo_of ?_ ?_, solo_of ?_ ?_, solo_of ?_ ?_, solo_of ?_ ?_, solo_of ?_ ?_, solo_of ?_ ?_, solo_of ?_ ?_, solo_of ?_ ?_, solo_of ?_ trivial,
    solo_of ?_ trivial, solo_of ?_ trivial, solo_of ?_ trivial⟩ <;> decide +kernel

/-- A fibre of core 0 and its trap; a page that a fibre waits for. -/
theorem witness_TakingATrap : (State.reset.joinWait 0 .fault 0 0x10000 0x10008 (.fibre 0 0) false .read 0).isSome = true ∧ isControl 0 = false ∧ ((start [0]).fibre 0 0).lates = [] ∧ ((start [0]).group 0 0).grid < 2 ^ 32 ∧ ((start [0]).group 0 0).index < 2 ^ 32 := by decide +kernel

/-- A control word on a main core, FL with SETA = 15, a privileged word in a user context, a terminator that ends no block, and a
register past a window of 16. -/
theorem witness_EncodingChecksTrap :
    let k : Checks := checksOf (.movi (imm 16 0 1)) ctl [16]
    let userContext : State := { start [0] with records := [(0, [3])] }
    Issues (start [0]) 0 0 (ferry [0]) ∧ Issues userContext 0 0 (ferry [0]) ∧ userContext.user 0 = true ∧
    { ferry [0] with clause := some { known := true, left := 1, setA := none, setB := none, e := true } }.flagOf .setA = none ∧
    { ferry [0] with clause := some { known := true, left := 1, setA := none, setB := none, e := true } }.structureOk false = false ∧
    k.block = none ∧ k.regs = [16] ∧ (quadChecks (.qvote (own 1 2 0 0 6)) ctl []).quad = true ∧ ((start [0]).groupOf 0 0).quads = true ∧
    (ferry [0]).rs = false ∧ { ferry [0] with q := false }.q = false ∧ isControl 0 = false ∧
    { checksOf (.ckpt (own 9 4 5 0 0)) ctl [] with main := false }.main = false ∧
    ((lane 0).fibre ((start [0]).updFibre 0 0 (fun f => { f with window := List.replicate 16 0 }))).window.length ≤ 16 := by
  refine ⟨issues_of ?_, issues_of ?_, ?_, ?_, ?_, ?_, ?_, ?_⟩ <;> decide +kernel

/-- A stream of group 0 of core 0 that moves; slot 5 is the group's logical slot 0, slot 6 its slot 1. -/
def stream (f : Stream → Stream) (ty : Ty := .i8) : State :=
  let s := (State.reset.placeStream 0).updGroup 0 0 (fun g => { g with scratchSize := 8192, stream := some (f (placedStream 0)) })
  let slot (n : Nat) (b : Bool) : OperandSlot := { group := 0, logical := n, tag := some { isB := b, ty := ty }, bytes := [] }
  { s.updCore 0 (fun k => { k with slots := [(5, slot 0 false), (6, slot 1 true)], dtlb := [page 0x1003D 0] }) with cur := .stream 0 0, gtb := 1000, plat := { s.plat with admitted := [(0, 0)] } }

/-- A well-formed stream word that the stream executes, where `P` holds. -/
def Streams (f : Stream → Stream) (ty : Ty) (i : Instr) (P : Nat → Nat → Stream → State → Prop) : Prop :=
  i.wf = true ∧ StreamRuns (stream f ty) 0 0 (f (placedStream 0)) ∧ P 0 0 (f (placedStream 0)) (stream f ty)

def streamsB (f : Stream → Stream) (ty : Ty) (i : Instr) : Bool :=
  i.wf && (stream f ty).cur == .stream 0 0 && ((stream f ty).group 0 0).stream == some (f (placedStream 0)) &&
    ((f (placedStream 0)).st == .running || (f (placedStream 0)).st == .waitClaim)

theorem streams_of {f : Stream → Stream} {ty : Ty} {i : Instr} {P : Nat → Nat → Stream → State → Prop} (h : streamsB f ty i = true)
    (hP : P 0 0 (f (placedStream 0)) (stream f ty)) : Streams f ty i P := by
  simp only [streamsB, Bool.and_eq_true, beq_iff_eq, Bool.or_eq_true] at h
  exact ⟨h.1.1.1, ⟨h.1.1.2, h.1.2, h.2⟩, hP⟩

/-- A stream's register, and an open chain. -/
def setM (k : Nat) (v : Word) (x : Stream) : Stream := { x with m := x.m.set k v }
def chained (x : Stream) : Stream := { x with chain := some { any := false, written := [], later := [] } }

/-- MMOVI, MADD; MLOOP at its last pass and before it; MSTOP; MCLAIM of free slots, and of more than there are; MREL of bound ones. -/
theorem witness_StreamControl :
    let small : OwnOp := own 0 0 0 0 0x084
    let all : OwnOp := own 0 0 0 0 0xF42
    let granted (o : OwnOp) (s : State) : Prop := (claimRange o).length ≤ (s.freeSlotsOf 0).length
    Streams id .i8 (.mmovi (imm 15 0 0x7FFFF)) (fun _ _ _ _ => True) ∧ Streams id .i8 (.madd (own 1 1 0 0 0x4080)) (fun _ _ _ _ => True) ∧
    Streams (setM 4 1) .i8 (.mloop (imm 0 4 0x7FFFFFFB)) (fun _ _ x _ => x.reg 4 = 1) ∧
    Streams (setM 4 3) .i8 (.mloop (imm 0 4 1)) (fun _ _ x _ => x.reg 4 ≠ 1 ∧ (x.pc.setWidth 64 + 8 * (1#31).signExtend 64).extractLsb' 48 16 = 0) ∧
    Streams id .i8 (.mstop (own 0 0 0 0 0)) (fun _ _ x _ => x.chain = none) ∧
    Streams id .i8 (.mclaim small) (fun c g _ s => (∀ i ∈ claimRange small, s.slotOf c g i = none) ∧ granted small s) ∧
    Streams id .i8 (.mclaim all) (fun c g _ s => (∀ i ∈ claimRange all, s.slotOf c g i = none) ∧ granted all s) ∧
    Streams id .i8 (.mrel (own 0 0 0 0 0x040)) (fun c g _ s => ∀ i ∈ claimRange (own 0 0 0 0 0x040), (s.slotOf c g i).isSome ∧ s.fillPending c g i = false) := by
  refine ⟨streams_of ?_ trivial, streams_of ?_ trivial, streams_of ?_ ?_, streams_of ?_ ?_, streams_of ?_ ?_, streams_of ?_ ?_, streams_of ?_ ?_,
    streams_of ?_ ?_⟩ <;> decide +kernel

/-- A slot that no fill is in progress of gives its bytes to an MMA that asks for its role and format. -/
theorem mmaSlot_of {s : State} {c g n k : Nat} {b : Bool} {ty : Ty} {x : OperandSlot} (h : s.slotOf c g n = some (k, x))
    (hx : x.tag = some { isB := b, ty := ty }) (hf : s.fillsOf c g n = []) : ∃ a, s.mmaSlot c g n b ty = .ok a := by
  unfold State.mmaSlot
  rw [h]
  simp [hf, hx, Nat.mod_one]

/-- The chain of an MMA, its slots and its tile. -/
theorem witness_StreamTiles :
    let two (c g : Nat) (s : State) (x : Stream) (o : OwnOp) (n : Nat) (ty : Ty) : Prop :=
      x.operand (o.mod.getLsbD 0) o.d = .ok n ∧ (s.slotOf c g n).isSome ∧
      ∃ t bs, s.readTile c g ty (bitsAt o.mod.toNat 8 2) (o.mod.getLsbD 10) (x.reg o.a) (x.reg o.b) = (t, .ok bs)
    let tagged (x : Stream) : Stream := chained (x.tagTile .i32 2)
    let m : OwnOp := own 2 0 1 0 0x5500
    Streams id .i8 (.mlda (own 0 2 3 0 0x5400)) (fun c g x s => two c g s x (own 0 2 3 0 0x5400) 0 .i8) ∧
    Streams id .i8 (.mldb (own 1 2 3 0 0x5400)) (fun c g x s => two c g s x (own 1 2 3 0 0x5400) 1 .i8) ∧
    Streams id .i8 (.mzero (own 62 0 0 0 0x2800)) (fun _ _ x _ => ∃ t, x.newTile .f64 false 62 = .ok t) ∧
    Streams id .i8 (.mldc (own 2 3 4 0 0x2000)) (fun c g x s => (∃ t, x.newTile .f32 false 2 = .ok t) ∧
      ∃ t vs, readAll (scrReader c g) (elemSize .f32)
        ((List.range 256).map (fun e => x.reg 3 + x.reg 4 * wd (e / 16) + wd (e % 16 * elemSize .f32))) s = (t, .ok vs)) ∧
    Streams (fun x => x.tagTile .i32 2) .i8 (.mdrain (own 2 3 4 0 0x0000)) (fun c g x s => x.operand false 2 = .ok 2 ∧
      tagTy (x.tag 2) = some .i32 ∧ drainOk .i32 .i32 = true ∧ x.inChain (tileUnits .i32 2) = false ∧
      s.drainStop c g 4 ((List.range 16).map (fun i => x.reg 3 + x.reg 4 * wd i)) 64 = none) ∧
    Streams id .i8 (.mbegin (own 0 0 0 0 1)) (fun _ _ x _ => x.chain = none) ∧
    Streams chained .i8 (.mend (own 0 0 0 0 0)) (fun _ _ x _ => x.chain.isSome) ∧
    Streams tagged .i8 (.mma m) (fun c g x s => x.operand false 2 = .ok 2 ∧ (∃ a, s.mmaSlot c g 0 false .i8 = .ok a) ∧ (∃ b, s.mmaSlot c g 1 true .i8 = .ok b) ∧
      (tileUnits .i32 2).map (fun u => x.tag u) = tileTags .i32 ∧ x.chain.isSome ∧ s.arrayUp c = true) ∧
    Streams id .i8 (.msig (own 0 0 0 0 15)) (fun c g _ s => 8 * 15 + 8 ≤ (s.group c g).scratchSize) ∧
    Streams (setM 2 1) .i8 (.mwait (own 0 2 0 0 15)) (fun c g x s => ((s.phaseWord c g 15).getLsbD 32 != (x.reg 2).getLsbD 0) = true) ∧
    Streams id .i8 (.mwait (own 0 2 0 0 15)) (fun c g x s => ((s.phaseWord c g 15).getLsbD 32 != (x.reg 2).getLsbD 0) = false) := by
  refine ⟨streams_of ?_ ⟨rfl, ?_, ok_of ?_⟩, streams_of ?_ ⟨rfl, ?_, ok_of ?_⟩, streams_of ?_ (hit ?_), streams_of ?_ ⟨hit ?_, ok_of ?_⟩,
    streams_of ?_ ⟨rfl, ?_, rfl, ?_, ?_⟩, streams_of ?_ rfl, streams_of ?_ rfl, streams_of ?_ ⟨rfl, mmaSlot_of (k := 5) (x := { group := 0, logical := 0, tag := some { isB := false, ty := .i8 }, bytes := [] }) ?_ ?_ ?_,
      mmaSlot_of (k := 6) (x := { group := 0, logical := 1, tag := some { isB := true, ty := .i8 }, bytes := [] }) ?_ ?_ ?_, ?_, rfl, ?_⟩, streams_of ?_ ?_,
    streams_of ?_ ?_, streams_of ?_ ?_⟩ <;> decide +kernel

/-- A box of one element; a slot fill; counts within range; each command once in a form whose operands are out of range. -/
theorem witness_EngineCommands :
    let rs : List (Nat × Word) := [(18, 0x000100010001), (22, 0), (23, 0), (6, 1)]
    let s : State := pod rs
    let box : OwnOp := own 0 16 0 0 0x2080
    let fill : OwnOp := own 0 16 0 0 0x0800
    let p : OwnOp := own 0 16 5 0 0x2080
    let f : OwnOp := own 4 5 6 0 0x3000
    let h : OwnOp := own 0 16 5 7 0x2800
    let a : OwnOp := own 0 5 7 6 0x2000
    let b : OwnOp := own 0 5 6 7 0
    let slots : State := (withRegs [0] [(18, 4)]).updCore 0 (fun k => { k with
      slots := [(5, { group := 0, logical := 0, tag := none, bytes := [] })] })
    Solo s 0 (.tcopy box) (mainChecks (.tcopy box) ctl (descRegs 16)) (fun l s => boxOk (l.desc s 16) = true) ∧
    Solo (start [0]) 0 (.tcopy box) (mainChecks (.tcopy box) ctl (descRegs 16)) (fun l s => l.helper s = false ∧ boxOk (l.desc s 16) = false) ∧
    Solo slots 0 (.tcopy fill) (mainChecks (.tcopy fill) ctl (descRegs 16)) (fun l s => slotDescOk (l.desc s 16) = true ∧
      (s.slotOf l.c (l.fibre s).gslot (fld ((l.desc s 16).getD 1 0) 0 6)).isSome) ∧
    Solo s 0 (.tcopyp p) (mainChecks (.tcopyp p) ctl (descRegs 16 ++ [5])) (fun l s => boxOk (l.desc s 16) = true) ∧
    Solo (withRegs [0] [(6, 8)]) 0 (.tfill f) (mainChecks (.tfill f) ctl (regsDAB 4 5 6)) (fun l s => (l.reg s 6).toNat % 2 ^ 3 = 0) ∧
    Solo (withRegs [0] [(6, 7)]) 0 (.tfill f) (mainChecks (.tfill f) ctl (regsDAB 4 5 6)) (fun l s => ¬ (l.reg s 6).toNat % 2 ^ 3 = 0) ∧
    Solo s 0 (.halo h) (mainChecks (.halo h) ctl (descRegs 16 ++ [5, 7])) (fun l s => boxOk (l.desc s 16) = true) ∧
    Solo s 0 (.ared a) (mainChecks (.ared a) ctl [5, 7, 6]) (fun l s => 0 < (l.reg s 6).toNat ∧ (l.reg s 6).toNat < 2 ^ 32 ∧
      s.collTrap (l.ctx s) (l.reg s 5) 4 (4 * (l.reg s 6).toNat) = none ∧ s.collTrap (l.ctx s) (l.reg s 7) 4 (4 * (l.reg s 6).toNat) = none ∧
      partOverlap (l.reg s 5).toNat (l.reg s 7).toNat (4 * (l.reg s 6).toNat) = false) ∧
    Solo (pod []) 0 (.ared a) (mainChecks (.ared a) ctl [5, 7, 6]) (fun l s => ¬ 0 < (l.reg s 6).toNat) ∧
    Solo s 0 (.bcast b) (mainChecks (.bcast b) ctl [5, 6, 7]) (fun l s => 0 < (l.reg s 6).toNat ∧ (l.reg s 6).toNat ≤ 2 ^ 40 ∧
      (l.reg s 7).toNat < (l.members s).length ∧ s.collTrap (l.ctx s) (l.reg s 5) 1 (l.reg s 6).toNat = none) ∧
    Solo (pod [(6, 1), (7, 2)]) 0 (.bcast b) (mainChecks (.bcast b) ctl [5, 6, 7]) (fun l s => ¬ (l.reg s 7).toNat < (l.members s).length) ∧
    6 < ((start [0]).group 0 0).queues.length := by
  refine ⟨solo_of ?_ ?_, solo_of ?_ ?_, solo_of ?_ ?_, solo_of ?_ ?_, solo_of ?_ ?_, solo_of ?_ ?_, solo_of ?_ ?_, solo_of ?_ ?_, solo_of ?_ ?_,
    solo_of ?_ ?_, solo_of ?_ ?_, ?_⟩ <;> decide +kernel

/-- The walk of a query comes to an end. -/
def ends (r : Option RayStep) : Bool := match r with
  | some (.over _ _ _) => true
  | _ => false
theorem ends_of {r : Option RayStep} (h : ends r = true) : ∃ s q e, r = some (.over s q e) := by
  rcases r with _ | (_ | ⟨s, q, e⟩ | _ | _) <;> simp [ends] at h
  exact ⟨s, q, e, rfl⟩
theorem opens {l : Lane} {x : State × Except AccessStop (Query × Bool)}
    (h : gives x (fun s q => q.2 && ends (Query.walk l walkBound q.1 s)) = true) :
    ∃ s1 q s2 q2 e, x = (s1, .ok (q, true)) ∧ Query.walk l walkBound q s1 = some (.over s2 q2 e) := by
  obtain ⟨s1, ⟨q, b⟩, e, hh⟩ := of_gives h
  simp only [Bool.and_eq_true] at hh
  obtain ⟨s2, q2, r, hr⟩ := ends_of hh.2
  exact ⟨s1, q, s2, q2, r, by rw [e, hh.1], hr⟩
theorem closes {x : State × Except AccessStop (Query × Bool)} (h : gives x (fun _ q => !q.2) = true) : ∃ s1 q, x = (s1, .ok (q, false)) := by
  obtain ⟨s1, ⟨q, b⟩, e, hh⟩ := of_gives h
  exact ⟨s1, q, by simpa using e.trans (by rw [show b = false by simpa using hh])⟩

/-- An open query of lane 0, which waits for a decision on a candidate. -/
def open_ (q : Query) : State := (withRegs [0] [(4, 7)]).updFibre 0 0 (fun f => { f with query := some q })
def candidate : Query :=
  { token := 7, flags := 0, tmin := 0, tmax := 0x3F800000, mask := 0xFF, frames := [], stack := [], hit := none,
    ask := .candidate { t := 0x3F000000, prim := 0, inst := 0xFFFFFFFF, u := 0, v := 0, front := true, level := 0, xform := [] },
    ended := false, parked := none, out := [] }

/-- A query of a structure that is malformed, one whose ROOT is not aligned; an accepted candidate that ends the query, a rejected one
after which the walk ends, and a token that names no open query. -/
theorem witness_RayQueries :
    let o : OwnOp := own 20 8 0 0 0x10
    let p : OwnOp := own 20 8 0 0 0
    let n : OwnOp := own 20 4 5 0 0
    let k (s : OwnOp) : Checks := { mainChecks (.rqnext s) ctl [4, 5] with block := some 20 }
    let fresh (l : Lane) (s : State) : Prop := (l.fibre (s.settleFibre l.c l.p)).query = none
    Solo (withRegs [0] [(8, 0x8000000000000000)]) 0 (.rqry o) (mainChecks (.rqry o) ctl (rqryRegs o)) (fun l s => fresh l s ∧ ∃ s1 q s2 q2 e, l.openQuery (s.settleFibre l.c l.p) o = (s1, .ok (q, true)) ∧
      Query.walk l walkBound q s1 = some (.over s2 q2 e)) ∧
    Solo (withRegs [0] [(8, 32)]) 0 (.rqry p) (mainChecks (.rqry p) ctl (rqryRegs p)) (fun l s => fresh l s ∧ ∃ s1 q, l.openQuery (s.settleFibre l.c l.p) p = (s1, .ok (q, false))) ∧
    Solo (open_ candidate) 0 (.rqnext n) (k n) (fun l s => (l.fibre (s.settleFibre l.c l.p)).query = some candidate ∧ l.reg (s.settleFibre l.c l.p) 4 = candidate.token ∧
      (candidate.decide 2 0).2.isSome) ∧
    Solo (open_ candidate) 0 (.rqnext n) (k n) (fun l s => (candidate.decide 0 0).2.isSome = false ∧
      ∃ s2 q e, Query.walk l walkBound (candidate.decide 0 0).1 (s.settleFibre l.c l.p) = some (.over s2 q e)) ∧
    Solo (open_ { candidate with token := 8 }) 0 (.rqnext n) (k n) (fun l s => l.reg (s.settleFibre l.c l.p) 4 ≠ (8 : Word)) := by
  refine ⟨solo_of ?_ ⟨?_, opens ?_⟩, solo_of ?_ ⟨?_, closes ?_⟩, solo_of ?_ ⟨?_, ?_, ?_⟩, solo_of ?_ ⟨?_, ends_of ?_⟩, solo_of ?_ ?_⟩ <;> decide +kernel

/-- Slot 1 serves context 0. -/
def served (s : State) : State := s.setNet 1 { Net.reset with reg := 0x8000, loaded := true }
def isRcflip (i : Instr) : Bool := match i with
  | .rcflip _ => true
  | _ => false
theorem witness_RadianceWords :
    let f : Instr := .rcflip (own 0 0 0 0 1)
    let owns (l : Lane) (s : State) : Prop := flag (s.net 1).reg 15 = true ∧ fld (s.net 1).reg 0 12 = (l.ctx s).toNat
    Solo (start [0]) 0 (.rcq (own 9 4 0 1 0)) (mainChecks (.rcq (own 9 4 0 1 0)) ctl (rcqRegs (own 9 4 0 1 0))) (fun _ _ => True) ∧
    Solo (start [0]) 0 (.rcqt (own 9 4 8 1 1)) (mainChecks (.rcqt (own 9 4 8 1 1)) ctl (rcqRegs (own 9 4 8 1 1) ++ [8])) (fun _ _ => True) ∧
    Pushes (start [0]) f (checksOf f ctl []) ∧ (start [0]).acceptLanes 0 0 (ferry [0]) (checksOf f ctl []) ≠ [] ∧
    Accepted (waiting f (served (start [0]))) isRcflip f (checksOf f ctl []) (fun l s => owns l s ∧ (s.net 1).pend = none ∧
      l.graphicsFree s = true ∧ (s.die (fld (s.net 1).reg 12 2)).dead = false) ∧
    Accepted (waiting f (start [0])) isRcflip f (checksOf f ctl []) (fun l s => ¬ owns l s) := by
  refine ⟨solo_of ?_ trivial, solo_of ?_ trivial, pushes_of ?_ ?_, ?_, accepted_of ?_ ?_, accepted_of ?_ ?_⟩ <;> decide +kernel

/-- A queue at address 0 of records of one register, LGCAP 2, its slots from 0x200; the word of slot 0 is `seq`, and TAIL is `tail`. -/
def queue (seq tail : Byte) (rs : List (Nat × Word)) : State :=
  { withRegs [0] rs with mem := [(0x10001, 2), (0x10008, 2)] ++ (if tail = 0 then [] else [(0x10018, tail)]) ++ (if seq = 0 then [] else [(0x10200, seq)]) }
def isDone (e : QueueEnd) : Bool := match e with
  | .done _ _ _ _ => true
  | _ => false
def isBlocked (e : QueueEnd) : Bool := match e with
  | .blocked _ _ => true
  | _ => false
theorem done_of {e : QueueEnd} (h : isDone e = true) : ∃ t ws tc h, e = .done t ws tc h := by
  cases e <;> simp [isDone] at h
  exact ⟨_, _, _, _, rfl⟩
theorem blocked_of {e : QueueEnd} (h : isBlocked e = true) : ∃ t h, e = .blocked t h := by
  cases e <;> simp [isBlocked] at h
  exact ⟨_, _, rfl⟩
theorem witness_RecordQueues :
    let o : OwnOp := own 0 4 8 1 1
    let k : Checks := checksOf (.qpush o) ctl [4, 8]
    let push (l : Lane) (s : State) : QueueEnd := s.queuePush (Via.of l.c) (l.ctx s) (l.reg s 4) (fun n => match windowTrapOf (l.fibre s) 8 n with
      | some t => .error t
      | none => .ok ((List.range n).map (fun i => l.regN s (8 + i))))
    let p : OwnOp := own 8 4 0 1 1
    let kp : Checks := checksOf (.qpop p) ctl [8, 4]
    let pop (l : Lane) (s : State) : QueueEnd := (s.settleFibre l.c l.p).queuePop (Via.of l.c) (l.ctx s) (l.reg s 4) (fun h =>
      if h.bound then some { code := .queueFault, info0 := l.reg s 4, info1 := 0 } else windowTrapOf (l.fibre s) 8 h.regs)
    Pushes (queue 0 0 []) (.qpush o) k ∧
    Held (holding (.qpush o) (queue 0 0 [])) (.qpush o) k (fun l s => l.helper s = false ∧ l.overBudget s = false ∧ ∃ t ws tc h, push l s = .done t ws tc h) ∧
    Held (holding (.qpush o) (queue 5 0 [])) (.qpush o) k (fun l s => o.mod.getLsbD 0 = true ∧ l.helper s = false ∧ l.overBudget s = false ∧
      ∃ t h, push l s = .blocked t h) ∧
    Held (holding (.qpush o) ((queue 0 0 []).updFibre 0 0 (fun f => { f with helper := true }))) (.qpush o) k (fun l s => l.helper s = true) ∧
    Held (holding (.qpush o) { pod [] with grids := (pod []).grids.map (fun g => (g.1, { g.2 with budget := some 0 })) }) (.qpush o) k
      (fun l s => l.helper s = false ∧ l.overBudget s = true) ∧
    Solo (queue 1 1 []) 0 (.qpop p) kp (fun l s => ∃ t ws tc h, pop l s = .done t ws tc h) ∧
    Solo (queue 0 0 []) 0 (.qpop p) kp (fun l s => p.mod.getLsbD 0 = true ∧ ∃ t h, pop l s = .blocked t h) := by
  refine ⟨pushes_of ?_ ?_, held_of ?_ ⟨?_, ?_, done_of ?_⟩, held_of ?_ ⟨?_, ?_, ?_, blocked_of ?_⟩, held_of ?_ ?_, held_of ?_ ⟨?_, ?_⟩,
    solo_of ?_ (done_of ?_), solo_of ?_ ⟨?_, blocked_of ?_⟩⟩ <;> decide +kernel

def isRsub (i : Instr) : Bool := match i with
  | .rsub _ => true
  | _ => false
/-- The target record at address 0 as the home die reads it: well formed, aborted, and malformed. -/
def target (b : Memory) : State := { (start [0]).updDie 0 (fun d => { d with tlb := [page 0x1003D 0] }) with mem := b }
/-- The pixels of a target of 16 by 16 that the triangle of R324's example covers. -/
def covers : List (Nat × Nat × Option F32) := coveredPixels (targetOf_ [0, 0x000F000F, 0, 0, 0, 0, 0, 0]) [0, 0x41000000, 0x40C0000000000000, 0, 0]
theorem witness_RasterAndTexture :
    let r : Instr := .rsub (own 0 4 8 0 0)
    let k : Checks := checksOf r ctl (rsubRegs (own 0 4 8 0 0))
    let reads (q : List Word → Bool) (l : Lane) (s : State) : Prop := l.queueClear s = true ∧
      ∃ t x, s.readTarget (dieOf l.c) (l.ctx s) (l.reg s 4) = (t, .ok x) ∧ q x.2 = true
    let buffer (b : Bool) (l : Lane) (s : State) : Prop := (match s.readTarget (dieOf l.c) (l.ctx s) (l.reg s 4) with
      | (t, .ok x) => (t.bufferOk (dieOf l.c) (l.ctx t) (targetOf_ x.2)).2
      | _ => !b) = b
    let o : OwnOp := own 9 4 5 6 0
    (∀ x ∈ [((.rcls (own 9 4 0 1 0), checksOf (.rcls (own 9 4 0 1 0)) ctl (9 :: (List.range 3).map (fun i => 4 + i))) : Instr × Checks)],
      Ready (start quad) (ferry quad) x) ∧
    Pushes (start [0]) r k ∧ (start [0]).acceptLanes 0 0 (ferry [0]) k ≠ [] ∧
    Accepted (waiting r (target [])) isRsub r k (fun l s => reads (fun d => targetOk d && !(targetOf_ d).abort) l s ∧ buffer true l s) ∧
    Accepted (waiting r (target [(0, 3)])) isRsub r k (fun l s => reads (fun d => targetOk d && !(targetOf_ d).abort) l s ∧ buffer false l s) ∧
    Accepted (waiting r (target [(0x10010, 1)])) isRsub r k (reads (fun d => targetOk d && (targetOf_ d).abort)) ∧
    Accepted (waiting r (target [(0x10010, 2)])) isRsub r k (reads (fun d => !targetOk d)) ∧
    Solo (start [0]) 0 (.texs o) (mainChecks (.texs o) ctl (regsDABC 9 4 5 6)) (fun l s => ∃ t v, l.texture (s.settleFibre l.c l.p) o = (t, .ok v)) ∧
    Solo (withRegs [0] [(5, 16)]) 0 (.texs o) (mainChecks (.texs o) ctl (regsDABC 9 4 5 6)) (fun l s => (l.reg (s.settleFibre l.c l.p) 5).toNat % 32 ≠ 0) ∧
    (covers.length = 24 ∧ covers.all (fun q => (q.1 / 64 + q.2.1 / 64) % 4 == 0) = true ∧ (State.reset.die 0).dead = false ∧
      (decodeF .f32 0x3F800000).exact = some 1 ∧ (decodeF .f32 0x7FC00000).isNan = true) := by
  refine ⟨ready_of ?_, pushes_of ?_ ?_, ?_, accepted_of ?_ ⟨⟨?_, of_gives ?_⟩, ?_⟩, accepted_of ?_ ⟨⟨?_, of_gives ?_⟩, ?_⟩, accepted_of ?_ ⟨?_, of_gives ?_⟩, accepted_of ?_ ⟨?_, of_gives ?_⟩,
    solo_of ?_ (ok_of ?_), solo_of ?_ ?_, ?_⟩ <;> decide +kernel

/-- A handle of context 0, numbered 5. -/
def handle (st : HandleState) (second : Bool) (pin : Nat) : Handle :=
  { ctx := 0, num := 5, base := 0x200000, pages := 1, prio := 0, second := second, pinReq := pin, pinGot := pin, st := st, seq := 9, pinned := [] }
def withHandle (h : Handle) : State := { withRegs [0] [(4, 5), (5, 8)] with handles := [h] }
theorem witness_ResidencyOperations :
    let k (i : Instr) : Checks := checksOf i ctl (regsDAB 9 4 5)
    let hd (l : Lane) (s : State) : Option Handle := s.handle (l.ctx s) ((l.reg s 4).extractLsb' 0 6).toNat
    Solo (start [0]) 0 (.residCreate (own 9 4 5 0 0)) (k (.residCreate (own 9 4 5 0 0))) (fun l s => l.helper s = false) ∧
    Solo ((start [0]).updFibre 0 0 (fun f => { f with helper := true })) 0 (.residRead (own 9 4 5 0 6)) (checksOf (.residRead (own 9 4 5 0 6)) ctl [9, 10, 11, 4, 5])
      (fun l s => l.helper s = true) ∧
    Solo (start [0]) 0 (.residDestroy (own 9 4 5 0 1)) (k (.residDestroy (own 9 4 5 0 1))) (fun l s => hd l s = none) ∧
    Solo (withHandle (handle .idle false 0)) 0 (.residDestroy (own 9 4 5 0 1)) (k (.residDestroy (own 9 4 5 0 1)))
      (fun l s => hd l s = some (handle .idle false 0) ∧ (handle .idle false 0).st ≠ .moving) ∧
    Solo (withHandle (handle .moving true 0)) 0 (.residSetprio (own 9 4 5 0 2)) (k (.residSetprio (own 9 4 5 0 2))) (fun l s => hd l s = some (handle .moving true 0)) ∧
    Solo (withHandle (handle .idle true 0)) 0 (.residSetpin (own 9 4 5 0 3)) (k (.residSetpin (own 9 4 5 0 3))) (fun l s => hd l s = some (handle .idle true 0)) ∧
    Solo (withHandle (handle .idle true 0)) 0 (.residPromote (own 9 4 5 0 4)) (k (.residPromote (own 9 4 5 0 4))) (fun l s => hd l s = some (handle .idle true 0)) ∧
    Solo (withHandle (handle .idle false 2)) 0 (.residDemote (own 9 4 5 0 5)) (k (.residDemote (own 9 4 5 0 5))) (fun l s => hd l s = some (handle .idle false 2)) ∧
    Solo (withHandle (handle .noframes false 0)) 0 (.residRead (own 9 4 5 0 6)) (checksOf (.residRead (own 9 4 5 0 6)) ctl [9, 10, 11, 4, 5])
      (fun l s => hd l s = some (handle .noframes false 0)) := by
  refine ⟨solo_of ?_ ?_, solo_of ?_ ?_, solo_of ?_ ?_, solo_of ?_ ⟨?_, ?_⟩, solo_of ?_ ?_, solo_of ?_ ?_, solo_of ?_ ?_, solo_of ?_ ?_, solo_of ?_ ?_⟩ <;> decide +kernel

/-- A RESID operation that meets the conditions on which it runs to its end. -/
def RunsHere (s : State) (i : Instr) (written : List Nat) (ok : Lane → State → Prop) : Prop :=
  let k := checksOf i ctl (written ++ [4, 5])
  i.wf = true ∧ Issues s 0 0 (ferry [0]) ∧ Admits s 0 0 (ferry [0]) k ∧ (ferry [0]).lanes = [0] ∧ ctl.t = false ∧
    (lane 0).inWindow s k ∧ (lane 0).guard s k = true ∧ (lane 0).helper s = false ∧ ok (lane 0) s
theorem runs_of {s : State} {i : Instr} {written : List Nat} {ok : Lane → State → Prop}
    (h : (i.wf && issuesB s 0 (ferry [0]) && admitsB s 0 0 (ferry [0]) (checksOf i ctl (written ++ [4, 5]))
      && inWindowB (lane 0) s (checksOf i ctl (written ++ [4, 5])) && (lane 0).guard s (checksOf i ctl (written ++ [4, 5]))
      && !(lane 0).helper s) = true) (ho : ok (lane 0) s) : RunsHere s i written ok := by
  simp only [Bool.and_eq_true, Bool.not_eq_true'] at h
  exact ⟨h.1.1.1.1.1, issues_of h.1.1.1.1.2, admits_of h.1.1.1.2, rfl, rfl, inWindow_of h.1.1.2, h.1.2, h.2, ho⟩
theorem witness_ResidencyOperations_complete :
    RunsHere (start [0]) (.residCreate (own 9 4 5 0 0)) [9] (fun _ _ => True) ∧
    RunsHere (withHandle (handle .idle false 0)) (.residDestroy (own 9 4 5 0 1)) [9] (fun l s =>
      s.handle (l.ctx s) ((l.reg s 4).extractLsb' 0 6).toNat = some (handle .idle false 0) ∧ (handle .idle false 0).st ≠ .moving) ∧
    RunsHere (withHandle (handle .moving true 0)) (.residSetprio (own 9 4 5 0 2)) [9] (fun _ _ => True) ∧
    RunsHere (withHandle (handle .idle true 0)) (.residSetpin (own 9 4 5 0 3)) [9] (fun _ _ => True) ∧
    RunsHere (withHandle (handle .idle true 0)) (.residPromote (own 9 4 5 0 4)) [9] (fun _ _ => True) ∧
    RunsHere (withHandle (handle .idle false 2)) (.residDemote (own 9 4 5 0 5)) [9] (fun _ _ => True) ∧
    RunsHere (withHandle (handle .noframes false 0)) (.residRead (own 9 4 5 0 6)) [9, 10, 11] (fun _ _ => True) := by
  refine ⟨runs_of ?_ trivial, runs_of ?_ ⟨?_, ?_⟩, runs_of ?_ trivial, runs_of ?_ trivial, runs_of ?_ trivial, runs_of ?_ trivial,
    runs_of ?_ trivial⟩ <;> decide +kernel

/-- Region 2 with write version `wv` and horizon `hz`, of one page, on its home die 2. -/
def region (wv hz : Nat) (rs : List (Nat × Word)) : State :=
  (withRegs [0] rs).updDie 2 (fun d => { d with
    versions := [(2, { words := [wd (1 + wv * 2 ^ 16 + (wv + 65535) % 65536 * 2 ^ 32 + hz * 2 ^ 48), 0, 0, 1] })] })
def isVpub (i : Instr) : Bool := match i with
  | .vpub _ => true
  | _ => false
def isVrecl (i : Instr) : Bool := match i with
  | .vrecl _ => true
  | _ => false
/-- A publication, and one at the horizon's limit of 32,768; a reclaim within the horizon, at it, and of the write version itself. -/
theorem witness_VersionsPublished :
    let p : Instr := .vpub (own 13 0 0 0 2)
    let v : Instr := .vrecl (own 14 15 0 0 2)
    let kp : Checks := checksOf p ctl [13]
    let kv : Checks := checksOf v ctl (regsDA 14 15)
    let free (l : Lane) (s : State) : Prop := s.snapTrap (l.ctx s) 2 = none ∧ l.snapFree s 2 = true
    let table (l : Lane) (s : State) : List Word := s.versionWords 2 (l.ctx s) 2
    let age (l : Lane) (s : State) : Nat := VersionEntry.age (table l s) ((l.reg s 15).extractLsb' 0 16).toNat
    Pushes (start [0]) p kp ∧ (start [0]).acceptLanes 0 0 (ferry [0]) kp ≠ [] ∧ Pushes (start [0]) v kv ∧ (start [0]).acceptLanes 0 0 (ferry [0]) kv ≠ [] ∧
    Accepted (waiting p (region 8 5 [])) isVpub p kp (fun l s => free l s ∧ VersionEntry.horizon (table l s) ≠ 2 ^ 15) ∧
    Accepted (waiting p (region 0x8005 5 [])) isVpub p kp (fun l s => free l s ∧ VersionEntry.horizon (table l s) = 2 ^ 15) ∧
    Accepted (waiting v (region 8 5 [(15, 7)])) isVrecl v kv (fun l s => free l s ∧ 0 < age l s ∧ age l s < 2 ^ 15 ∧
      age l s < VersionEntry.horizon (table l s)) ∧
    Accepted (waiting v (region 8 5 [(15, 5)])) isVrecl v kv (fun l s => free l s ∧ 0 < age l s ∧ age l s < 2 ^ 15 ∧
      VersionEntry.horizon (table l s) ≤ age l s) ∧
    Accepted (waiting v (region 8 5 [(15, 8)])) isVrecl v kv (fun l s => free l s ∧ age l s = 0) ∧
    Accepted (waiting v (region 8 5 [(15, 0x8008)])) isVrecl v kv (fun l s => free l s ∧ age l s = 2 ^ 15) := by
  refine ⟨pushes_of ?_ ?_, ?_, pushes_of ?_ ?_, ?_, accepted_of ?_ ?_, accepted_of ?_ ?_, accepted_of ?_ ?_, accepted_of ?_ ?_, accepted_of ?_ ?_,
    accepted_of ?_ ?_⟩ <;> decide +kernel

/-- The lines of a range are maintained, and nothing stops it. -/
def linesOk (act : Lane → State → Nat → State) (l : Lane) (s : State) (start n : Nat) : Prop :=
  let first := match (l.fibre s).maint with
    | some (q, i) => if q = l.pc then max i (start / 128) else start / 128
    | none => start / 128
  ∃ t, s.overLines l.c (l.ctx s) (act l) first ((start + n - 1) / 128 + 1 - first) = (t, none)
theorem none_of {α β : Type} {x : α × Option β} (h : x.2.isNone = true) : ∃ t, x = (t, none) := by
  rcases x with ⟨t, _ | _⟩
  · exact ⟨t, rfl⟩
  · simp at h
theorem dirty_of {x : Option CacheWord} (h : (match x with
    | some w => w.mask != 0
    | none => false) = true) : ∃ w, x = some w ∧ w.mask ≠ 0 := by
  cases x with
  | none => simp at h
  | some w => exact ⟨w, rfl, by simpa using h⟩
/-- No bytes, one byte in each of two lines, and a range that ends one byte past 2^57; a range that ends at 2^57. -/
theorem witness_CacheMaintenance :
    let o : OwnOp := own 0 4 5 0 0
    let k (i : Instr) : Checks := checksOf i ctl [4, 5]
    let a (l : Lane) (s : State) : Nat := (l.reg s 4).toNat
    let n (l : Lane) (s : State) : Nat := (l.reg s 5).toNat
    Solo (start [0]) 0 (.cwb o) (k (.cwb o)) (fun l s => n l s = 0) ∧
    Solo (withRegs [0] [(4, 127), (5, 2)]) 0 (.cinv o) (k (.cinv o)) (fun l s => 0 < n l s ∧ a l s + n l s ≤ 2 ^ 57 ∧
      linesOk Lane.dropClean l s (a l s) (n l s)) ∧
    Solo (withRegs [0] [(4, 127), (5, 2)]) 0 (.iinv o) (k (.iinv o)) (fun l s => 0 < n l s ∧ a l s + n l s ≤ 2 ^ 57 ∧
      linesOk (iinvLine (o.mod.getLsbD 0)) l s (a l s) (n l s)) ∧
    Solo (withRegs [0] [(4, 0x1FFFFFFFFFFFFFF), (5, 2)]) 0 (.cwb o) (k (.cwb o)) (fun l s => 0 < n l s ∧ 2 ^ 57 < a l s + n l s) ∧
    (∀ x ∈ [((.fetchb (own 0 0 0 0 0), checksOf (.fetchb (own 0 0 0 0 0)) ctl []) : Instr × Checks)], Ready (start quad) (ferry quad) x) ∧
    Solo (start [0]) 0 (.pref (memo 1 0 5 0 .b4)) (checksOf (.pref (memo 1 0 5 0 .b4)) ctl [5]) (fun _ _ => True) ∧
    (∃ w, stored.l1Word 0 0x4002 = some w ∧ w.mask ≠ 0) := by
  refine ⟨solo_of ?_ ?_, solo_of ?_ ⟨?_, ?_, none_of ?_⟩, solo_of ?_ ⟨?_, ?_, none_of ?_⟩, solo_of ?_ ?_, ready_of ?_, solo_of ?_ trivial,
    dirty_of ?_⟩ <;> decide +kernel

theorem witness_TimeCountsAndSpecials :
    (∀ x ∈ [((.rdtime (own 9 0 0 0 1), checksOf (.rdtime (own 9 0 0 0 1)) ctl [9]) : Instr × Checks), (.rdsr (own 9 20 0 0 1), checksOf (.rdsr (own 9 20 0 0 1)) ctl [9]),
      (.rdsr (own 9 22 0 0 0), checksOf (.rdsr (own 9 22 0 0 0)) ctl [9])], Ready (start quad) (ferry quad) x) ∧
    Solo (start [0]) 0 (.rdsr (own 9 20 0 0 1)) (checksOf (.rdsr (own 9 20 0 0 1)) ctl [9]) (fun _ _ => True) ∧
    (∀ x ∈ ((start quad).fibre 0 0).pending, x.await = none) ∧ (start quad).owesAck 0 0 = false ∧
    Solo (start [0]) 0 (.perfr (own 9 0 0 0 15)) { checksOf (.perfr (own 9 0 0 0 15)) ctl [9] with priv := false } (fun _ _ => True) ∧
    Solo (start [0]) 0 (.perfr (own 9 0 0 0 11)) { checksOf (.perfr (own 9 0 0 0 11)) ctl [9] with priv := true } (fun _ _ => True) := by
  refine ⟨ready_of ?_, solo_of ?_ trivial, ?_, ?_, solo_of ?_ trivial, solo_of ?_ trivial⟩ <;> decide +kernel

/-- Thread 0 of control core 640 moves. -/
def thread (rs : List (Nat × Word)) : State :=
  let s := State.reset.placeThread 0
  { (s.updFibre 640 0 (fun f => rs.foldl (fun (f : Fibre) r => f.write r.1 r.2) f)).updCore 640 (fun k => { k with dtlb := [page 0x1003D 0] }) with cur := .ferry 640 0 }
/-- That thread waits for its CKPT, whose cut stands at `x`. -/
def cutting (x : Option CutRun) : State :=
  let s := (thread []).updFerry 640 0 (fun f => { f with hold := .accept 0 (.ckpt (own 9 4 5 0 0)) [0] })
  { s with plat := { s.plat with ckptCut := some (640, 0, 0), cutRun := x } }
theorem witness_SystemWords :
    let m (n : BitVec 15) : OwnOp := own 9 4 0 0 n
    let k (i : Instr) (p : Bool) : Checks := { checksOf i ctl (regsDA 9 4) with priv := p }
    Solo (withRegs [0] [(4, 1)]) 0 (.mtcr (m 1)) (k (.mtcr (m 1)) false) (fun l s => controlOk 1 (l.reg s 4) = true) ∧
    Solo (withRegs [0] [(4, 1)]) 0 (.mtcr (m 5)) (k (.mtcr (m 5)) true) (fun l s => controlOk 5 (l.reg s 4) = true) ∧
    Solo (withRegs [0] [(4, 0xFFFFFFFFFFFFFFFF)]) 0 (.mtcr (m 0)) (k (.mtcr (m 0)) true) (fun l s => controlOk 0 (l.reg s 4) = false) ∧
    Solo (start [0]) 0 (.mfcr (own 9 0 0 0 511)) { checksOf (.mfcr (own 9 0 0 0 511)) ctl [9] with priv := true } (fun _ _ => True) ∧
    Solo (start [0]) 0 (.halt (own 0 4 0 0 0)) { checksOf (.halt (own 0 4 0 0 0)) ctl [4] with priv := true } (fun _ _ => True) ∧
    Solo (thread []) 640 (.halt (own 0 4 0 0 0)) { checksOf (.halt (own 0 4 0 0 0)) ctl [4] with priv := true } (fun _ _ => True) ∧
    Solo (thread []) 640 (.ckpt (own 9 4 5 0 1)) { checksOf (.ckpt (own 9 4 5 0 1)) ctl (regsDAB 9 4 5) with main := false, priv := true }
      (fun _ s => s.plat.ckptCut = none) ∧
    State.reset.nets.length = 2 ∧ controlOk 16 0x3C00000100010001 = true ∧
    (cutting none).plat.ckptCut = some (640, 0, 0) ∧
    (AMap.find ((cutting none).core 640).ferries 0).map (fun x => x.hold) = some (.accept 0 (.ckpt (own 9 4 5 0 0)) [0]) ∧
    (cutting none).plat.cutRun = none ∧ ((cutting none).cutStatus 0 none).1 = 1 ∧
    (cutting (some { man := 0, ids := [0], frames := [], pos := [] })).plat.cutRun.any (fun x => x.left.isEmpty) = true ∧
    (CutRun.left { man := 0, ids := [0], frames := [5], pos := [] }).length = 16 ∧
    inWindowB { c := 640, p := 0, n := 0, pos := 0, pc := 0 } (cutting none) { checksOf (.ckpt (own 9 4 5 0 0)) ctl (regsDAB 9 4 5) with main := false, priv := true } = true := by
  refine ⟨solo_of ?_ ?_, solo_of ?_ ?_, solo_of ?_ ?_, solo_of ?_ trivial, solo_of ?_ trivial, solo_of ?_ trivial, solo_of ?_ ?_, ?_⟩ <;> decide +kernel

/-- A record of one group of 8 lanes with windows of 16, and a package whose context table holds a valid record of context 0. -/
def plainRcd : List Word := [0, 0, 0, 0, 0x10000100001, 0, 0x400F] ++ List.replicate 9 0
def launchable : State := { State.reset with mem := [(0, 1)] }
def accepts (e : LaunchEnd) : Bool := match e with
  | .accept _ _ none => true
  | _ => false
theorem accept_of {e : LaunchEnd} (h : accepts e = true) : ∃ t ids, e = .accept t ids none := by
  rcases e with _ | _ | ⟨s, i, _ | _⟩ <;> simp [accepts] at h
  exact ⟨s, i, rfl⟩
theorem some_ok_of {ε α : Type} {x : State × Option (Except ε α)} (h : (match x.2 with
    | some (.ok _) => true
    | _ => false) = true) : ∃ t r, x = (t, some (.ok r)) := by
  rcases x with ⟨t, _ | _ | r⟩ <;> simp at h
  exact ⟨t, r, rfl⟩
theorem witness_LaunchOperations :
    let k (i : Instr) : Checks := { checksOf i ctl (regsDABC 9 4 5 6) with main := false }
    let reads (l : Lane) (s : State) : Prop := (l.reg s 4).toNat % 128 = 0 ∧ ∃ t r, s.recordRead l.c l.p (l.ctx s) (l.reg s 4) = (t, some (.ok r))
    Solo (thread []) 640 (.lnchLaunch (own 9 4 5 6 0)) (k (.lnchLaunch (own 9 4 5 6 0))) reads ∧
    Solo (thread [(4, 128)]) 640 (.lnchBind (own 9 4 5 6 1)) (k (.lnchBind (own 9 4 5 6 1))) reads ∧
    Solo (thread [(4, 64)]) 640 (.lnchLaunch (own 9 4 5 6 0)) (k (.lnchLaunch (own 9 4 5 6 0))) (fun l s => (l.reg s 4).toNat % 128 ≠ 0) ∧
    Solo (thread []) 640 (.lnchUnbind (own 9 4 5 6 2)) (k (.lnchUnbind (own 9 4 5 6 2))) (fun _ _ => True) ∧
    (∃ t ids, (launchable).checkLaunch 0 0 plainRcd none = .accept t ids none) := by
  refine ⟨solo_of ?_ ⟨?_, some_ok_of ?_⟩, solo_of ?_ ⟨?_, some_ok_of ?_⟩, solo_of ?_ ?_, solo_of ?_ trivial, accept_of ?_⟩ <;> decide +kernel

/-! ### Steps of the other agents -/

/-- Core 0 with a block entry that fibre 0, ready, and fibre 1 of the group wait in, and no ferry. -/
def entry (places : List Nat) : BlockEntry := { ctx := 0, addr := 0, q := false, yh := 0, wvec := places, age := 0, cur := 0, rs := false }
def selectable : State := (start [0]).updCore 0 (fun k => { k with ferries := [], table := [(0, entry [0, 1])] })
/-- A table of 32 entries of no ready fibre, and a ready fibre in the holding list. -/
def crowded : State := (start [0]).updCore 0 (fun k => { k with
  ferries := [], table := (List.range Config.blockEntries).map (fun i => (i, entry [900])), holding := [{ place := 0, ctx := 0, addr := 8, rs := false, since := 0 }] })
def owing (late : List LateAccess) : State := (start [0]).updFibre 0 0 (fun f => ({ f with pending := [{
  flag := some 0, regs := [(9, 7)], preds := [], fp := 0, line := none, await := none, peerSz := .b8, late := late, unit := false }] } : Fibre).countUp (some 0))
/-- A load of 8 bytes that is still to be performed. -/
def lateLoad : LateAccess := {
  kind := .load, stamp := 0, ctx := 0, at_ := .memory 0x10000 .package (page 0x1003D 0) 0, n := 8, data := 0, reg := 4, sz := .b8, sx := false, acq := false }
/-- A retired group's work of core 0: no fibre, and nothing that names it. -/
def retired : State := State.reset.updCore 0 (fun k => { k with groups := [(259, Group.blank)] })
def barrier (now : Word) : State :=
  { (start [0]).updGroup 0 0 (fun g => { g with barriers := [(15, { phase := 0, arrived := [0], first := some (5, 100) })] }) with gtb := now }
theorem witness_CoreSteps :
    (State.reset.refill 0).canSelect 0 = false ∧ (selectable.refill 0).canSelect 0 = true ∧ (selectable.refill 0).spillVictim 0 = none ∧
    (crowded.spillVictim 0).isSome = true ∧
    (((owing []).fibre 0 0).pending[0]?).map (fun x => x.late) = some [] ∧ (owing []).hasFibre 0 0 = true ∧ ((owing []).fibre 0 0).life ≠ .draining ∧
    ((owing []).fibre 0 0).flagCount 0 = 1 ∧ (((owing [lateLoad]).fibre 0 0).pending[0]?).map (fun x => x.late) = some [lateLoad] ∧
    (∀ p ∈ (barrier 105).liveOf 0 0, ((barrier 105).fibre 0 p).lates = []) ∧
    retired.groupOver 0 259 = true ∧ retired.namesGroup 0 259 = false ∧ ((start [0]).core 0).asleep = false ∧
    (selectable.updCore 0 (fun k => { k with asleep := true, wakeAt := some 0 })).mustWake 0 = true ∧
    State.reset.fabric.biPending = [] ∧ (pod []).senderOk 1 0 = true ∧ (pod []).senderOk 1 7 = false ∧
    (AMap.find ((barrier 104).core 0).groups 0).isSome = true ∧
    (AMap.getD ((barrier 104).group 0 0).barriers 15 Barrier.blank).expired 104 = false ∧
    (AMap.getD ((barrier 105).group 0 0).barriers 15 Barrier.blank).expired 105 = true ∧ ((barrier 105).liveOf 0 0).Nodup ∧
    (AMap.find (((start [0]).setFerry 0 0 { ferry [0] with hold := .nano 3 }).core 0).ferries 0).isSome = true ∧
    (((start [0]).core 0).groups.map Prod.fst).Nodup ∧ (State.reset.core 639).resident = [] ∧ ((start [0]).core 0).resident ≠ [] := by decide +kernel

/-- A package whose launch queue 0 holds one grid that is open to the draw; one whose queue has no tickets; a grid that ends; a GO while an
operation is in progress; a join at the head of a queue beside a command it waits for. -/
def aGrid (x : Grid → Grid) : Grid := x { rcd := plainRcd, ctx := 0, lq := 0, next := 0, returned := [], discarded := false, killed := false, prot := false, peerLost := false, dataLost := false, ampl := false, losts := 0, lostId := none, drops := 0, pushes := 0, budget := none, binding := none, coresRan := [], members := [0], ending := none }
def launched (x : Grid → Grid) : State := { State.reset with grids := [(1, aGrid x)], queues := [(0, [1])], nextGrid := 2 }
def drawing : State := { launched id with plat := { State.reset.plat with pkgCfg := 0x8000000000000000 } }
def noTickets : State := { launched id with regs := { State.reset.regs with tickets := [(0, 0x10000000)] } }
def finished (e : Option Word) : State := { launched (fun g => { g with next := 1, ending := e }) with queues := [], gtb := 9 }
def bound (tail : Word) (idle : Word) : State :=
  { launched (fun g => { g with binding := some { queue := 0, idle := idle, lastPush := 0, idleGone := false, tail := tail, unbound := false } }) with
    gtb := 5, mem := [(0x10001, 2), (0x10008, 2)], dies := (State.reset.updDie 0 (fun d => { d with tlb := [page 0x1003D 0] })).dies }
def joining : State := ((start [0]).enqueue 0 0 1 0 (.fill 3 false 0 0 8 none) 0).updGroup 0 0 (fun g => { g with
  queues := g.queues.set 0 [Command.fresh 9 0 (.join 9 3) 0 []] })
theorem witness_DispatchSteps :
    (launched id).dispatchReady = false ∧ drawing.dispatchReady = true ∧ drawing.startSpan.colocate = none ∧ drawing.startSpan.draw.2 = some 0 ∧
    ({ drawing with colocate := some 1 } : State).grid 1 = some (aGrid id) ∧ ({ drawing with queues := [] } : State).startSpan.draw.2 = none ∧
    (pod []).senderOk 1 0 = true ∧ (pod []).senderOk 1 7 = false ∧
    (launched id).draw.2 = some 0 ∧ noTickets.draw.2 = some 0 ∧
    (finished none).grid 1 = some (aGrid (fun g => { g with next := 1 })) ∧ (aGrid (fun g => { g with next := 1 })).allOut = true ∧
    (finished none).gridLives 1 = false ∧ (launched id).grid 1 = some (aGrid id) ∧ (aGrid id).allOut = false ∧
    (finished (some 8)).grid 1 = some (aGrid (fun g => { g with next := 1, ending := some 8 })) ∧
    (∃ u x, (bound 0 5).queueHead (Via.dev (bound 0 5).liveDie) 0 .read 0 = (u, .ok x) ∧ (x.1.tail == 0) = true) ∧
    (∃ u x, (bound 1 5).queueHead (Via.dev (bound 1 5).liveDie) 0 .read 0 = (u, .ok x) ∧ (x.1.tail != 1) = true) ∧
    fld (0x1000001 : Word) 24 4 = 1 ∧ fld (0x1000001 : Word) 28 2 ≠ 3 ∧ State.reset.preOp = none ∧
    (State.reset.writePre 0x1000001).preOp.isSome = true ∧
    ((joining.group 0 0).queues.getD 0 []).map (fun x => x.id) = [9] ∧ joining.joinOver 0 0 9 3 = false := by
  refine ⟨?_, ?_, ?_, ?_, ?_, ?_, ?_, ?_, ?_, ?_, ?_, ?_, ?_, ?_, ?_, ?_, of_gives ?_, of_gives ?_, ?_, ?_, ?_, ?_, ?_, ?_⟩ <;> decide +kernel

/-- Die 0 with a line whose word 0 is homed there, and the same line of a HOST range in die 1's L2 with a word of another home. -/
def l2line (d : Domain) : L2Line :=
  { dom := d, words := [], k := 0, wroteSinceFill := false, lexp1 := 0, c1 := 0, lexp2 := 0, owner := none, ownMask := 0, bounce := 3, pin := false }
def cached : State := State.reset.updDie 1 (fun d => { d with l2 := [(0, l2line .package), (3, l2line .host)] })
def linked : State := { cached with plat := { State.reset.plat with linkUp := 0x03 } }
/-- The host has unmasked every vector. -/
def unmasked : State := { State.reset with plat := { State.reset.plat with masked := 0 } }
/-- A set of die 1's L2 is full. -/
def fullSet : State := State.reset.updDie 1 (fun d => { d with l2 := List.replicate 16 (0, l2line .package) })
theorem fullSet_l2 : (fullSet.die 1).l2 = List.replicate 16 (0, l2line .package) := by decide +kernel
theorem witness_MemorySteps :
    (∃ w, stored.l1Word 0 0x4002 = some w ∧ w.mask ≠ 0) ∧ 16 ≤ (fullSet.l2SetOf 1 0).length ∧
    (AMap.find (cached.die 1).l2 0).isSome = true ∧ homeOf 0 = 0 ∧ (l2line .package).dom.wide = true ∧ (cached.die 1).dead = false ∧
    (AMap.find (cached.die 0).l2 0).isNone = true ∧ lineEntry (State.reset.core 0).dtlb 0 .package = none ∧ (lineEntry ((start [0]).core 0).dtlb 0x200 .package).isSome = true ∧
    (start [0]).l2Full 0 0x200 = false ∧ (lineEntry [page 0x1003D 0] 0x200 .package).isSome = true ∧ (pod []).senderOk 1 0 = true ∧
    State.reset.linkOk = false ∧ linked.linkOk = true ∧ 0xFFFFFFFFFF + 1 = 0x010000000000 ∧ linked.hostLine 3 = true ∧ linked.hostLine 0 = false ∧
    inSecond (0x1FFFFFFFF * 128) = false ∧ inSecond (0x200000000 * 128) = true ∧ (State.reset.die 3).dead = false ∧
    (cached.updDie 3 (fun d => { d with dead := true })).dies ≠ cached.dies ∧ State.reset.plat.masked.getLsbD 4 = true ∧
    unmasked.plat.masked.getLsbD 4 = false ∧ (owing [lateLoad]).lineWanted 0 0x200 = true ∧ ((owing [lateLoad]).core 0).asleep = false ∧
    (owing [lateLoad]).l2Full 0 0x200 = false ∧ (lineEntry ((owing [lateLoad]).core 0).dtlb 0x200 .package).isSome = true ∧
    (start [0]).lineWanted 0 0x200 = false ∧ (State.reset.l2SetOf 1 0).length < 16 ∧ cached.l1Victim 0 0x200 = none ∧
    State.reset.plat.pkgCfg.getLsbD 63 = false ∧ (pod []).plat.pkgCfg.getLsbD 63 = true := by
  refine ⟨dirty_of ?_, by simp [State.l2SetOf, fullSet_l2], ?_, ?_, ?_, ?_, ?_, ?_, ?_, ?_, ?_, ?_, ?_, ?_, ?_, ?_, ?_, ?_, ?_⟩ <;> decide +kernel

def waitEntry (k : TokenKind) (till : Option Word) : WaitEntry :=
  { kind := k, ctx := 0, key := 0x10000, waiters := [.fibre 0 0], time := 0, cause := .notPresent, gran := 0, till := till, leaf := none, rid := 0, wv := 0, slot := none, freed := [], rmw := false, eng := false, pc := 0, pops := false, pushes := false }
def waits (e : WaitEntry) (wd_ : BitVec 32) : State :=
  { State.reset.updDie 2 (fun d => { d with wait := [(7, e)] }) with gtb := 100, plat := { State.reset.plat with faultWd := wd_ } }
def moving (m : Option Move) (ms : List (Nat × Bool)) : State := { withHandle (handle .moving false 0) with move := m, moves := ms }
def move (done : Nat) (held : Option (Nat × Word)) : Move := { seq := 9, toSecond := true, frames := [0x200000], done := done, held := held, old := none }
def snap (page : Option Nat) (freed : Option (Word × List Nat × Bool)) : State := (region 8 5 []).updDie 2 (fun d => { d with
  snaps := [{ ctx := 0, region := 2, page := page, freed := freed, leaf := none, issuer := (0, 0, 0) }] })
def shooting : State := { State.reset with plat := { State.reset.plat with shootCtl := 0x41, shooting := some (0, 1, [0]) } }
theorem witness_PageSteps :
    State.reset.records2 = [] ∧ ({ State.reset with records2 := [[1]] } : State).records2 = [[1]] ∧
    (1 : Word).getLsbD 0 = true ∧ shooting.plat.shootCtl.getLsbD 6 = true ∧ State.reset.plat.shooting = none ∧ shooting.plat.shooting = some (0, 1, [0]) ∧
    shootCovers 0 0 (page 0x1003D 0) = true ∧
    (waits (waitEntry .fault none) 0).replayed 0x10000 0x280 = [(2, 7, waitEntry .fault none)] ∧
    AMap.find ((waits (waitEntry .fault none) 100).die 2).wait 7 = some (waitEntry .fault none) ∧
    ((waitEntry .fault none).time.toNat + (100#32).toNat ≤ (waits (waitEntry .fault none) 100).gtb.toNat) ∧
    ¬ ((waitEntry .fault none).time.toNat + (101#32).toNat ≤ (waits (waitEntry .fault none) 101).gtb.toNat) ∧
    (moving none [(9, true)]).handles.find? (fun x => x.seq == 9) = some (handle .moving false 0) ∧ (handle .moving false 0).second ≠ true ∧
    (moving none []).moves = [] ∧ (moving (some (move 1 none)) []).move = some (move 1 none) ∧ (handle .moving false 0).pages ≤ (move 1 none).done ∧
    (moving (some (move 0 (some (0, 5)))) []).move = some (move 0 (some (0, 5))) ∧
    AMap.find ((waits (waitEntry .version (some 5)) 0).die 2).wait 7 = some (waitEntry .version (some 5)) ∧
    AMap.find ((waits (waitEntry .version none) 0).die 2).wait 7 = some (waitEntry .version none) ∧
    ((snap none none).die 2).snaps.length = 1 ∧ (2#4).toNat % 4 = 2 ∧ ((snap (some 0) none).die 2).snaps.map (fun x => x.page) = [some 0] ∧
    ((snap (some 0) (some (5, [], false))).die 2).snaps.map (fun x => x.freed) = [some (5, [], false)] := by decide +kernel

def asked (since now : Word) : State :=
  { pod [] with gtb := now, fabric := { (pod []).fabric with
    send := [(16, { next := 1, sent := [{ tag := 0, op := .read 0 8, since := since, waiter := .fibre 0 0, value := true, pc := 0, sets := (none, none), sent := since, keep := false }] })] } }
def request (tag : BitVec 16) (op : FabricOp) : FabricRequest := { src := 1, inc := 0, plane := 0, tag := tag, ctx := 0, op := op, entry := (0, 0), pc := 0 }
def respond : FabricResponse := { src := 1, inc := 0, plane := 0, tag := 0, ans := .data [0, 0, 0, 0, 0, 0, 0, 0] 0 false }
theorem witness_FabricSteps :
    AMap.getD (asked 0 5).fabric.timers 0 .idle = .idle ∧ (asked 0 50000).fabric.rto.toNat = 50000 ∧
    AMap.getD ({ asked 0 5 with fabric := { (asked 0 5).fabric with timers := [(3, .stopped 4)] } } : State).fabric.timers 3 .idle = .stopped 4 ∧
    State.reset.plat.pkgCfg.getLsbD 63 = false ∧ (pod []).plat.pkgCfg.getLsbD 63 = true ∧
    (pod []).senderOk 1 0 = true ∧ (pod []).senderOk 1 1 = false ∧ (pod []).senderOk 2 0 = false ∧
    (AMap.find (pod []).fabric.recv 16).isNone = true ∧
    ((request 0xFFFF .unsupported).tag - 0xFFFF).toNat = 0 ∧ ((request 0 (.read 0 8)).tag - 0xFFFF).toNat = 1 ∧
    ((request 255 (.read 0 8)).tag - 0xFFFF).toNat = 256 ∧ ((request 256 (.read 0 8)).tag - 0xFFFF).toNat = 257 ∧
    ((request (0 - 513) (.read 0 8)).tag - 0xFFFF).toNat = 2 ^ 16 - 512 ∧ ((request (0 - 512) (.read 0 8)).tag - 0xFFFF).toNat = 2 ^ 16 - 511 ∧
    (((asked 0 5).sendWindow 1 0).sent.find? (fun r => r.tag == respond.tag)).isSome = true ∧
    (((pod []).sendWindow 1 0).sent.find? (fun r => r.tag == respond.tag)).isNone = true ∧
    ((asked 0 2000000).peerEntry 1).getLsbD 17 = false ∧ (asked 0 2000000).regs.peerTimeout = 2000000 ∧
    (pod []).accid = 0 ∧ unmasked.plat.masked.getLsbD 4 = false ∧ (pod []).drained 0 = true ∧
    opOk (.read 0 128) = true ∧ opOk (.read 0 129) = false ∧ opOk .unsupported = false ∧ opOk (.write 0 [1, 2] [true]) = false ∧
    (1000 ≤ (1000#32).toNat ∧ (4000000#32).toNat ≤ 4000000) := by decide +kernel

def submission (todo : List Nat) (pushed : Bool) (prim oq : Word) : Submission :=
  { id := 3, ctx := 0, target := 0, pa := 0x10000, desc := [0, 0, oq, 0, 0, 0, 0, 0], seq := 6, verts := [0, 0, 0, 0, prim * 2 ^ 32], todo := todo, did := [], count := 0, pushed := pushed, issuer := (0, 0, 0), place := 0 }
def submitted (x : Submission) (mem : Memory) : State :=
  { State.reset.updDie 0 (fun d => { d with tlb := [page 0x1003D 0] }) with subs := [x], mem := mem }
def trainedNet (n : Nat) (run : Option (Word × List (List Word))) : State :=
  { State.reset with nets := [{ Net.reset with reg := 0x8000, loaded := true, queue := List.replicate n [], run := run }, Net.reset] }
def stage (n : BitVec 8) (img att : Word) : State := { State.reset with plat := { State.reset.plat with stage := n, imgCtl := img, attCtl := att, linkUp := 3 } }
theorem witness_PlatformSteps :
    (submitted (submission [0] false 0 0) []).subs.find? (fun y => y.id == 3) = some (submission [0] false 0 0) ∧
    primOf (submission [] false 0x80000009 0).verts = 0x80000009 ∧ primOf (submission [] false 0x7FFFFFFF 0).verts < 2 ^ 31 ∧
    wd (targetOf_ (submission [] false 0x80000009 0).desc).oq = 0 ∧ wd (targetOf_ (submission [] false 0x80000009 64).desc).oq = 64 ∧
    (trainedNet 16384 none).nets.length = 2 ∧ ((trainedNet 16384 none).net 0).queue.length = 16384 ∧ ((trainedNet 16384 none).net 0).reg.getLsbD 15 = true ∧
    ((trainedNet 16384 none).net 0).run = none ∧ ((trainedNet 16383 none).net 0).queue.length < 16384 ∧ ((trainedNet 0 (some (0, []))).net 0).run = some (0, []) ∧
    State.reset.linkOk = false ∧ (stage 1 0 0).linkOk = true ∧
    State.reset.plat.pkgCfg.getLsbD 63 = false ∧ (pod []).plat.pkgCfg.getLsbD 63 = true ∧ ((0x20000 : Word).extractLsb' 16 2) ≠ 3 ∧
    ((State.reset.island 159).extractLsb' 8 2).toNat = 1 ∧ (after (.islandOff 159) State.reset).island 159 = 0x300 ∧
    (((after (.islandOff 159) State.reset).powerOff 159).island 159).extractLsb' 8 2 = 0 ∧
    AMap.find State.reset.plat.admitted 159 = none ∧ ((State.reset.island 160).extractLsb' 8 2).toNat ≠ 3 ∧
    AMap.find (after .islandAdmission { State.reset with gtb := 1000 }).plat.admitted 0 = some 1000 ∧
    (stage 1 0 0).plat.stage = 1 ∧ (stage 2 2 0).imgSizeOk = false ∧ (stage 3 0 0).plat.stage = 3 ∧ (stage 4 0 2).linkOk = true ∧
    inHost 0x100000000000 = true ∧ inHost (0x100000000000 + 32767) = true ∧ State.reset.plat.ckptCut = none ∧ State.reset.plat.ckptRestore = false ∧
    ({ State.reset with plat := { State.reset.plat with ckptRestore := true } } : State).manifestOk 0 = false ∧ State.reset.plat.trained = false ∧
    0x307F8 % 8 = 0 := by decide +kernel

/-- A decoded word in a ferry, the second half of a pair word, a word that decodes to nothing, a stream's word, an event, a tick. -/
theorem witness_StepRunsDecodedWord :
    let s (w : Word) : State := State.reset.placeWord w
    let word (w : Word) : Option Word := match ((s w).ferryTurn 0 0).ferryWord 0 0 with
      | (_, .ok x) => some x
      | _ => none
    (s 0x0D3C04800000006F).turns = [.run (.ferry 0 0)] ∧ (s 0x0D3C04800000006F).canIssue 0 0 = true ∧ word 0x0D3C04800000006F = some 0x0D3C04800000006F ∧
    isStreamWord 0x0D3C04800000006F = false ∧ word 0x81C260481D860550 = some 0x81C260481D860550 ∧
    ((s 0x81C260481D860550).ferry 0 0).structureOk false = true ∧ word 0xC000000000000000 = some 0xC000000000000000 ∧
    (s 0x5FBC008080004080).turns = [.run (.stream 0 0)] ∧ ((s 0x5FBC008080004080).group 0 0).stream.any (fun x => (s 0x5FBC008080004080).streamOpen 0 x) = true ∧
    (∀ k ∈ State.reset.cores, ∀ x ∈ k.2.fibres, x.2.lates = []) ∧ isStreamWord 0x5FBC008080004080 = true ∧
    passesLate (.ferrySelection 0) = true ∧ State.reset.allOpen = true ∧ isEvent (.islandOn 3) = true ∧ (Instr.islandOn 3).wf = true := by decide +kernel

theorem witness_DecodeEncodeAgree :
    encode (.iadd (alu .i32 255 4 5 0)) = some 0x003C7F8202800000 ∧ (Instr.iadd (alu .i32 255 4 5 0)).wf = true ∧
    (encodePair (.halfIadd (half .i64 9 1 true)) (.halfFmul (half .f64 12 10))).isSome = true ∧
    pairOk (.halfIadd (half .i64 9 1 true)) (.halfFmul (half .f64 12 10)) = true := by decide +kernel
theorem witness_StepKeepsMemory : State.Inv State.reset ∧ ∃ t, step (State.reset.withFetchWord 64 0x0D3C04800000006F) = .next t :=
  ⟨by unfold State.Inv; decide +kernel, next_of (by decide +kernel)⟩

end Sys2Proof.Tests
end

section
/-! PROOFS. The radiance words (R317 to R319, R82): a query's answer, a sample's way into the graphics queue, a publication. -/

namespace Sys2Proof.Machine.RadianceWords

/-! ## Words that wait for an engine's acceptance -/

/-- The lanes that are no helpers with all their registers wait for the engine (R143, R215). -/
theorem waitsForEngine_of_issueAccept {i : Instr} {k : Checks} {body : Lane → State → LaneEnd}
    (hx : ∀ s, exec i s = issueAccept i k body s) : WaitsForEngine i k := by
  intro s c n fy hi ha hh hne
  have hsome : (s.acceptLanes c n fy k).isEmpty = false := List.isEmpty_eq_false_iff.2 hne
  unfold State.acceptLanes at hsome ⊢
  rw [hx, issueAccept, issueHeld]
  simp only [hi.moves, hi.here, ha.passes hi.here, ha.room, hh, hsome]
  rfl

/-- A lane that an engine accepts, and whose body goes on, has that effect. -/
theorem acceptLane_go {s t : State} {c n p : Nat} {k : Checks} {body : Lane → State → LaneEnd} {l : Lane}
    (hl : l = { c := c, p := p, n := n, pos := (s.ferry c n).pos, pc := (s.ferry c n).pc })
    (hw : l.inWindow (s.acceptCount c n) k) (hg : l.guard (s.acceptCount c n) k = true)
    (hb : body l (s.acceptCount c n) = .go t) : s.acceptLane c n p k body = t.afterAccept c n p k.term := by
  subst hl
  simp only [State.acceptLane, Lane.perform_go hw hg hb]

/-! ## RCQ and RCQT -/

/-- The predicate that C names, by its four low bits. -/
theorem toNat_extractLsb'_zero_four (x : BitVec 8) : (x.extractLsb' 0 4).toNat = x.toNat % 16 := by
  simp [BitVec.extractLsb'_toNat]

/-- A sample is dropped at its word: the query has failed, the lane is a helper, or the sample is no good (R318). -/
theorem rcqtBody_dropped {o : OwnOp} {l : Lane} {s : State}
    (h : ((l.radianceQuery s o).2 && !l.helper s && sampleOk (l.reg s o.b)) = false) :
    rcqtBody o l s =
      .go (l.defer s o.ctl.fl [(o.d.toNat, (l.radianceQuery s o).1)] [(o.c.toNat % 16, false)] 0 none none .b8) := by
  have h' : (!(l.radianceQuery s o).2 || l.helper s || !sampleOk (l.reg s o.b)) = true := by
    simpa [Bool.not_and] using congrArg (!·) h
  simp only [rcqtBody, h', if_true]

/-- A sample that is good goes to the graphics queue, and pd awaits the command (R318). -/
theorem rcqtBody_queued {o : OwnOp} {l : Lane} {s : State}
    (h : ((l.radianceQuery s o).2 && !l.helper s && sampleOk (l.reg s o.b)) = true) :
    rcqtBody o l s = .go (l.command
      (l.defer s o.ctl.fl [(o.d.toNat, (l.radianceQuery s o).1)] [(o.c.toNat % 16, true)] 0 none
        (some (sampleAwait (slotNo o) (s.group l.c (l.fibre s).gslot).nextCmd)) .b8) 6 false
      (.sample (slotNo o) [l.regN s o.a.toNat, l.regN s (o.a.toNat + 1), l.regN s (o.a.toNat + 2), l.reg s o.b])) := by
  have h' : (!(l.radianceQuery s o).2 || l.helper s || !sampleOk (l.reg s o.b)) = false := by
    simpa [Bool.not_and] using congrArg (!·) h
  simp only [rcqtBody, h', Bool.false_eq_true, if_false, Nat.add_zero]

/-! ## RCFLIP -/

/-- The word that RCFLIP_ACCEPT accepts. -/
def isRcflipWord : Instr → Bool
  | .rcflip _ => true
  | _ => false

/-- The slot of the word serves the lane's context (R319). -/
def OwnsSlot (l : Lane) (s : State) (o : OwnOp) : Prop :=
  flag (s.net (slotNo o)).reg 15 = true ∧ fld (s.net (slotNo o)).reg 0 12 = (l.ctx s).toNat

theorem ownsSlot_iff (l : Lane) (s : State) (o : OwnOp) :
    (flag (s.net (slotNo o)).reg 15 && fld (s.net (slotNo o)).reg 0 12 == (l.ctx s).toNat) = true ↔ OwnsSlot l s o := by
  simp [OwnsSlot]

theorem rcflipBody_foreign {o : OwnOp} {l : Lane} {s : State} (h : ¬ OwnsSlot l s o) :
    rcflipBody o l s = .go (s.raiseDue l.c l.p rangeTrap none) := by
  rw [← ownsSlot_iff, Bool.not_eq_true] at h
  simp only [rcflipBody, h, Bool.not_false, if_true]

/-- A publication that finds its slot and its queue free: the command enters the queue, and where the home die lives the weights are on
their way to every die (R319); a dead home die publishes nothing (R82). -/
theorem rcflipBody_published {o : OwnOp} {l : Lane} {s : State} (h : OwnsSlot l s o)
    (hpend : (s.net (slotNo o)).pend = none) (hfree : l.graphicsFree s = true) :
    rcflipBody o l s = .go (
      if (s.die (fld (s.net (slotNo o)).reg 12 2)).dead then s.enqueue l.c (l.fibre s).gslot 6 l.p (.flip (slotNo o)) s.gtb
      else (s.enqueue l.c (l.fibre s).gslot 6 l.p (.flip (slotNo o)) s.gtb).setNet (slotNo o) { s.net (slotNo o) with
        incoming := (List.range 4).map (fun d => (d, (List.range netWords).map (fun i => (i, (s.net (slotNo o)).publish i)))) }) := by
  rw [← ownsSlot_iff] at h
  have hdie : ∀ d, (s.enqueue l.c (l.fibre s).gslot 6 l.p (.flip (slotNo o)) s.gtb).die d = s.die d := fun _ => rfl
  simp only [rcflipBody, h, hpend, hfree, hdie, Bool.not_true, Option.isSome_none, Bool.or_self, Bool.false_eq_true, if_false]
  split <;> rfl

/-- RCFLIP_ACCEPT gives the next lane the effect of its body. -/
theorem rcflip_accepts {o : OwnOp} {want : Instr → Bool} {P : Lane → State → Prop} {f : Lane → State → State}
    (hwant : want = isRcflipWord) (h : ∀ l s, P l s → rcflipBody o l s = .go (f l s)) :
    EngineAccepts .rcflipAccept want (.rcflip o) (checksOf (.rcflip o) o.ctl []) P f := by
  subst hwant
  intro s c g n p hn l u hw hg hP
  have hx : exec (.rcflipAccept c g) s = .next (s.acceptLane c n p (checksOf (.rcflip o) o.ctl []) (rcflipBody o)) := by
    change execRcflipAccept c g s = _
    unfold execRcflipAccept
    change (match s.nextAccept c g isRcflipWord with
      | some (n, .rcflip o, p) => _
      | _ => _) = _
    rw [hn]
  rw [hx, acceptLane_go rfl hw hg (h _ _ hP)]

end Sys2Proof.Machine.RadianceWords

open Sys2Proof Sys2Proof.Machine Sys2Proof.Machine.RadianceWords

/-- Settles O39: each word by what its body gives a lane, the publication by the lane that its engine accepts. -/
theorem radianceWords : Obligations.RadianceWords := by
  unfold Obligations.RadianceWords
  refine ⟨fun o _ => ?rcq, fun o _ => ?rcqt, fun o _ => ⟨?waits, ?live, ?dead, ?foreign⟩⟩
  case rcq =>
    refine performs_of_issue (body := rcqBody o) (fun _ => rfl) (fun l s _ _ => .inl ?_)
    simp only [rcqBody, toNat_extractLsb'_zero_four]
  case rcqt =>
    refine performs_of_issue (body := rcqtBody o) (fun _ => rfl) (fun l s _ _ => .inl ?_)
    simp only [toNat_extractLsb'_zero_four]
    cases h : (l.radianceQuery s o).2 && !l.helper s && sampleOk (l.reg s o.b) with
    | false => simp only [rcqtBody_dropped h, Bool.false_eq_true, if_false]
    | true => simp only [rcqtBody_queued h, if_true]
  case waits => exact waitsForEngine_of_issueAccept (body := rcflipBody o) (fun _ => rfl)
  case live =>
    refine rcflip_accepts rfl fun l s ⟨hown, hpend, hfree, hdead⟩ => ?_
    simp only [rcflipBody_published hown hpend hfree, hdead, Bool.false_eq_true, if_false]
  case dead =>
    refine rcflip_accepts rfl fun l s ⟨hown, hpend, hfree, hdead⟩ => ?_
    simp only [rcflipBody_published hown hpend hfree, hdead, if_true]
  case foreign => exact rcflip_accepts rfl fun l s hown => rcflipBody_foreign hown
end

section
/-! PROOFS. The fabric (R75 to R80, R83, R340, R391): the recovery timer, packets that arrive, planes and their steering, dead peers and
their table, FAB_RTO and the counters. -/

namespace Sys2Proof.Machine.FabricSteps

/-! ## Bit fields -/

theorem flag_eq_getLsbD (w : Word) (i : Nat) : flag w i = w.getLsbD i := by
  rw [flag, fld, bitsAt, BitVec.getLsbD, Nat.testBit_eq_decide_div_mod_eq, Nat.shiftRight_eq_div_pow, Nat.pow_one]
  rfl

theorem fld_eq_extractLsb' (w : Word) (lo n : Nat) : fld w lo n = (w.extractLsb' lo n).toNat := by
  simp [fld, bitsAt, BitVec.extractLsb'_toNat]

theorem mul_add_lt_mul {A B a b : Nat} (ha : a < A) (hb : b < B) : A * b + a < A * B :=
  calc A * b + a < A * (b + 1) := by rw [Nat.mul_succ]; omega
    _ ≤ A * B := Nat.mul_le_mul_left A hb

/-- A word in three parts: the bits above a field, the field, and the bits below it. -/
theorem toNat_eq_parts (w : Word) (lo n : Nat) :
    w.toNat = 2 ^ (lo + n) * (w.toNat / 2 ^ (lo + n)) + (2 ^ lo * fld w lo n + w.toNat % 2 ^ lo) := by
  have hfld : fld w lo n = w.toNat / 2 ^ lo % 2 ^ n := by rw [fld, bitsAt, Nat.shiftRight_eq_div_pow]
  calc w.toNat = 2 ^ lo * (w.toNat / 2 ^ lo) + w.toNat % 2 ^ lo := (Nat.div_add_mod _ _).symm
    _ = 2 ^ lo * (2 ^ n * (w.toNat / 2 ^ lo / 2 ^ n) + w.toNat / 2 ^ lo % 2 ^ n) + w.toNat % 2 ^ lo := by
      rw [Nat.div_add_mod (w.toNat / 2 ^ lo)]
    _ = _ := by rw [hfld, Nat.div_div_eq_div_mul, ← Nat.pow_add, Nat.mul_add, ← Nat.mul_assoc, ← Nat.pow_add, Nat.add_assoc]

/-- Replacing a field leaves the other two parts. -/
theorem toNat_setFld (w : Word) (lo n v : Nat) (h : lo + n ≤ 64) :
    (setFld w lo n v).toNat = 2 ^ (lo + n) * (w.toNat / 2 ^ (lo + n)) + (2 ^ lo * (v % 2 ^ n) + w.toNat % 2 ^ lo) := by
  have hparts := toNat_eq_parts w lo n
  have hlow : 2 ^ lo * (v % 2 ^ n) + w.toNat % 2 ^ lo < 2 ^ (lo + n) := by
    rw [Nat.pow_add]; exact mul_add_lt_mul (Nat.mod_lt _ (Nat.two_pow_pos _)) (Nat.mod_lt _ (Nat.two_pow_pos _))
  have hsplit : 2 ^ (lo + n) * 2 ^ (64 - (lo + n)) = 2 ^ 64 := by rw [← Nat.pow_add, Nat.add_sub_cancel' h]
  have hhigh : w.toNat / 2 ^ (lo + n) < 2 ^ (64 - (lo + n)) := Nat.div_lt_of_lt_mul (hsplit ▸ w.isLt)
  have hlt := mul_add_lt_mul hlow hhigh
  rw [setFld, BitVec.toNat_ofNat, Nat.shiftLeft_eq, Nat.shiftLeft_eq, Nat.mul_comm (fld w lo n), Nat.mul_comm (v % 2 ^ n)]
  rw [hsplit] at hlt
  rw [← Nat.mod_eq_of_lt hlt]
  congr 1
  omega

/-- A bit after a field is replaced. -/
theorem getLsbD_setFld (w : Word) (lo n v i : Nat) (h : lo + n ≤ 64) :
    (setFld w lo n v).getLsbD i = if lo ≤ i ∧ i < lo + n then v.testBit (i - lo) else w.getLsbD i := by
  have hlow : w.toNat % 2 ^ lo < 2 ^ lo := Nat.mod_lt _ (Nat.two_pow_pos _)
  have hmid : 2 ^ lo * (v % 2 ^ n) + w.toNat % 2 ^ lo < 2 ^ (lo + n) := by
    rw [Nat.pow_add]; exact mul_add_lt_mul hlow (Nat.mod_lt _ (Nat.two_pow_pos _))
  rw [BitVec.getLsbD, BitVec.getLsbD, toNat_setFld w lo n v h, Nat.testBit_two_pow_mul_add _ hmid,
    Nat.testBit_two_pow_mul_add _ hlow, Nat.testBit_mod_two_pow, Nat.testBit_div_two_pow, Nat.testBit_mod_two_pow]
  rcases Nat.lt_or_ge i lo with hb | hb
  · simp [hb, show i < lo + n by omega, show ¬ lo ≤ i by omega]
  · rcases Nat.lt_or_ge i (lo + n) with ha | ha
    · simp [hb, ha, show i - lo < n by omega, show ¬ i < lo by omega]
    · simp [show ¬ i < lo + n by omega, ha]

/-- A field after the same field is replaced, and after one beside it is. -/
theorem extractLsb'_setFld_same (w : Word) (lo n v : Nat) (h : lo + n ≤ 64) :
    (setFld w lo n v).extractLsb' lo n = BitVec.ofNat n v := by
  ext i hi
  simp [← BitVec.getLsbD_eq_getElem, getLsbD_setFld _ _ _ _ _ h, hi, BitVec.getLsbD_ofNat]

theorem extractLsb'_setFld_disjoint (w : Word) {lo n j m : Nat} (v : Nat) (h : lo + n ≤ 64) (hd : j + m ≤ lo ∨ lo + n ≤ j) :
    (setFld w lo n v).extractLsb' j m = w.extractLsb' j m := by
  ext i hi
  simp [BitVec.getElem_extractLsb', getLsbD_setFld _ _ _ _ _ h, show ¬ (lo ≤ j + i ∧ j + i < lo + n) by omega]

/-- The low bits of a word. -/
theorem fld_zero_eq_setWidth (w : Word) (n : Nat) : fld w 0 n = (w.setWidth n).toNat := by
  rw [fld, bitsAt, Nat.shiftRight_zero, BitVec.toNat_setWidth]

/-! ## Steps with a condition -/

theorem actsWhen_of_ite {i : Instr} {P : State → Prop} {f : State → State} [DecidablePred P]
    (h : ∀ s, exec i s = if P s then .next (f s) else .next s) : ActsWhen i P f :=
  fun s => ⟨fun hp => by rw [h, if_pos hp], fun hp => by rw [h, if_neg hp]⟩

/-! ## The recovery timer (R77) -/

/-- A request on the plane has waited FAB_RTO since it was last sent. -/
def ResendDue (s : State) (p : Nat) : Prop :=
  ∃ w ∈ s.fabric.send, w.1 % 16 = p ∧ ∃ r ∈ w.2.sent, r.sent.toNat + s.fabric.rto.toNat ≤ s.gtb.toNat

theorem resendDue_iff (s : State) (p : Nat) : ResendDue s p ↔
    (s.fabric.send.any fun w => w.1 % 16 == p && w.2.sent.any fun r => decide (r.sent.toNat + s.fabric.rto.toNat ≤ s.gtb.toNat)) = true := by
  simp only [ResendDue, List.any_eq_true, Bool.and_eq_true, beq_iff_eq, decide_eq_true_eq]

theorem recover_of_not_due {s : State} {p : Nat} (h : AMap.getD s.fabric.timers p .idle = .idle) (hd : ¬ ResendDue s p) :
    s.recover p = s := by
  rw [resendDue_iff, Bool.not_eq_true] at hd
  simp only [State.recover, h, hd, Bool.false_and, Bool.false_eq_true, if_false]

theorem recover_of_due {s : State} {p : Nat} (hp : p < 16) (h : AMap.getD s.fabric.timers p .idle = .idle) (hd : ResendDue s p) :
    s.recover p = { s with fabric := { s.fabric with
      timers := AMap.put s.fabric.timers p (.stopped s.gtb), resends := wd (min (2 ^ 64 - 1) (s.fabric.resends.toNat + 1)) } } := by
  rw [resendDue_iff] at hd
  simp only [State.recover, h, hd, hp, decide_true, Bool.and_self, if_true]

theorem recover_stopped_early {s : State} {p : Nat} {since : Word} (h : AMap.getD s.fabric.timers p .idle = .stopped since)
    (hlt : s.gtb.toNat < since.toNat + s.fabric.rto.toNat) : s.recover p = s := by
  simp only [State.recover, h, Nat.not_le.2 hlt, if_false]

theorem recover_stopped_over {s : State} {p : Nat} {since : Word} (h : AMap.getD s.fabric.timers p .idle = .stopped since)
    (hle : since.toNat + s.fabric.rto.toNat ≤ s.gtb.toNat) :
    s.recover p = { s.resend p with fabric := { (s.resend p).fabric with timers := AMap.drop s.fabric.timers p } } := by
  simp only [State.recover, h, hle, if_true]
  rfl

/-- After a resend every request of the plane counts as sent now. -/
theorem sent_of_mem_resend {s : State} {p : Nat} {w : Nat × SendWindow} (hw : w ∈ (s.resend p).fabric.send) (hp : w.1 % 16 = p)
    {r : SentRequest} (hr : r ∈ w.2.sent) : r.sent = s.gtb := by
  obtain ⟨x, -, rfl⟩ := List.mem_map.1 hw
  by_cases hx : x.1 % 16 = p
  · simp only [hx, if_true, List.mem_map] at hr
    obtain ⟨y, -, rfl⟩ := hr
    rfl
  · exact absurd hp (by simpa only [hx, if_false] using hx)

/-! ## Requests that arrive (R78, R79) -/

/-- The window of a request's sender and plane: a new one where the sender's incarnation has changed. -/
def arrivalWindow (s : State) (k : FabricRequest) : RecvWindow :=
  let new : RecvWindow := { inc := k.inc, n := 0xFFFF, done := [], held := [], part := [] }
  match AMap.find s.fabric.recv (16 * k.src + k.plane) with
  | some x => if x.inc = k.inc then x else new
  | none => new

/-- The last tag that a window has answered; a new window stands before tag 0. -/
theorem arrivalWindow_n (s : State) (k : FabricRequest) : (arrivalWindow s k).n =
    ((AMap.find s.fabric.recv (16 * k.src + k.plane)).map (fun x => if x.inc = k.inc then x.n else 0xFFFF)).getD 0xFFFF := by
  unfold arrivalWindow
  cases AMap.find s.fabric.recv (16 * k.src + k.plane) with
  | none => rfl
  | some x =>
    by_cases h : x.inc = k.inc
    · simp only [h, if_true, Option.map_some, Option.getD_some]
    · simp only [h, if_false, Option.map_some, Option.getD_some]

/-- The state with a request's window in place. -/
def withWindow (s : State) (k : FabricRequest) : State :=
  { s with fabric := { s.fabric with recv := AMap.put s.fabric.recv (16 * k.src + k.plane) (arrivalWindow s k) } }

/-- How far a request's tag is ahead of its window. -/
def tagAhead (s : State) (k : FabricRequest) : Nat := (k.tag - (arrivalWindow s k).n).toNat

theorem request_off {s : State} {k : FabricRequest} (hoff : s.plat.pkgCfg.getLsbD 63 = false) :
    exec (.fabricRequestArrival k) s = .next s := by
  change execFabricRequestArrival k s = _
  simp only [execFabricRequestArrival, flag_eq_getLsbD, hoff, Bool.not_false, if_true]

theorem request_stale {s : State} {k : FabricRequest} (hon : s.plat.pkgCfg.getLsbD 63 = true)
    (h : s.senderOk k.src k.inc = false ∨ opOk k.op = false) : exec (.fabricRequestArrival k) s = .next s.addStale := by
  have hbad : (!s.senderOk k.src k.inc || !opOk k.op) = true := by
    rcases h with h | h
    · simp only [h, Bool.not_false, Bool.true_or]
    · simp only [h, Bool.not_false, Bool.or_true]
  change execFabricRequestArrival k s = _
  simp only [execFabricRequestArrival, flag_eq_getLsbD, hon, hbad, Bool.not_true, Bool.false_eq_true, if_false, if_true]

section
variable {s : State} {k : FabricRequest} (hon : s.plat.pkgCfg.getLsbD 63 = true) (hs : s.senderOk k.src k.inc = true)
  (ho : opOk k.op = true)
include hon hs ho

/-- What becomes of an accepted request, by the distance of its tag. -/
theorem request_accepted : exec (.fabricRequestArrival k) s =
    let u := withWindow s k
    let x := arrivalWindow s k
    let w := 16 * k.src + k.plane
    if tagAhead s k = 0 ∨ 2 ^ 16 - 511 ≤ tagAhead s k then .next u.addDup
    else if tagAhead s k ≤ 256 then
      if x.held.any (fun q => q.tag == k.tag) then .next (u.addDup.runWindow w 257)
      else .next (({ u with fabric := { u.fabric with recv := AMap.put u.fabric.recv w { x with held := x.held ++ [k] } } } : State).runWindow w 257)
    else .next u.addStale := by
  change execFabricRequestArrival k s = _
  simp only [execFabricRequestArrival, flag_eq_getLsbD, hon, hs, ho, Bool.not_true, Bool.or_self, Bool.false_eq_true, if_false]
  rfl

theorem request_duplicate (h : tagAhead s k = 0 ∨ 2 ^ 16 - 511 ≤ tagAhead s k) :
    exec (.fabricRequestArrival k) s = .next (withWindow s k).addDup := by
  rw [request_accepted hon hs ho]
  exact if_pos h

theorem request_beyond (h1 : 256 < tagAhead s k) (h2 : tagAhead s k < 2 ^ 16 - 511) :
    exec (.fabricRequestArrival k) s = .next (withWindow s k).addStale := by
  rw [request_accepted hon hs ho]
  exact (if_neg (by omega)).trans (if_neg (by omega))

theorem request_within (h1 : 0 < tagAhead s k) (h2 : tagAhead s k ≤ 256) : ∃ t, exec (.fabricRequestArrival k) s = .next t := by
  rw [request_accepted hon hs ho]
  simp only [show ¬ (tagAhead s k = 0 ∨ 2 ^ 16 - 511 ≤ tagAhead s k) by omega, h2, if_false, if_true]
  split
  · exact ⟨_, rfl⟩
  · exact ⟨_, rfl⟩

end

/-! ## Responses that arrive (R77, R79, R340) -/

theorem response_off {s : State} {k : FabricResponse} (hoff : s.plat.pkgCfg.getLsbD 63 = false) :
    exec (.fabricResponseArrival k) s = .next s := by
  change execFabricResponseArrival k s = _
  simp only [execFabricResponseArrival, flag_eq_getLsbD, hoff, Bool.not_false, if_true]

section
variable {s : State} {k : FabricResponse} (hon : s.plat.pkgCfg.getLsbD 63 = true)
include hon

theorem response_stale (hs : s.senderOk k.src k.inc = false) : exec (.fabricResponseArrival k) s = .next s.addStale := by
  change execFabricResponseArrival k s = _
  simp only [execFabricResponseArrival, flag_eq_getLsbD, hon, hs, Bool.not_true, Bool.not_false, Bool.false_eq_true, if_false, if_true]

theorem response_replay (hs : s.senderOk k.src k.inc = true) {d i : Nat} {x : Bool} (ha : k.ans = .replay d i x) :
    exec (.fabricResponseArrival k) s = .next (s.carriedReplay d i x) := by
  change execFabricResponseArrival k s = _
  simp only [execFabricResponseArrival, flag_eq_getLsbD, hon, hs, ha, Bool.not_true, Bool.false_eq_true, if_false]

theorem response_unmatched (hs : s.senderOk k.src k.inc = true) (ha : ∀ d i x, k.ans ≠ .replay d i x)
    (hf : (s.sendWindow k.src k.plane).sent.find? (fun r => r.tag == k.tag) = none) :
    exec (.fabricResponseArrival k) s = .next s := by
  change execFabricResponseArrival k s = _
  simp only [execFabricResponseArrival, flag_eq_getLsbD, hon, hs, hf, Bool.not_true, Bool.false_eq_true, if_false]

/-- An answer completes the request of its tag. -/
theorem response_matched (hs : s.senderOk k.src k.inc = true) (ha : ∀ d i x, k.ans ≠ .replay d i x) {r : SentRequest}
    (hf : (s.sendWindow k.src k.plane).sent.find? (fun r => r.tag == k.tag) = some r) :
    let w := s.sendWindow k.src k.plane
    exec (.fabricResponseArrival k) s = .next (({ s with fabric := { s.fabric with
      send := AMap.put s.fabric.send (16 * k.src + k.plane) { w with sent := w.sent.filter (fun x => x.tag != k.tag) } } }
      : State).answered k.src k.plane r k.ans) := by
  change execFabricResponseArrival k s = _
  simp only [execFabricResponseArrival, flag_eq_getLsbD, hon, hs, hf, Bool.not_true, Bool.false_eq_true, if_false]

end

/-! ## Dead peers and their table (R79, R80) -/

theorem peerLate_iff (s : State) (id : Nat) : s.peerLate id = true ↔ (s.peerEntry id).getLsbD 17 = false ∧
    ∃ w ∈ s.fabric.send, w.1 / 16 = id ∧ ∃ r ∈ w.2.sent, r.since.toNat + s.regs.peerTimeout ≤ s.gtb.toNat := by
  simp only [State.peerLate, flag_eq_getLsbD, Bool.and_eq_true, Bool.not_eq_true', List.any_eq_true, beq_iff_eq, decide_eq_true_eq]

theorem sendHost_masked (s : State) (n : Nat) (ws : List Word) : (s.sendHost n ws).plat.masked = s.plat.masked := by
  unfold State.sendHost
  split
  · rfl
  · rfl

/-- A message on a vector that is not masked is sent (R389). -/
theorem mem_messages_sendHost {s : State} {n : Nat} {ws : List Word} (h : (s.sendHost n ws).plat.masked.getLsbD n = false) :
    { vector := n, words := ws } ∈ (s.sendHost n ws).messages := by
  rw [sendHost_masked] at h
  simp only [State.sendHost, h, Bool.false_eq_true, if_false, List.mem_append, List.mem_singleton, or_true]

/-- A write with DEAD clear keeps the entry's defined bits, and ends what was on its way to a peer that it readmits (R79). -/
theorem writePeer_clear {s : State} {id : Nat} {v : Word} (hv : v.getLsbD 17 = false) (hid : id ≠ s.accid) :
    (s.writePeer id v).peerEntry id = (v.extractLsb' 0 18).setWidth 64 ∧ (s.writePeer id v).mem = s.mem ∧
      ((s.peerEntry id).getLsbD 17 = true → ∀ w ∈ (s.writePeer id v).fabric.send, w.1 / 16 ≠ id) := by
  simp only [State.writePeer, flag_eq_getLsbD, hv, hid, Bool.false_and, Bool.not_false, Bool.and_true, Bool.false_eq_true, if_false]
  refine ⟨?entry, trivial, fun hdead w hw => ?ended⟩
  case entry =>
    rw [State.peerEntry, AMap.getD_put_self, fld_eq_extractLsb', wd, BitVec.ofNat_toNat]
  case ended =>
    simp only [hdead, if_true, List.mem_filter, bne_iff_ne] at hw
    exact hw.2

/-! ## Steering (R76) -/

/-- A write of PLANE_STEER moves the plane: it names a new physical plane that is up, and the plane is drained. -/
def steers (s : State) (v : Word) (p : Nat) : Bool :=
  fld v (4 * p) 4 != fld s.fabric.steer (4 * p) 4 && s.drained p && !s.fabric.down.getLsbD (fld v (4 * p) 4)

/-- What the write makes of one plane. -/
def steerPlane (s : State) (v : Word) (t : State) (p : Nat) : State :=
  if steers s v p then { t with fabric := { t.fabric with steer := setFld t.fabric.steer (4 * p) 4 (fld v (4 * p) 4) } } else t

theorem writeSteer_eq (s : State) (v : Word) : s.writeSteer v = (List.range 16).foldl (steerPlane s v) s := rfl

theorem extractLsb'_steerPlane (s : State) (v : Word) (t : State) {p q : Nat} (hp : p < 16) (hq : q < 16) :
    (steerPlane s v t p).fabric.steer.extractLsb' (4 * q) 4 =
      if q = p ∧ steers s v q = true then v.extractLsb' (4 * q) 4 else t.fabric.steer.extractLsb' (4 * q) 4 := by
  by_cases hqp : q = p
  · subst hqp
    cases hm : steers s v q with
    | false => simp only [steerPlane, hm, Bool.false_eq_true, and_false, if_false]
    | true =>
      simp only [steerPlane, hm, and_self, if_true]
      rw [extractLsb'_setFld_same _ _ _ _ (by omega), fld_eq_extractLsb', BitVec.ofNat_toNat, BitVec.setWidth_eq]
  · simp only [hqp, false_and, if_false, steerPlane]
    split
    · exact extractLsb'_setFld_disjoint _ _ (by omega) (by omega)
    · rfl

/-- The field of each plane after the write's turns: that of the last turn that moves it, else as it was. -/
theorem extractLsb'_foldl_steerPlane (s : State) (v : Word) {q : Nat} (hq : q < 16) (ps : List Nat) (hps : ∀ p ∈ ps, p < 16)
    (t : State) : ((ps.foldl (steerPlane s v) t).fabric.steer).extractLsb' (4 * q) 4 =
      if q ∈ ps ∧ steers s v q = true then v.extractLsb' (4 * q) 4 else t.fabric.steer.extractLsb' (4 * q) 4 := by
  induction ps generalizing t with
  | nil => simp only [List.foldl_nil, List.not_mem_nil, false_and, if_false]
  | cons p ps ih =>
    have hp : p < 16 := hps p List.mem_cons_self
    rw [List.foldl_cons, ih (fun x hx => hps x (List.mem_cons_of_mem p hx)), extractLsb'_steerPlane s v t hp hq]
    by_cases hm : q ∈ ps ∧ steers s v q = true
    · rw [if_pos hm, if_pos ⟨List.mem_cons_of_mem p hm.1, hm.2⟩]
    · rw [if_neg hm]
      by_cases hqp : q = p ∧ steers s v q = true
      · rw [if_pos hqp, if_pos ⟨hqp.1 ▸ List.mem_cons_self, hqp.2⟩]
      · rw [if_neg hqp, if_neg (fun h => (List.mem_cons.1 h.1).elim (fun e => hqp ⟨e, h.2⟩) (fun e => hm ⟨e, h.2⟩))]

/-- The write changes nothing but the steering. -/
theorem foldl_steerPlane_frame (s : State) (v : Word) (ps : List Nat) (t : State) : ps.foldl (steerPlane s v) t =
    { t with fabric := { t.fabric with steer := (ps.foldl (steerPlane s v) t).fabric.steer } } := by
  induction ps generalizing t with
  | nil => rfl
  | cons p ps ih =>
    rw [List.foldl_cons, ih]
    unfold steerPlane
    split
    · rfl
    · rfl

/-- A plane goes where the write says if it is drained and its new physical plane is up, and else stays (R76). -/
theorem extractLsb'_writeSteer (s : State) (v : Word) {p : Nat} (hp : p < 16) :
    (s.writeSteer v).fabric.steer.extractLsb' (4 * p) 4 =
      if s.drained p = true ∧ s.fabric.down.getLsbD (v.extractLsb' (4 * p) 4).toNat = false then v.extractLsb' (4 * p) 4
      else s.fabric.steer.extractLsb' (4 * p) 4 := by
  rw [writeSteer_eq, extractLsb'_foldl_steerPlane s v hp _ (fun x hx => List.mem_range.1 hx)]
  by_cases hsame : v.extractLsb' (4 * p) 4 = s.fabric.steer.extractLsb' (4 * p) 4
  · rw [hsame, ite_self, ite_self]
  · have hne : ((v.extractLsb' (4 * p) 4).toNat != (s.fabric.steer.extractLsb' (4 * p) 4).toNat) = true :=
      bne_iff_ne.2 fun h => hsame (BitVec.eq_of_toNat_eq h)
    simp only [List.mem_range, hp, true_and, steers, fld_eq_extractLsb', hne, Bool.true_and, Bool.and_eq_true, Bool.not_eq_true']

/-! ## FAB_RTO (R78) -/

theorem writeRto_in_range {s : State} {v : Word} (h : 1000 ≤ (v.setWidth 32).toNat ∧ (v.setWidth 32).toNat ≤ 4000000) :
    s.writeRto v = { s with fabric := { s.fabric with rto := v.setWidth 32, rtoErr := s.fabric.rtoErr && !v.getLsbD 63 } } := by
  simp only [State.writeRto, fld_zero_eq_setWidth, flag_eq_getLsbD, h, and_self, if_true, BitVec.ofNat_toNat, BitVec.setWidth_eq]

theorem writeRto_out_of_range {s : State} {v : Word} (h : ¬ (1000 ≤ (v.setWidth 32).toNat ∧ (v.setWidth 32).toNat ≤ 4000000)) :
    s.writeRto v = { s with fabric := { s.fabric with rtoErr := true } } := by
  simp only [State.writeRto, fld_zero_eq_setWidth, h, if_false]

end Sys2Proof.Machine.FabricSteps

open Sys2Proof Sys2Proof.Machine Sys2Proof.Machine.FabricSteps

/-- Settles O52: clause by clause, each event by the lemma that says what it makes of the state. -/
theorem fabricSteps : Obligations.FabricSteps := by
  unfold Obligations.FabricSteps
  refine ⟨fun s p hp h => ?idle, fun s p since h => ?stopped, fun s k => ?request, fun va a b n data on sz u v => ?ops, fun s k => ?response,
    fun s id => ?late, fun s id inc h => ?told, fun n => ?down, fun n => ?up, fun s v => ?steer, fun s v => rfl, fun id v => ?dead,
    fun id v => ?readmit, fun s id v hv => ?table, fun s v => ?rto, fun s => ⟨rfl, rfl, rfl, rfl⟩⟩
  case idle =>
    exact ⟨fun hd => congrArg Host.Outcome.next (recover_of_not_due h hd), fun hd => congrArg Host.Outcome.next (recover_of_due hp h hd)⟩
  case stopped =>
    exact ⟨fun hlt => congrArg Host.Outcome.next (recover_stopped_early h hlt),
      fun hle => ⟨_, congrArg Host.Outcome.next (recover_stopped_over h hle), rfl, rfl, fun _ hw hp _ hr => sent_of_mem_resend hw hp hr⟩⟩
  case request =>
    rw [← arrivalWindow_n]
    exact ⟨request_off, request_stale, fun hon hs ho h => ⟨_, request_duplicate hon hs ho h, rfl, rfl⟩,
      fun hon hs ho h1 h2 => ⟨_, request_beyond hon hs ho h1 h2, rfl, rfl⟩, fun hon hs ho => request_within hon hs ho⟩
  case ops =>
    simp only [opOk, Bool.and_eq_true, Bool.or_eq_true, decide_eq_true_eq, beq_iff_eq, and_assoc, and_self, iff_self]
  case response =>
    exact ⟨response_off, response_stale, fun hon hs ha hf => response_unmatched hon hs ha hf,
      fun d i x ha hon hs => response_replay hon hs ha, fun r hon hs ha hf => response_matched hon hs ha hf⟩
  case late =>
    have hx : exec (.peerTimeoutDeclaration id) s =
      if s.peerLate id then .next (s.declareDead id (fld (s.peerEntry id) 0 16)) else .next s := rfl
    rw [hx, ← peerLate_iff, fld_eq_extractLsb']
    exact ⟨fun hd => if_neg hd, fun hd => if_pos hd⟩
  case told => exact mem_messages_sendHost h
  case down => exact actsWhen_of_ite fun _ => rfl
  case up => exact actsWhen_of_ite fun _ => rfl
  case steer => exact ⟨s.writeSteer v, rfl, foldl_steerPlane_frame s v _ s, fun p hp => extractLsb'_writeSteer s v hp⟩
  case dead =>
    refine actsWhen_of_ite fun s => ?_
    change execPeerDeclareDead id v s = _
    simp only [execPeerDeclareDead, flag_eq_getLsbD, Bool.and_eq_true, decide_eq_true_eq]
  case readmit =>
    refine actsWhen_of_ite fun s => ?_
    change execPeerReadmit id v s = _
    simp only [execPeerReadmit, flag_eq_getLsbD, Bool.and_eq_true, Bool.not_eq_true', decide_eq_true_eq]
  case table => exact ⟨fun hid => if_pos hid, fun hid => writePeer_clear hv hid⟩
  case rto =>
    by_cases h : 1000 ≤ (v.setWidth 32).toNat ∧ (v.setWidth 32).toNat ≤ 4000000
    · exact ⟨_, congrArg Host.Outcome.next (writeRto_in_range h), rfl, fun _ => rfl, fun hn => absurd h hn⟩
    · exact ⟨_, congrArg Host.Outcome.next (writeRto_out_of_range h), rfl, fun hy => absurd hy h, fun _ => rfl⟩
end

section
/-! PROOFS. Words that a ferry holds until their push is over (R91), and the fence (R104, R269, R270). -/

namespace Sys2Proof.Machine.HeldWords

/-- A field of a bit vector, as the model's bodies compute it. -/
theorem toNat_extractLsb'_eq {w : Nat} (x : BitVec w) (lo n : Nat) : (x.extractLsb' lo n).toNat = x.toNat / 2 ^ lo % 2 ^ n := by
  rw [BitVec.extractLsb'_toNat, Nat.shiftRight_eq_div_pow]

/-! ## The push, and its end -/

/-- A word that is issued as a release pushes first. -/
theorem pushesFirst_of_issueRelease {i : Instr} {k : Checks} {body : Lane → State → LaneEnd}
    (hx : ∀ s, exec i s = issueRelease i k body s) : PushesFirst i k := by
  intro s c n fy hi ha hh hne
  have hact : (s.activeLanes fy c n k).filter (fun p => !(fun (_ : State) (_ : Nat) => false) s p) = s.activeLanes fy c n k := by
    simp
  have hsome : (s.activeLanes fy c n k).isEmpty = false := List.isEmpty_eq_false_iff.2 hne
  rw [hx, issueRelease, issueHeld]
  simp only [hi.moves, hi.here, ha.passes hi.here, ha.room, hact, hsome, hh]
  rfl

/-- The ferry of a hold that is over is its lanes' ferry, and it issues the word. -/
theorem issues_unheld {s : State} {c n : Nat} {fy : Ferry} (hf : AMap.find (s.core c).ferries n = some fy)
    (hl : fy.lanes ≠ []) (hd : fy.lanes.Nodup) : Issues (s.unheld c n) c n { fy with hold := .none } where
  moves := rfl
  here := by
    have hfy : s.ferry c n = fy := AMap.getD_of_find _ hf
    change AMap.find ((s.updFerry c n (fun x => { x with hold := .none })).core c).ferries n = _
    simp only [State.updFerry, State.find_setFerry, if_true, hfy]
  some_ := hl
  once := hd

/-- A word that waits has, once it may go on, the effect of its body in every lane. -/
theorem releasePerforms_of_body {i : Instr} {k : Checks} {body : Lane → State → LaneEnd} {P : Lane → State → Prop}
    {f : Lane → State → State} (hkb : releaseKb i = some (k, body))
    (h : ∀ l s, l.inWindow s k → P l s → l.Ends body s (f l s)) : ReleasePerforms i k P f := by
  intro s c n fy tc hf hl hd hh hready u fy' ha hm
  have hx : exec (.releasePushComplete c n) s = .next (s.finishHeld c n k body) := by
    change execReleasePushComplete c n s = _
    simp only [execReleasePushComplete, hf, hh, hkb, hready, if_true]
  have hissue := issue_performs h (issues_unheld hf hl hd) ha hm
  rw [hx, State.finishHeld]
  change Host.Outcome.next (match issue k body u with
    | .next t => { t with cur := s.cur }
    | _ => s) = _
  rw [hissue]

end Sys2Proof.Machine.HeldWords

namespace Sys2Proof.Machine.Fences

open Sys2Proof.Machine.HeldWords

/-! ## The fence's fields -/

theorem fenceKind_eq (o : OwnOp) : fenceKind o = (o.mod.extractLsb' 8 2).toNat := by
  rw [toNat_extractLsb'_eq, fenceKind, bitsAt, Nat.shiftRight_eq_div_pow]

theorem mask_eq_zero_iff (o : OwnOp) : o.mod.toNat % 64 = 0 ↔ o.mod.extractLsb' 0 6 = 0 := by
  rw [← BitVec.toNat_inj, toNat_extractLsb'_eq, Nat.pow_zero, Nat.div_one]
  rfl

theorem ofNat_shiftLeft (w n k : Nat) : BitVec.ofNat w (n <<< k) = BitVec.ofNat w n <<< k :=
  BitVec.eq_of_toNat_eq (by simp [Nat.shiftLeft_eq])

/-- A status of three fields that do not meet. -/
theorem status_fields {n : Nat} (i : Nat) (hn : n < 2 ^ 15) :
    wd (1 + 2 * n + 2 ^ 16 * i) = 1#64 ||| (BitVec.ofNat 64 n <<< 1) ||| (BitVec.ofNat 64 i <<< 16) := by
  have hlow : 2 ^ 1 * n + 1 = 1 ||| n <<< 1 := by
    rw [Nat.two_pow_add_eq_or_of_lt (by decide), Nat.or_comm, Nat.shiftLeft_eq, Nat.mul_comm]
  have hall : 2 ^ 16 * i + (2 ^ 1 * n + 1) = (1 ||| n <<< 1) ||| i <<< 16 := by
    rw [Nat.two_pow_add_eq_or_of_lt (by omega), hlow, Nat.or_comm, Nat.shiftLeft_eq i, Nat.mul_comm i]
  have hwd : wd (1 + 2 * n + 2 ^ 16 * i) = BitVec.ofNat 64 ((1 ||| n <<< 1) ||| i <<< 16) := by
    rw [← hall, wd]
    congr 1
    omega
  rw [hwd, BitVec.ofNat_or, BitVec.ofNat_or, ofNat_shiftLeft, ofNat_shiftLeft]

/-- The status of the stores lost (R270). -/
theorem fenceStatus_eq (f : Fibre) : fenceStatus f = if f.lossCount = 0 then 0#64
    else 1#64 ||| (BitVec.ofNat 64 (min 32767 f.lossCount) <<< 1) ||| (BitVec.ofNat 64 (f.lossId.getD 0 % 1024) <<< 16) := by
  unfold fenceStatus
  split
  · rfl
  · exact status_fields _ (Nat.lt_succ_of_le (Nat.min_le_left _ _))

/-! ## Loads performed early -/

/-- A write of D leaves the fibre's early loads, its settle mark and its notices. -/
theorem writes_waits (l : Lane) (s : State) (t : Bool) (d : BitVec 8) (v : Word) (f : Fibre) :
    (l.writes s t d v f).early = f.early ∧ (l.writes s t d v f).settle = f.settle ∧ (l.writes s t d v f).notices = f.notices := by
  unfold Lane.writes
  split
  · exact ⟨rfl, rfl, rfl⟩
  · exact ⟨rfl, rfl, rfl⟩

/-- A change of a fibre depends on what it makes of that fibre alone. -/
theorem updFibre_congr {s : State} {c p : Nat} {f g : Fibre → Fibre} (h : f (s.fibre c p) = g (s.fibre c p)) :
    s.updFibre c p f = s.updFibre c p g := congrArg (s.setFibre c p) h

/-- A fibre that changes after its early loads are gone: both are one change. -/
theorem updFibre_noEarly (s : State) (c p : Nat) (g : Fibre → Fibre) :
    (s.noEarly c p).updFibre c p g = s.updFibre c p (fun f => g { f with early := [] }) := by
  unfold State.noEarly State.dropEarly
  split
  · have hnone : ∀ es : List EarlyLoad, es.filter (fun _ => !true) = [] := fun _ =>
      List.filter_eq_nil_iff.2 fun _ _ h => Bool.false_ne_true h
    simp only [State.updFibre_updFibre, hnone]
  · next h =>
    have hnil : (s.fibre c p).early = [] :=
      List.eq_nil_iff_forall_not_mem.2 fun e he => h (List.any_eq_true.2 ⟨e, he, rfl⟩)
    exact updFibre_congr (by rw [← hnil])

/-- What a fence makes of a lane's fibre, in one change. -/
theorem fenceBody_eq (o : OwnOp) (l : Lane) (s : State) : fenceBody o l s = .go (s.updFibre l.c l.p (fun f =>
    { l.writes s o.ctl.t o.d (fenceStatus (l.fibre s)) f with
      lossCount := 0, lossId := none, early := if fenceKind o = 2 ∧ o.mod.toNat % 64 = 0 then f.early else [],
      settle := if fenceKind o = 3 then 0 else f.settle, notices := if fenceKind o = 3 then [] else f.notices })) := by
  have hkeep := writes_waits l s o.ctl.t o.d (fenceStatus (l.fibre s))
  simp only [fenceBody, Lane.put_finds (Lane.Finds.refl l s)]
  split
  · simp only [State.updFibre_updFibre, hkeep]
  · simp only [updFibre_noEarly, State.updFibre_updFibre, hkeep]

end Sys2Proof.Machine.Fences

open Sys2Proof Sys2Proof.Machine Sys2Proof.Machine.HeldWords Sys2Proof.Machine.Fences

/-- Settles O26: an acquire fence settles its loads and waits, a release fence pushes first, and the end of either wait performs its body. -/
theorem fenceReportsLosses : Obligations.FenceReportsLosses := by
  unfold Obligations.FenceReportsLosses
  intro o _ k kind status
  have hkind : fenceKind o = kind := fenceKind_eq o
  refine ⟨fun hk s c n fy hi ha hne => ?acquire, fun hk => ?release, ?performed⟩
  case acquire =>
    have hwaits : ¬ ((s.ferryTrap c n k).isSome || (s.activeLanes fy c n k).isEmpty) = true := by
      simp [ha.passes hi.here, hne]
    change execFence o s = _
    simp only [execFence, hkind, hk, hi.moves, hi.here, if_true]
    exact if_neg hwaits
  case release =>
    refine pushesFirst_of_issueRelease (body := fenceBody o) fun s => ?_
    change execFence o s = _
    rw [execFence, if_neg (hkind ▸ hk)]
    rfl
  case performed =>
    refine releasePerforms_of_body (body := fenceBody o) rfl fun l s _ _ => .inl ?_
    rw [fenceBody_eq, fenceStatus_eq, hkind]
    simp only [mask_eq_zero_iff]
    rfl
end

section
/-! PROOFS. Commands of the copy and collective engines (R298 to R309): what a lane of each word does, and the queue that a command
enters (R101, R102). -/

namespace Sys2Proof.Machine.EngineWords

open Sys2Proof.Machine.HeldWords

/-! ## Fields of MOD -/

theorem toNat_mod_queue (o : OwnOp) : (o.mod.extractLsb' 7 2).toNat = copyQueue o := toNat_extractLsb'_eq _ _ _

theorem toNat_mod_path (o : OwnOp) : (o.mod.extractLsb' 9 3).toNat = o.mod.toNat / 512 % 8 := toNat_extractLsb'_eq _ _ _

theorem toNat_mod_size (o : OwnOp) : (o.mod.extractLsb' 12 3).toNat = o.mod.toNat / 4096 := by
  rw [toNat_extractLsb'_eq]
  exact Nat.mod_eq_of_lt (Nat.div_lt_of_lt_mul o.mod.isLt)

theorem toNat_mod_op (o : OwnOp) : (o.mod.extractLsb' 9 2).toNat = o.mod.toNat / 512 % 4 := toNat_extractLsb'_eq _ _ _

theorem mod_scratch_beq (o : OwnOp) : (o.mod.extractLsb' 9 3 == 1) = (o.mod.toNat / 512 % 8 == 1) := by
  rw [Bool.eq_iff_iff, beq_iff_eq, beq_iff_eq, ← BitVec.toNat_inj, toNat_mod_path]
  rfl

/-! ## Words that enter a command, or refuse it -/

section
variable {i : Instr} {k : Checks} {body : Lane → State → LaneEnd} (hx : ∀ s, exec i s = issue k body s)
include hx

/-- A helper does nothing; another lane whose operands are in range has the word's effect (R143). -/
theorem performs_command {ok : Lane → State → Prop} {f : Lane → State → State}
    (hhelper : ∀ l s, l.helper s = true → body l s = .go s)
    (hok : ∀ l s, l.helper s = false → ok l s → body l s = .go (f l s)) :
    Performs i k (fun l s => l.helper s = true ∨ ok l s) (fun l s => if l.helper s then s else f l s) := by
  refine performs_of_issue hx fun l s _ hP => .inl ?_
  cases hh : l.helper s with
  | true => simpa only [if_true] using hhelper l s hh
  | false =>
    have hin : ok l s := hP.resolve_left (by simp [hh])
    simpa only [Bool.false_eq_true, if_false] using hok l s hh hin

/-- A lane that is no helper and whose operands are out of range traps PROTECTION (R305). -/
theorem performs_refusal {bad : Lane → State → Prop}
    (hbad : ∀ l s, l.helper s = false → bad l s → body l s = .trap s rangeTrap) :
    Performs i k (fun l s => l.helper s = false ∧ bad l s)
      (fun l s => s.takeTrap l.c l.p l.pc { code := .protection, info0 := 0, info1 := 0 }) :=
  performs_of_issue hx fun l s _ ⟨hh, hb⟩ => .inr (.inr (.inr ⟨s, rangeTrap, hbad l s hh hb, rfl⟩))

end

/-! ## What a lane of each word does -/

section
variable {o : OwnOp} {l : Lane} {s : State}

/-- The descriptor of TCOPY is in range: a box on paths 0 to 3, else a slot fill (R298, R300). -/
def tcopyInRange (o : OwnOp) (l : Lane) (s : State) : Bool :=
  if (o.mod.extractLsb' 9 3).toNat < 4 then boxOk (l.desc s o.a) else slotDescOk (l.desc s o.a)

theorem tcopyBody_refused (h : l.helper s = false) (hbad : tcopyInRange o l s = false) : tcopyBody o l s = .trap s rangeTrap := by
  rw [tcopyInRange, toNat_mod_path] at hbad
  simp only [tcopyBody, h, hbad, Bool.not_false, Bool.false_eq_true, if_false, if_true]

/-- A copy whose descriptor is in range, and whose slot, where it fills one, is the group's, enters its queue and the open batch. -/
theorem tcopyBody_entered (h : l.helper s = false) (hin : tcopyInRange o l s = true)
    (hslot : 4 ≤ (o.mod.extractLsb' 9 3).toNat → (s.slotOf l.c (l.fibre s).gslot (fld ((l.desc s o.a).getD 1 0) 0 6)).isSome) :
    tcopyBody o l s = .go (l.command s (o.mod.extractLsb' 7 2).toNat true
      (.copy (o.mod.extractLsb' 12 3).toNat (o.mod.extractLsb' 9 3).toNat (l.desc s o.a) (arriveOf o))) := by
  rw [tcopyInRange, toNat_mod_path] at hin
  rw [toNat_mod_path] at hslot
  have hfree : (decide (4 ≤ o.mod.toNat / 512 % 8) &&
      (s.slotOf l.c (l.fibre s).gslot (fld ((l.desc s o.a).getD 1 0) 0 6)).isNone) = false := by
    rw [Bool.and_eq_false_iff, decide_eq_false_iff_not, ← Option.not_isSome, Bool.not_eq_false']
    exact Decidable.not_or_of_imp hslot
  simp only [tcopyBody, h, hin, hfree, toNat_mod_queue, toNat_mod_size, toNat_mod_path, Bool.not_true, Bool.false_eq_true, if_false]

theorem tcopypBody_refused (h : l.helper s = false) (hbad : boxOk (l.desc s o.a) = false) : tcopypBody o l s = .trap s rangeTrap := by
  simp only [tcopypBody, h, hbad, Bool.not_false, Bool.false_eq_true, if_false, if_true]

theorem tcopypBody_entered (h : l.helper s = false) (hin : boxOk (l.desc s o.a) = true) :
    tcopypBody o l s = .go (l.command s (o.mod.extractLsb' 7 2).toNat true
      (.copyPeer (o.mod.extractLsb' 12 3).toNat (o.mod.extractLsb' 9 3).toNat (l.desc s o.a) (l.reg s o.b) (arriveOf o))) := by
  simp only [tcopypBody, h, hin, toNat_mod_queue, toNat_mod_size, toNat_mod_path, Bool.not_true, Bool.false_eq_true, if_false]

theorem tfillBody_refused (h : l.helper s = false) (hbad : ¬ (l.reg s o.b).toNat % 2 ^ (o.mod.extractLsb' 12 3).toNat = 0) :
    tfillBody o l s = .trap s rangeTrap := by
  rw [toNat_mod_size] at hbad
  simp only [tfillBody, eszBytes, h, hbad, ne_eq, not_false_eq_true, Bool.false_eq_true, if_false, if_true]

theorem tfillBody_entered (h : l.helper s = false) (hin : (l.reg s o.b).toNat % 2 ^ (o.mod.extractLsb' 12 3).toNat = 0) :
    tfillBody o l s = .go (l.command s (o.mod.extractLsb' 7 2).toNat true
      (.fill (o.mod.extractLsb' 12 3).toNat (o.mod.extractLsb' 9 3 == 1) (l.reg s o.d) (l.reg s o.a) (l.reg s o.b) (arriveOf o))) := by
  rw [toNat_mod_size] at hin
  simp only [tfillBody, eszBytes, h, hin, toNat_mod_queue, toNat_mod_size, mod_scratch_beq, ne_eq, not_true_eq_false, Bool.false_eq_true, if_false]

theorem haloBody_refused (h : l.helper s = false) (hbad : boxOk (l.desc s o.a) = false) : haloBody o l s = .trap s rangeTrap := by
  simp only [haloBody, h, hbad, Bool.not_false, Bool.false_eq_true, if_false, if_true]

theorem haloBody_entered (h : l.helper s = false) (hin : boxOk (l.desc s o.a) = true) :
    haloBody o l s = .go (l.command s 4 false
      (.halo (o.mod.extractLsb' 12 3).toNat (o.mod.getLsbD 11) (l.desc s o.a) (l.reg s o.b) (l.reg s o.c))) := by
  simp only [haloBody, h, hin, toNat_mod_size, Bool.not_true, Bool.false_eq_true, if_false]

/-- The count of ARED is in range (R307). -/
def aredCounts (o : OwnOp) (l : Lane) (s : State) : Prop := 0 < (l.reg s o.c).toNat ∧ (l.reg s o.c).toNat < 2 ^ 32

theorem not_aredCounts_iff : ¬ aredCounts o l s ↔ (l.reg s o.c).toNat = 0 ∨ 2 ^ 32 ≤ (l.reg s o.c).toNat := by
  unfold aredCounts
  omega

theorem aredBody_refused (h : l.helper s = false) (hbad : ¬ aredCounts o l s) : aredBody o l s = .trap s rangeTrap := by
  rw [not_aredCounts_iff] at hbad
  simp only [aredBody, h, hbad, Bool.false_eq_true, if_false, if_true]

/-- A reduction whose count and ranges are in order is numbered and enters the collective queue (R307). -/
theorem aredBody_entered (h : l.helper s = false) (hin : aredCounts o l s)
    (ha : s.collTrap (l.ctx s) (l.reg s o.a) (aredSize (OwnOp.tyOf o 11)) (aredSize (OwnOp.tyOf o 11) * (l.reg s o.c).toNat) = none)
    (hb : s.collTrap (l.ctx s) (l.reg s o.b) (aredSize (OwnOp.tyOf o 11)) (aredSize (OwnOp.tyOf o 11) * (l.reg s o.c).toNat) = none)
    (hp : partOverlap (l.reg s o.a).toNat (l.reg s o.b).toNat (aredSize (OwnOp.tyOf o 11) * (l.reg s o.c).toNat) = false) :
    aredBody o l s = .go (l.command (s.countCollective (s.group l.c (l.fibre s).gslot).grid) 4 false
      (.ared (OwnOp.tyOf o 11) (o.mod.extractLsb' 9 2).toNat (o.mod.getLsbD 8) (l.reg s o.a) (l.reg s o.b) (l.reg s o.c))) := by
  have hcount := mt not_aredCounts_iff.2 (not_not_intro hin)
  simp only [aredBody, h, hcount, ha, hb, hp, toNat_mod_op, Bool.false_eq_true, if_false]

/-- The count and the root of BCAST are in range (R307). -/
def bcastCounts (o : OwnOp) (l : Lane) (s : State) : Prop :=
  0 < (l.reg s o.b).toNat ∧ (l.reg s o.b).toNat ≤ 2 ^ 40 ∧ (l.reg s o.c).toNat < (l.members s).length

theorem not_bcastCounts_iff : ¬ bcastCounts o l s ↔
    (l.reg s o.b).toNat = 0 ∨ 2 ^ 40 < (l.reg s o.b).toNat ∨ (l.members s).length ≤ (l.reg s o.c).toNat := by
  unfold bcastCounts
  omega

theorem bcastBody_refused (h : l.helper s = false) (hbad : ¬ bcastCounts o l s) : bcastBody o l s = .trap s rangeTrap := by
  rw [not_bcastCounts_iff] at hbad
  simp only [bcastBody, h, hbad, Bool.false_eq_true, if_false, if_true]

theorem bcastBody_entered (h : l.helper s = false) (hin : bcastCounts o l s)
    (ha : s.collTrap (l.ctx s) (l.reg s o.a) 1 (l.reg s o.b).toNat = none) :
    bcastBody o l s = .go (l.command (s.countCollective (s.group l.c (l.fibre s).gslot).grid) 4 false
      (.bcast (l.reg s o.a) (l.reg s o.b) (l.reg s o.c))) := by
  have hcount := mt not_bcastCounts_iff.2 (not_not_intro hin)
  simp only [bcastBody, h, hcount, ha, Bool.false_eq_true, if_false]

end

/-! ## The queue -/

theorem group_updGroup_self (s : State) (c g : Nat) (f : Group → Group) : (s.updGroup c g f).group c g = f (s.group c g) := by
  simp only [State.updGroup, State.setGroup, State.group, State.core_updCore_self, AMap.getD_put_self]

theorem queues_enqueue (s : State) (c g q p : Nat) (body : CommandBody) (tc : Word) :
    ((s.enqueue c g q p body tc).group c g).queues = (s.group c g).queues.modify q (fun l => l ++
      [Command.fresh (s.group c g).nextCmd p body tc (s.fibre c p).biLines]) := by
  rw [State.enqueue, group_updGroup_self]

end Sys2Proof.Machine.EngineWords

open Sys2Proof Sys2Proof.Machine Sys2Proof.Machine.EngineWords

/-- Settles O37: each word by what its body gives a lane, and the queue that the command enters. -/
theorem engineCommands : Obligations.EngineCommands := by
  unfold Obligations.EngineCommands
  refine ⟨fun o => ⟨fun _ => ?tcopy, fun _ => ?tcopyBad⟩, fun o => ⟨fun _ => ?tcopyp, fun _ => ?tcopypBad⟩,
    fun o => ⟨fun _ => ?tfill, fun _ => ?tfillBad⟩, fun o => ⟨fun _ => ?halo, fun _ => ?haloBad⟩,
    fun o => ⟨fun _ => ?ared, fun _ => ?aredBad⟩, fun o => ⟨fun _ => ?bcast, fun _ => ?bcastBad⟩,
    fun s c g q p body tc hq => ⟨?behind, fun j hj => ?others, rfl⟩⟩
  case tcopy =>
    refine performs_command (body := tcopyBody o) (fun _ => rfl) (fun l s h => if_pos h) fun l s h hok => ?_
    by_cases hpath : (o.mod.extractLsb' 9 3).toNat < 4
    · rw [if_pos hpath] at hok
      exact tcopyBody_entered h (by rw [tcopyInRange, if_pos hpath, hok]) (fun h4 => absurd hpath (Nat.not_lt.2 h4))
    · rw [if_neg hpath] at hok
      exact tcopyBody_entered h (by rw [tcopyInRange, if_neg hpath, hok.1]) (fun _ => hok.2)
  case tcopyBad => exact performs_refusal (body := tcopyBody o) (fun _ => rfl) fun l s h hbad => tcopyBody_refused h hbad
  case tcopyp =>
    exact performs_command (body := tcopypBody o) (fun _ => rfl) (fun l s h => if_pos h) fun l s h hin => tcopypBody_entered h hin
  case tcopypBad => exact performs_refusal (body := tcopypBody o) (fun _ => rfl) fun l s h hbad => tcopypBody_refused h hbad
  case tfill =>
    exact performs_command (body := tfillBody o) (fun _ => rfl) (fun l s h => if_pos h) fun l s h hin => tfillBody_entered h hin
  case tfillBad => exact performs_refusal (body := tfillBody o) (fun _ => rfl) fun l s h hbad => tfillBody_refused h hbad
  case halo =>
    exact performs_command (body := haloBody o) (fun _ => rfl) (fun l s h => if_pos h) fun l s h hin => haloBody_entered h hin
  case haloBad => exact performs_refusal (body := haloBody o) (fun _ => rfl) fun l s h hbad => haloBody_refused h hbad
  case ared =>
    exact performs_command (body := aredBody o) (fun _ => rfl) (fun l s h => if_pos h)
      fun l s h ⟨hin, ha, hb, hp⟩ => aredBody_entered h hin ha hb hp
  case aredBad => exact performs_refusal (body := aredBody o) (fun _ => rfl) fun l s h hbad => aredBody_refused h hbad
  case bcast =>
    exact performs_command (body := bcastBody o) (fun _ => rfl) (fun l s h => if_pos h)
      fun l s h ⟨hin, ha⟩ => bcastBody_entered h hin ha
  case bcastBad => exact performs_refusal (body := bcastBody o) (fun _ => rfl) fun l s h hbad => bcastBody_refused h hbad
  case behind => simp [queues_enqueue, List.getD_eq_getElem?_getD, hq]
  case others => simp [queues_enqueue, List.getD_eq_getElem?_getD, Ne.symm hj]
end

section
/-! PROOFS. A push of dirty words leaves the grids of the package as they are (R67, R71, R168). -/

namespace Sys2Proof.Machine.PushFrame

/-- What each step of a fold keeps, the fold keeps. -/
theorem foldl_keeps {σ α β : Type} (g : σ → β) {f : σ → α → σ} (h : ∀ s a, g (f s a) = g s) (xs : List α) (s : σ) :
    g (xs.foldl f s) = g s := by
  induction xs generalizing s with
  | nil => rfl
  | cons x xs ih => rw [List.foldl_cons, ih, h]

/-! ## Words, lines and directories -/

section
variable (s : State)

@[simp] theorem setMemWord_grids (wn : Nat) (v : BitVec 32) : (s.setMemWord wn v).grids = s.grids := rfl
@[simp] theorem raiseTc_grids (d wn : Nat) (t : Word) : (s.raiseTc d wn t).grids = s.grids := rfl
@[simp] theorem setL2Line_grids (d line : Nat) (x : L2Line) : (s.setL2Line d line x).grids = s.grids := rfl
@[simp] theorem setL2Word_grids (d wn : Nat) (dom : Domain) (x : L2Word) : (s.setL2Word d wn dom x).grids = s.grids := rfl
@[simp] theorem setDirWord_grids (wn : Nat) (x : DirWord) : (s.setDirWord wn x).grids = s.grids := rfl
@[simp] theorem setGrant_grids (line : Nat) (ctx : BitVec 12) : (s.setGrant line ctx).grids = s.grids := rfl
@[simp] theorem setL1Line_grids (c line : Nat) (x : L1Line) : (s.setL1Line c line x).grids = s.grids := rfl

@[simp] theorem dropL2Word_grids (d wn : Nat) : (s.dropL2Word d wn).grids = s.grids := by
  unfold State.dropL2Word
  split
  · rfl
  · rfl

@[simp] theorem dieOwes_grids (d wn : Nat) (rs : List StoreRec) : (s.dieOwes d wn rs).grids = s.grids := by
  unfold State.dieOwes
  split
  · rfl
  · rfl

@[simp] theorem dieOver_grids (d wn : Nat) : (s.dieOver d wn).grids = s.grids := by
  unfold State.dieOver
  split
  · rfl
  · rfl

@[simp] theorem noteSent_grids (c : Nat) (dom : Domain) (wn : Nat) : (s.noteSent c dom wn).grids = s.grids := by
  unfold State.noteSent
  split
  · rfl
  · rfl

@[simp] theorem passStores_grids (c : Nat) (dom : Domain) (wn : Nat) : (s.passStores c dom wn).grids = s.grids := by
  unfold State.passStores
  split
  · rfl
  · dsimp only
    split
    · rw [dieOwes_grids, State.updCore_grids]
    · rfl

/-! ## Copies beyond the die and the package -/

@[simp] theorem backInvalidate_grids (line : Nat) : (s.backInvalidate line).grids = s.grids := by
  unfold State.backInvalidate
  dsimp only
  split
  · rfl
  · rfl

@[simp] theorem hostInvalidate_grids (line : Nat) : (s.hostInvalidate line).grids = s.grids := by
  unfold State.hostInvalidate
  split
  · rfl
  · rfl

@[simp] theorem outside_grids (dom : Domain) (line : Nat) : (s.outside dom line).grids = s.grids := by
  cases dom with
  | pod => exact backInvalidate_grids s line
  | host => exact hostInvalidate_grids s line
  | core | die | package => rfl

@[simp] theorem homeInvalidate_grids (keep : Option Nat) (wn : Nat) : (s.homeInvalidate keep wn).1.grids = s.grids := by
  unfold State.homeInvalidate
  simp only [raiseTc_grids, setDirWord_grids]
  refine foldl_keeps (fun r : State × Word => r.1.grids) (fun r d => ?_) _ _
  simp only [dieOver_grids, dropL2Word_grids]
  split
  · split
    · rfl
    · rfl
  · rfl

@[simp] theorem homeWrite_grids (dom : Domain) (wn : Nat) (v : BitVec 32) (mask : BitVec 8) (core : Option Nat) :
    (s.homeWrite dom wn v mask core).1.grids = s.grids := by
  simp only [State.homeWrite, raiseTc_grids, outside_grids, setMemWord_grids, homeInvalidate_grids]

@[simp] theorem obtainM_grids (d : Nat) (dom : Domain) (ctx : BitVec 12) (wn : Nat) :
    (s.obtainM d dom ctx wn).1.grids = s.grids := by
  simp only [State.obtainM, raiseTc_grids, setL2Word_grids, setGrant_grids, setDirWord_grids, homeInvalidate_grids]

@[simp] theorem homePush_grids (d wn : Nat) : (s.homePush d wn).1.grids = s.grids := by
  unfold State.homePush
  split
  · rfl
  · split
    · simp only [raiseTc_grids, outside_grids, setDirWord_grids, setL2Word_grids, setMemWord_grids, dieOver_grids]
    · rfl

/-! ## From the L1 to the die and to the home -/

@[simp] theorem recallOwned_grids (d line : Nat) (by_ : Option Nat) : (s.recallOwned d line by_).grids = s.grids := by
  unfold State.recallOwned
  split
  · rfl
  · dsimp only
    split
    · rfl
    · rw [setL2Line_grids, foldl_keeps State.grids fun t w => by rw [noteSent_grids, passStores_grids]]
      split
      · rw [State.updCore_grids]
        exact foldl_keeps State.grids (fun t w => setL2Word_grids t _ _ _ _) _ _
      · exact foldl_keeps State.grids (fun t w => setL2Word_grids t _ _ _ _) _ _

@[simp] theorem recallOther_grids (d line c : Nat) : (s.recallOther d line c).grids = s.grids := by
  unfold State.recallOther
  split
  · exact recallOwned_grids s d line _
  · rfl

@[simp] theorem l2Arrive_grids (c : Nat) (dom : Domain) (ctx : BitVec 12) (wn : Nat) (v : BitVec 32) (mask : BitVec 8) :
    (s.l2Arrive c dom ctx wn v mask).1.grids = s.grids := by
  unfold State.l2Arrive
  simp only [raiseTc_grids]
  split
  · split
    · simp only [homeWrite_grids, setL2Line_grids, recallOther_grids]
    · split
      · split
        · simp only [setDirWord_grids, setL2Word_grids, setL2Line_grids, recallOther_grids]
        · simp only [setL2Word_grids, obtainM_grids, setL2Line_grids, recallOther_grids]
      · simp only [setL2Word_grids, obtainM_grids, setL2Line_grids, recallOther_grids]
  · simp only [setL2Word_grids, setL2Line_grids, recallOther_grids]

@[simp] theorem l1PushWord_grids (c wn : Nat) : (s.l1PushWord c wn).1.grids = s.grids := by
  unfold State.l1PushWord
  split
  · rfl
  · split
    · rfl
    · split
      · rfl
      · simp only [noteSent_grids, passStores_grids, setL1Line_grids, l2Arrive_grids]

@[simp] theorem pushWord_grids (c wn : Nat) : (s.pushWord c wn).1.grids = s.grids := by
  simp only [State.pushWord, homePush_grids, l1PushWord_grids]

/-- The write-backs at a grid's end leave the grids as they are (R168). -/
@[simp] theorem pushAll_grids (cs : List Nat) : (s.pushAll cs).1.grids = s.grids := by
  refine foldl_keeps (fun r : State × Word => r.1.grids) (fun r x => ?_) _ _
  dsimp only
  split
  · exact l1PushWord_grids r.1 _ _
  · exact pushWord_grids r.1 _ _

end

/-! ## Completion times -/

theorem le_later_left (a b : Word) : a.toNat ≤ (later a b).toNat := by
  unfold later
  split
  · omega
  · omega

/-- A fold that takes the later of two times ends no earlier than it begins. -/
theorem le_foldl_later {σ α : Type} (tc : σ → Word) {f : σ → α → σ} (h : ∀ s a, ∃ t, tc (f s a) = later (tc s) t) (xs : List α)
    (s : σ) : (tc s).toNat ≤ (tc (xs.foldl f s)).toNat := by
  induction xs generalizing s with
  | nil => exact Nat.le_refl _
  | cons x xs ih =>
    obtain ⟨t, ht⟩ := h s x
    have hstep : (tc s).toNat ≤ (tc (f s x)).toNat := ht ▸ le_later_left (tc s) t
    exact Nat.le_trans hstep (ih (f s x))

/-- The write-backs at a grid's end complete no earlier than now. -/
theorem gtb_le_pushAll (s : State) (cs : List Nat) : s.gtb.toNat ≤ (s.pushAll cs).2.toNat := by
  refine Nat.le_trans ?_ (le_foldl_later (fun r : State × Word => r.2) (fun r x => ⟨_, rfl⟩) _ _)
  exact le_foldl_later (fun t : Word => t) (fun t c => ⟨_, rfl⟩) cs s.gtb

end Sys2Proof.Machine.PushFrame
end

section
/-! PROOFS. The dispatcher (R161 to R168), pre-emption (R169, R170), resume commands (R347) and engine queues (R101, R102). -/

namespace Sys2Proof.Machine.DispatchSteps

open Sys2Proof.Machine.FabricSteps Sys2Proof.Machine.PushFrame

/-! ## The lottery (R161, R162) -/

/-- The queues below `n` that are open to the draw, and the tickets that they have together. -/
def openQueues (s : State) (n : Nat) : List Nat := (List.range n).filter (fun q => s.drawable q)
def openTickets (s : State) (n : Nat) : Nat := ((openQueues s n).map (fun q => fld (s.tickets q) 0 16)).sum

theorem draw_snd (s : State) : s.draw.2 = if openTickets s 256 = 0 then (openQueues s 256).head?
    else drawFrom s (openQueues s 256) (s.draw.1.toNat % openTickets s 256) := by
  rw [openTickets, List.sum_eq_foldl]
  rfl

/-- The queue drawn for d has before it queues whose tickets d reaches, and its own tickets reach past d. -/
theorem drawFrom_eq_some {s : State} {l : List Nat} {d q : Nat} (h : drawFrom s l d = some q) :
    ∃ before after, l = before ++ q :: after ∧ (before.map (fun i => fld (s.tickets i) 0 16)).sum ≤ d ∧
      d < (before.map (fun i => fld (s.tickets i) 0 16)).sum + fld (s.tickets q) 0 16 := by
  induction l generalizing d with
  | nil => cases h
  | cons x l ih =>
    rw [drawFrom] at h
    split at h
    · next hlt =>
      obtain rfl : x = q := Option.some.inj h
      exact ⟨[], l, rfl, Nat.zero_le _, by simpa using hlt⟩
    · next hge =>
      obtain ⟨before, after, rfl, hle, hlt⟩ := ih h
      refine ⟨x :: before, after, rfl, ?_, ?_⟩
      · rw [List.map_cons, List.sum_cons]; omega
      · rw [List.map_cons, List.sum_cons]; omega

/-- An element of a filtered range, and what stands before it. -/
theorem filter_range_split {p : Nat → Bool} {n q : Nat} {before after : List Nat}
    (h : (List.range n).filter p = before ++ q :: after) : q < n ∧ p q = true ∧ before = (List.range q).filter p := by
  obtain ⟨l1, l2, hl, rfl, h2⟩ := List.filter_eq_append_iff.1 h
  obtain ⟨l3, l4, rfl, hskip, hq, -⟩ := List.filter_eq_cons_iff.1 h2
  rw [← List.append_assoc, List.range_eq_range'] at hl
  obtain ⟨m, hm, hfront, hback⟩ := List.range'_eq_append_iff.1 hl
  obtain ⟨hmq, hlen, -⟩ := List.range'_eq_cons_iff.1 hback.symm
  have hnone : l3.filter p = [] := List.filter_eq_nil_iff.2 hskip
  refine ⟨by omega, hq, ?_⟩
  rw [← hmq, Nat.zero_add, Nat.mul_one, List.range_eq_range', ← hfront, List.filter_append, hnone, List.append_nil]

/-- The tickets up to a queue that is open, and past it. -/
theorem openTickets_succ {s : State} {q : Nat} (h : s.drawable q = true) :
    openTickets s (q + 1) = openTickets s q + fld (s.tickets q) 0 16 := by
  simp [openTickets, openQueues, List.range_succ, h]

/-- Without tickets the lowest queue that is open is drawn. -/
theorem draw_without_tickets {s : State} {q : Nat} (h : s.draw.2 = some q) (ht : openTickets s 256 = 0) :
    q < 256 ∧ s.drawable q = true ∧ ∀ i, i < 256 → s.drawable i = true → q ≤ i := by
  rw [draw_snd, if_pos ht, List.head?_eq_some_iff] at h
  obtain ⟨after, hl⟩ := h
  obtain ⟨hlt, hq, hnone⟩ := filter_range_split (before := []) hl
  refine ⟨hlt, hq, fun i _ hi => Nat.le_of_not_lt fun hiq => ?_⟩
  have hmem : i ∈ (List.range q).filter (fun q => s.drawable q) := List.mem_filter.2 ⟨List.mem_range.2 hiq, hi⟩
  rw [← hnone] at hmem
  cases hmem

/-- With tickets the queue drawn is the first whose tickets reach past the drawn number. -/
theorem draw_with_tickets {s : State} {q : Nat} (h : s.draw.2 = some q) (ht : openTickets s 256 ≠ 0) :
    q < 256 ∧ s.drawable q = true ∧ openTickets s q ≤ s.draw.1.toNat % openTickets s 256 ∧
      s.draw.1.toNat % openTickets s 256 < openTickets s (q + 1) := by
  rw [draw_snd, if_neg ht] at h
  obtain ⟨before, after, hl, hle, hlt⟩ := drawFrom_eq_some h
  obtain ⟨hq256, hq, rfl⟩ := filter_range_split hl
  rw [openTickets_succ hq]
  exact ⟨hq256, hq, hle, hlt⟩

section
variable {s : State} (hready : s.dispatchReady = true)
include hready

theorem lotteryDraw_colocated {gid : Nat} {g : Grid} (hc : s.colocate = some gid) (hg : s.grid gid = some g) :
    exec .lotteryDraw s = .next (s.sendBatch gid g) := by
  change execLotteryDraw s = _
  simp only [execLotteryDraw, hready, hc, hg, Bool.not_true, Bool.false_eq_true, if_false]

/-- No queue is drawn where a span has started or none is open. -/
theorem lotteryDraw_none (hc : s.colocate = none) (h : s.startSpan.colocate.isSome ∨ s.startSpan.draw.2 = none) :
    exec .lotteryDraw s = .next s.startSpan := by
  change execLotteryDraw s = _
  simp only [execLotteryDraw, hready, hc, Bool.not_true, Bool.false_eq_true, if_false]
  split
  · rfl
  · next hn => rw [h.resolve_left hn]

theorem lotteryDraw_drawn (hc : s.colocate = none) {q : Nat} (hn : s.startSpan.colocate = none) (hq : s.startSpan.draw.2 = some q) :
    exec .lotteryDraw s = .next (({ s.startSpan with regs := { s.startSpan.regs with lottery := s.startSpan.draw.1 } } : State).dispatchHead q) := by
  change execLotteryDraw s = _
  simp only [execLotteryDraw, hready, hc, hn, hq, Bool.not_true, Option.isSome_none, Bool.false_eq_true, if_false]

end

/-! ## Spans (R166) -/

/-- A span waits for a rank that has not reported. -/
theorem startSpan_of_missing {s : State} {h : SpanHold} {g : Grid} {r : Nat} (hs : s.span = some h) (hg : s.grid h.grid = some g)
    (hr : r < Rcd.size g.rcd) (hown : r ≠ Rcd.rank g.rcd) (hmiss : (h.spanId, r) ∉ s.readies) : s.startSpan = s := by
  have hwait : s.spanReady h = false := by
    simp only [State.spanReady, hg, List.all_eq_false, List.mem_range]
    exact ⟨r, hr, by simp [hown, hmiss]⟩
  simp only [State.startSpan, hs, hwait, Bool.false_and, Bool.false_eq_true, if_false]

/-- A report in the list of reports, once. -/
def addReady (rs : List (BitVec 16 × Nat)) (x : BitVec 16 × Nat) : List (BitVec 16 × Nat) := if x ∈ rs then rs else x :: rs

theorem mem_addReady {rs : List (BitVec 16 × Nat)} {x y : BitVec 16 × Nat} : y ∈ addReady rs x ↔ y = x ∨ y ∈ rs := by
  unfold addReady
  split
  · next h => exact ⟨.inr, fun hy => hy.elim (fun e => e ▸ h) id⟩
  · exact List.mem_cons

theorem spanReady_eq (s : State) (r : SpanRank) (id : BitVec 16) : exec (.spanReady r id) s =
    if s.plat.pkgCfg.getLsbD 63 = false then .next s
    else if s.senderOk r.sender.id r.sender.inc = false then .next s.addStale
    else .next ({ s with readies := addReady s.readies (id, r.rank) } : State).startSpan := by
  change execSpanReady r id s = _
  simp only [execSpanReady, flag_eq_getLsbD, Bool.not_eq_true']
  rfl

/-! ## Idle intervals of bound grids (R167) -/

section
variable {s u : State} {lq gid : Nat} {rest : List Nat} {g : Grid} {b : Binding} {h : QueueHead} {ps : List Place}
  (hq : AMap.getD s.queues lq [] = gid :: rest) (hg : s.grid gid = some g) (hb : g.binding = some b)
  (hh : s.queueHead (Via.dev s.liveDie) g.ctx .read b.queue = (u, .ok (h, ps)))
include hq hg hb hh

theorem boundIdleExpiry_eq : exec (.boundIdleExpiry lq) s =
    if h.tail ≠ b.tail then .next (u.updGrid gid (fun x => { x with
      binding := some { b with tail := h.tail, lastPush := u.gtb, idleGone := false } }))
    else if b.idle ≠ 0 ∧ b.lastPush.toNat + b.idle.toNat ≤ u.gtb.toNat then
      .next (u.updGrid gid (fun x => { x with binding := some { b with idleGone := true } }))
    else .next u := by
  change execBoundIdleExpiry lq s = _
  simp only [execBoundIdleExpiry, hq, hg, hb, hh, List.head?_cons, Bool.and_eq_true, bne_iff_ne, decide_eq_true_eq]

end

/-! ## The end of a grid (R168) -/

section
variable {s : State} {gid : Nat} {g : Grid} (hg : s.grid gid = some g)
include hg

theorem grid_updGrid_self (f : Grid → Grid) : (s.updGrid gid f).grid gid = some (f g) := by
  simp only [State.updGrid, hg]
  exact AMap.find_put_self _ _ _

theorem gridEnd_living (h : g.allOut = false ∨ s.gridLives gid = true) : exec (.gridEnd gid) s = .next s := by
  have hlives : (!g.allOut || s.gridLives gid) = true := by
    rw [Bool.or_eq_true, Bool.not_eq_true']
    exact h
  change execGridEnd gid s = _
  simp only [execGridEnd, hg, hlives, if_true]

/-- The write-backs begin, and the grid keeps their completion time. -/
theorem gridEnd_begins (hout : g.allOut = true) (hgone : s.gridLives gid = false) (he : g.ending = none) :
    ∃ t tc, exec (.gridEnd gid) s = .next t ∧ t.grid gid = some { g with ending := some tc } ∧ s.gtb.toNat ≤ tc.toNat := by
  have hx : exec (.gridEnd gid) s = .next ((s.pushAll g.coresRan).1.updGrid gid (fun x => { x with
      ending := some (s.pushAll g.coresRan).2 })) := by
    change execGridEnd gid s = _
    simp only [execGridEnd, hg, hout, hgone, he, Bool.not_true, Bool.or_self, Bool.false_eq_true, if_false]
  have hpushed : (s.pushAll g.coresRan).1.grid gid = some g := by
    rw [State.grid, pushAll_grids]
    exact hg
  exact ⟨_, _, hx, grid_updGrid_self hpushed _, gtb_le_pushAll s _⟩

theorem gridEnd_waits {tc : Word} (he : g.ending = some tc) (hle : s.gtb.toNat ≤ tc.toNat) : exec (.gridEnd gid) s = .next s := by
  change execGridEnd gid s = _
  simp only [execGridEnd, hg, he, hle, if_true, ite_self]

theorem gridEnd_over {tc : Word} (hout : g.allOut = true) (hgone : s.gridLives gid = false) (he : g.ending = some tc)
    (hlt : tc.toNat < s.gtb.toNat) : exec (.gridEnd gid) s =
      .next { s.writeEnd g.ctx g.rcd gid g.status g.losts (g.lostId.getD 0) g.drops with
        grids := AMap.drop (s.writeEnd g.ctx g.rcd gid g.status g.losts (g.lostId.getD 0) g.drops).grids gid,
        plans := AMap.drop (s.writeEnd g.ctx g.rcd gid g.status g.losts (g.lostId.getD 0) g.drops).plans gid } := by
  change execGridEnd gid s = _
  simp only [execGridEnd, hg, hout, hgone, he, Nat.not_le.2 hlt, Bool.not_true, Bool.or_self, Bool.false_eq_true, if_false]

end

/-! ## PRE_CTL (R169, R170) -/

theorem restAges_preOp (s : State) (c : Nat) : (s.restAges c).preOp = s.preOp := State.updCore_preOp s c _
theorem restAges_suspended (s : State) (c : Nat) : (s.restAges c).suspended = s.suspended := State.updCore_suspended s c _

theorem suspend_preOp (s : State) (o : PreOp) : (s.suspend o).preOp = some o :=
  foldl_keeps State.preOp (fun (t : State) (k : Nat × Core) => restAges_preOp t k.1) _ _

theorem mem_suspend_suspended (s : State) (o : PreOp) : o.ctx ∈ (s.suspend o).suspended := by
  have hkeep : (s.suspend o).suspended = if o.ctx ∈ s.suspended then s.suspended else o.ctx :: s.suspended :=
    foldl_keeps State.suspended (fun (t : State) (k : Nat × Core) => restAges_suspended t k.1) _ _
  rw [hkeep]
  split
  · assumption
  · exact List.mem_cons_self

theorem preErr_err (s : State) : s.preErr.plat.preCtl.getLsbD 7 = true := by
  have hbit : (0x80 : Word).getLsbD 7 = true := by decide
  simp only [State.preErr, BitVec.getLsbD_or, hbit, Bool.or_true]

theorem putPre_frame (s : State) (v : Word) : s.putPre v = { s with plat := (s.putPre v).plat } := rfl

/-- Setting ERR changes the platform's part of the state alone. -/
theorem preErr_frame {s t : State} (h : ∃ x, t = { s with plat := x }) : t.preErr = { s with plat := t.preErr.plat } := by
  obtain ⟨x, rfl⟩ := h
  rfl

/-- GO while an operation is in progress sets ERR, and does nothing else (R169). -/
theorem writePre_busy {s : State} {v : Word} {o : PreOp} (hgo : flag v 0 = true) (hbusy : s.preOp = some o) :
    s.writePre v = (s.putPre v).preErr := by
  have hrefused : s.preRefused v = true := by
    simp only [State.preRefused, hbusy, Option.isSome_some, Bool.true_or]
  simp only [State.writePre, hgo, hrefused, Bool.not_true, Bool.false_eq_true, if_false, if_true]

theorem preFields_op (v : Word) : (preFields v).op = fld v 24 4 := rfl
theorem preFields_scope (v : Word) : (preFields v).scope = fld v 28 2 := rfl

/-- GO of a SAVE that is accepted begins it (R169). -/
theorem writePre_accepted {s : State} {v : Word} (hgo : flag v 0 = true) (hfree : s.preOp = none) (hscope : fld v 28 2 ≠ 3)
    (hop : fld v 24 4 = 1) : s.writePre v = (s.putPre v).preStart v := by
  have hok : s.preRefused v = false := by
    simp [State.preRefused, hfree, preFields_op, preFields_scope, hop, hscope]
  simp only [State.writePre, hgo, hok, Bool.not_true, Bool.false_eq_true, if_false]

/-- A SAVE begins by suspending its context (R170). -/
theorem preStart_save (s : State) {v : Word} (hop : fld v 24 4 = 1) : ∃ t : State, s.preStart v = t.suspend (preFields v) := by
  simp only [State.preStart, preFields_op, hop]
  exact ⟨_, rfl⟩

/-! ## Resume commands (R347) -/

/-- A pop of RQ acts on the actions of its event alone. -/
theorem actsWhen_of_resumeStep {i : Instr} {acts : Nat → Bool} {ctx : BitVec 12} {P : State → Prop}
    (hx : ∀ s, exec i s = resumeStep acts ctx s) (hP : ∀ s, P s ↔ (s.headAction ctx).any acts = true) :
    ActsWhen i P (fun s => s.popResume ctx) := by
  intro s
  rw [hx, hP]
  unfold resumeStep
  cases s.headAction ctx with
  | none => exact ⟨fun h => (Bool.false_ne_true h).elim, fun _ => rfl⟩
  | some a => exact ⟨fun h => if_pos h, fun h => if_neg h⟩

/-! ## The heads of engine queues (R102) -/

/-- A join that is not at the head of all its queues holds the queue. -/
theorem queueStep_join_waits {s : State} {c g q : Nat} {x : Command} {xs : List Command} {id : Nat} {m : BitVec 7}
    (hq : (s.group c g).queues.getD q [] = x :: xs) (hb : x.body = .join id m) (hj : s.joinOver c g id m = false) :
    s.queueStep c g q = s := by
  simp only [State.queueStep, hq, hb, hj, Bool.false_eq_true, if_false]

end Sys2Proof.Machine.DispatchSteps

open Sys2Proof Sys2Proof.Machine Sys2Proof.Machine.FabricSteps Sys2Proof.Machine.DispatchSteps

/-- Settles O49: clause by clause, each event by the lemma that says what it makes of the state. -/
theorem dispatchSteps : Obligations.DispatchSteps := by
  unfold Obligations.DispatchSteps
  refine ⟨fun s h => ?locked, fun s gid g hr hc hg => lotteryDraw_colocated hr hc hg, fun s hr hc => ?draws, fun s q h => ?drawn,
    fun s d => ?placement, fun s r id => ?ready, fun s h g r hs hg hr hown hmiss => startSpan_of_missing hs hg hr hown hmiss,
    fun s u lq gid rest g b h ps hq hg hb hh => ?idle, fun s gid g hg => ?ending, fun v => ?save, fun v => ?restore, fun v => ?kill,
    fun s v o hgo hbusy => ?busy, fun s v hgo hfree hscope hop => ?accepted, fun s => ?written, fun ctx => ?resumes, fun ctx => ?ends,
    fun ctx => ?kills, fun c g q => actsWhen_of_ite fun _ => rfl, fun s c g q x xs id m hq hb hj => queueStep_join_waits hq hb hj⟩
  case locked =>
    change execLotteryDraw s = _
    simp only [execLotteryDraw, h, Bool.not_false, if_true]
  case draws => exact ⟨fun h => lotteryDraw_none hr hc h, fun q hn hq => lotteryDraw_drawn hr hc hn hq⟩
  case drawn =>
    change q < 256 ∧ s.drawable q = true ∧ _ ∧ (openTickets s 256 = 0 → _) ∧ (openTickets s 256 ≠ 0 → openTickets s q ≤ _ ∧ _)
    by_cases ht : openTickets s 256 = 0
    · obtain ⟨hlt, hq, hleast⟩ := draw_without_tickets h ht
      exact ⟨hlt, hq, rfl, fun _ => hleast, fun hne => absurd ht hne⟩
    · obtain ⟨hlt, hq, hle, hpast⟩ := draw_with_tickets h ht
      exact ⟨hlt, hq, rfl, fun hz => absurd hz ht, fun _ => ⟨hle, hpast⟩⟩
  case placement =>
    change execClusterPlacement d s = _
    cases hp : s.preOp with
    | none => simp only [execClusterPlacement, hp]
    | some o =>
      simp only [execClusterPlacement, hp, flag_eq_getLsbD, Bool.and_eq_true, beq_iff_eq, Option.isNone_iff_eq_none, Bool.not_eq_true', and_assoc]
      split
      · rfl
      · rfl
  case ready =>
    rw [spanReady_eq]
    refine ⟨fun hoff => if_pos hoff, fun hon hs => ?_, fun hon hs => ⟨addReady s.readies (id, r.rank), fun x => mem_addReady, ?_⟩⟩
    · simp only [hon, hs, Bool.true_eq_false, if_false, if_true]
    · simp only [hon, hs, Bool.true_eq_false, if_false]
  case idle =>
    rw [boundIdleExpiry_eq hq hg hb hh]
    exact ⟨fun hne => if_pos hne, fun he hout => (if_neg (not_not_intro he)).trans (if_pos hout),
      fun he hin => (if_neg (not_not_intro he)).trans (if_neg hin)⟩
  case ending =>
    exact ⟨gridEnd_living hg, gridEnd_begins hg, fun tc => gridEnd_waits hg, fun tc => gridEnd_over hg⟩
  case save =>
    refine actsWhen_of_ite fun s => ?_
    change execPreSave v s = _
    simp only [execPreSave, Bool.and_eq_true, beq_iff_eq]
  case restore =>
    refine actsWhen_of_ite fun s => ?_
    change execPreRestore v s = _
    simp only [execPreRestore, Bool.and_eq_true, beq_iff_eq]
  case kill =>
    refine actsWhen_of_ite fun s => ?_
    change execPreKill v s = _
    simp only [execPreKill, Bool.and_eq_true, beq_iff_eq]
  case busy =>
    rw [writePre_busy hgo hbusy]
    exact ⟨preErr_err _, preErr_frame ⟨_, putPre_frame s v⟩⟩
  case accepted =>
    obtain ⟨t, ht⟩ := preStart_save (s.putPre v) hop
    rw [writePre_accepted hgo hfree hscope hop, ht]
    exact ⟨suspend_preOp t _, mem_suspend_suspended t _⟩
  case written =>
    change (_ → execSaveRecordWrite s = _) ∧ (_ → execSaveRecordWrite s = _)
    cases hp : s.preOp with
    | none => simp [execSaveRecordWrite, hp]
    | some o => simp +contextual [execSaveRecordWrite, hp]
  case resumes => exact actsWhen_of_resumeStep (fun _ => rfl) fun s => by cases s.headAction ctx <;> simp
  case ends => exact actsWhen_of_resumeStep (fun _ => rfl) fun s => by cases s.headAction ctx <;> simp
  case kills => exact actsWhen_of_resumeStep (fun _ => rfl) fun s => by cases s.headAction ctx <;> simp
end

section
/-! PROOFS. VPUB and VRECL (R117, R118, R121, R330): the engine that accepts a lane, and what it answers. -/

namespace Sys2Proof.Machine.VersionWords

open Sys2Proof.Machine.HeldWords

/-! ## The lane that an engine accepts -/

/-- A lane that an engine accepts ends as its body says, by going on or by a trap, and the ferry's other lanes go on waiting. -/
theorem acceptLane_of_ends {s t : State} {c n p : Nat} {k : Checks} {body : Lane → State → LaneEnd} {l : Lane}
    (hl : l = { c := c, p := p, n := n, pos := (s.ferry c n).pos, pc := (s.ferry c n).pc })
    (hw : l.inWindow (s.acceptCount c n) k) (hg : l.guard (s.acceptCount c n) k = true)
    (h : l.Ends body (s.acceptCount c n) t) : s.acceptLane c n p k body = t.afterAccept c n p k.term := by
  subst hl
  simp only [State.acceptLane, Lane.perform_after (f := fun _ _ => t) hw fun _ => h, Lane.after, hg, if_true]

/-- An event that accepts the next lane of its words has the effect in which the body of the word ends. -/
theorem engineAccepts_of_ends {event : Nat → Nat → Instr} {want : Instr → Bool} {i : Instr} {k : Checks}
    {body : Lane → State → LaneEnd} {P : Lane → State → Prop} {f : Lane → State → State}
    (hx : ∀ s c g n p, s.nextAccept c g want = some (n, i, p) → exec (event c g) s = .next (s.acceptLane c n p k body))
    (h : ∀ l s, P l s → l.Ends body s (f l s)) : EngineAccepts event want i k P f := by
  intro s c g n p hn l u hw hg hP
  rw [hx s c g n p hn, acceptLane_of_ends rfl hw hg (h l u hP)]

/-- The word that VPUB_ACCEPT accepts. -/
def isVpubWord : Instr → Bool
  | .vpub _ => true
  | _ => false

/-- The word that VRECL_ACCEPT accepts. -/
def isVreclWord : Instr → Bool
  | .vrecl _ => true
  | _ => false

theorem exec_vpubAccept {o : OwnOp} {s : State} {c g n p : Nat} (hn : s.nextAccept c g isVpubWord = some (n, .vpub o, p)) :
    exec (.vpubAccept c g) s = .next (s.acceptLane c n p (checksOf (.vpub o) o.ctl [o.d.toNat]) (vpubBody o)) := by
  change (match s.nextAccept c g isVpubWord with
    | some (n, .vpub o, p) => _
    | _ => _) = _
  rw [hn]

theorem exec_vreclAccept {o : OwnOp} {s : State} {c g n p : Nat} (hn : s.nextAccept c g isVreclWord = some (n, .vrecl o, p)) :
    exec (.vreclAccept c g) s = .next (s.acceptLane c n p (checksOf (.vrecl o) o.ctl (regsDA o.d o.a)) (vreclBody o)) := by
  change (match s.nextAccept c g isVreclWord with
    | some (n, .vrecl o, p) => _
    | _ => _) = _
  rw [hn]

/-! ## What the engine answers -/

/-- The low bits of a field, as the model's bodies compute them. -/
theorem toNat_extractLsb'_zero {w : Nat} (x : BitVec w) (n : Nat) : (x.extractLsb' 0 n).toNat = x.toNat % 2 ^ n := by
  rw [toNat_extractLsb'_eq, Nat.pow_zero, Nat.div_one]

/-- The region that MOD names, and the version that A names (R330). -/
def wordRegion (o : OwnOp) : Nat := (o.mod.extractLsb' 0 4).toNat
def namedVersion (o : OwnOp) (l : Lane) (s : State) : Nat := ((l.reg s o.a).extractLsb' 0 16).toNat

theorem mod_eq_wordRegion (o : OwnOp) : o.mod.toNat % 16 = wordRegion o := (toNat_extractLsb'_zero o.mod 4).symm
theorem reg_mod_eq_namedVersion (o : OwnOp) (l : Lane) (s : State) : (l.reg s o.a).toNat % 65536 = namedVersion o l s :=
  (toNat_extractLsb'_zero (l.reg s o.a) 16).symm

/-- A region's entry of the version table, as its home die holds it. -/
def regionTable (l : Lane) (s : State) (r : Nat) : List Word := s.versionWords (r % 4) (l.ctx s) r

/-- The region and its engine take a lane's command: the home die lives, the entry is well formed, and no operation is in the way. -/
def Takes (l : Lane) (s : State) (r : Nat) : Prop := s.snapTrap (l.ctx s) r = none ∧ l.snapFree s r = true

/-- VPUB publishes the write version, but for a horizon whose age is 32,768 (R117, R118). -/
theorem vpubBody_eq {o : OwnOp} {l : Lane} {s : State} {r : Nat} (hr : wordRegion o = r) (hf : Takes l s r) {t : List Word}
    (ht : regionTable l s r = t) : vpubBody o l s =
      if VersionEntry.horizon t = 2 ^ 15 then .trap s (windowTrap r t)
      else .go (l.put ((s.accepted l r (.vpub (r % 4) r) none).putVersion (l.ctx s) r
        (VersionEntry.with t ((VersionEntry.wv t + 1) % 65536) (VersionEntry.hz t))
        ((List.range 4).filter (fun d => d == r % 4 || s.coin d 2))) o.ctl.t o.d (wd (VersionEntry.wv t))) := by
  obtain ⟨hlive, hfree⟩ := hf
  unfold regionTable at ht
  simp only [vpubBody, mod_eq_wordRegion, hr, hlive, hfree, ht, Bool.not_true, Bool.false_eq_true, if_false]

/-- The age of the version that VRECL names decides what it does (R121). -/
theorem vreclBody_eq {o : OwnOp} {l : Lane} {s : State} {r : Nat} (hr : wordRegion o = r) (hf : Takes l s r) {t : List Word}
    (ht : regionTable l s r = t) {x b : Nat} (hx : namedVersion o l s = x) (hb : VersionEntry.age t x = b) : vreclBody o l s =
      if b = 0 ∨ 2 ^ 15 ≤ b then .trap s (windowTrap r t)
      else if VersionEntry.horizon t ≤ b then .go (l.put s o.ctl.t o.d 1)
      else .go (l.put ((s.accepted l r (.vrecl (r % 4) r (BitVec.ofNat 16 x)) (some 0)).putVersion (l.ctx s) r
        (VersionEntry.with t (VersionEntry.wv t) x) (List.range 4)) o.ctl.t o.d 0) := by
  obtain ⟨hlive, hfree⟩ := hf
  unfold regionTable at ht
  simp only [vreclBody, mod_eq_wordRegion, reg_mod_eq_namedVersion, hr, hlive, hfree, ht, hx, hb, Bool.not_true,
    Bool.false_eq_true, if_false]

end Sys2Proof.Machine.VersionWords

open Sys2Proof Sys2Proof.Machine Sys2Proof.Machine.RadianceWords Sys2Proof.Machine.VersionWords

/-- Settles O43: each word waits for its engine, and each answer is the branch of its body that the age of a version selects. -/
theorem versionsPublished : Obligations.VersionsPublished := by
  unfold Obligations.VersionsPublished
  refine ⟨fun o _ => ⟨?pubWaits, ?published, ?pubTraps⟩, fun o _ => ⟨?reclWaits, ?reclaimed, ?already, ?reclTraps⟩⟩
  case pubWaits => exact waitsForEngine_of_issueAccept (body := vpubBody o) (fun _ => rfl)
  case published =>
    refine engineAccepts_of_ends (fun s c g n p => exec_vpubAccept) fun l s ⟨hf, hyoung⟩ => .inl ?_
    exact (vpubBody_eq rfl hf rfl).trans (if_neg hyoung)
  case pubTraps =>
    refine engineAccepts_of_ends (fun s c g n p => exec_vpubAccept) fun l s ⟨hf, hold⟩ => .inr (.inr (.inr ⟨s, _, ?_, rfl⟩))
    exact (vpubBody_eq rfl hf rfl).trans (if_pos hold)
  case reclWaits => exact waitsForEngine_of_issueAccept (body := vreclBody o) (fun _ => rfl)
  case reclaimed =>
    refine engineAccepts_of_ends (fun s c g n p => exec_vreclAccept) fun l s ⟨hf, hpos, hlt, hyounger⟩ => .inl ?_
    rw [vreclBody_eq rfl hf rfl rfl rfl]
    exact (if_neg (not_or.2 ⟨Nat.ne_of_gt hpos, Nat.not_le.2 hlt⟩)).trans (if_neg (Nat.not_le.2 hyounger))
  case already =>
    refine engineAccepts_of_ends (fun s c g n p => exec_vreclAccept) fun l s ⟨hf, hpos, hlt, holder⟩ => .inl ?_
    rw [vreclBody_eq rfl hf rfl rfl rfl]
    exact (if_neg (not_or.2 ⟨Nat.ne_of_gt hpos, Nat.not_le.2 hlt⟩)).trans (if_pos holder)
  case reclTraps =>
    refine engineAccepts_of_ends (fun s c g n p => exec_vreclAccept) fun l s ⟨hf, hout⟩ => .inr (.inr (.inr ⟨s, _, ?_, rfl⟩))
    exact (vreclBody_eq rfl hf rfl rfl rfl).trans (if_pos hout)
end

section
/-! PROOFS. LNCH (R156 to R158, R334): what a thread's LAUNCH, BIND and UNBIND give, and a grid that is accepted. -/

namespace Sys2Proof.Machine.LaunchWords

open Sys2Proof.Machine.HeldWords

/-- The binding that a word asks for: BIND names a queue header and an idle interval, LAUNCH names none (R334). -/
def bindArgs (o : OwnOp) (bind : Bool) (l : Lane) (s : State) : Option BindArgs :=
  if bind then some (l.reg s o.b, lo32 (l.reg s o.c)) else none

theorem lo32_eq_extractLsb' (w : Word) : lo32 w = (w.extractLsb' 0 32).toNat := by
  rw [toNat_extractLsb'_eq, Nat.pow_zero, Nat.div_one, lo32]

theorem put_eq_updFibre (l : Lane) (s : State) (t : Bool) (d : BitVec 8) (v : Word) :
    l.put s t d v = s.updFibre l.c l.p (fun f => l.writes s t d v f) :=
  Lane.put_finds (Lane.Finds.refl l s) t d v

/-! ## What a lane of each word does -/

section
variable {o : OwnOp} {l : Lane} {s : State}

/-- A record that is read is launched, and D holds the answer (R156, R334). -/
theorem launchBody_read {bind : Bool} {t : State} {r : List Word} (ha : (l.reg s o.a).toNat % 128 = 0)
    (hr : s.recordRead l.c l.p (l.ctx s) (l.reg s o.a) = (t, some (.ok r))) :
    launchBody o bind l s =
      .go (l.put (t.launch (dieOf l.c) (l.ctx t) r (bindArgs o bind l t)).1 o.ctl.t o.d
        (t.launch (dieOf l.c) (l.ctx t) r (bindArgs o bind l t)).2) := by
  simp only [launchBody, ha, hr, ne_eq, not_true_eq_false, if_false, bindArgs]

/-- A record that is not aligned traps before it is read (R156). -/
theorem launchBody_misaligned {bind : Bool} (ha : (l.reg s o.a).toNat % 128 ≠ 0) :
    launchBody o bind l s = .trap s { code := .misaligned, info0 := l.reg s o.a, info1 := 0 } := by
  simp only [launchBody, ha, ne_eq, not_false_eq_true, if_true]

end

/-! ## LAUNCH and BIND -/

section
variable {i : Instr} {o : OwnOp} {bind : Bool} (hx : ∀ s, exec i s = issue (lnchChecks i o) (launchBody o bind) s)
include hx

/-- A word that reads its record launches it with the binding `b`, which is the one that its form asks for. -/
theorem performs_launch {b : Lane → State → Option BindArgs} (hb : ∀ l s, b l s = bindArgs o bind l s) :
    Performs i (lnchChecks i o)
      (fun l s => (l.reg s o.a).toNat % 128 = 0 ∧ ∃ t r, s.recordRead l.c l.p (l.ctx s) (l.reg s o.a) = (t, some (.ok r)))
      (fun l s => match s.recordRead l.c l.p (l.ctx s) (l.reg s o.a) with
        | (t, some (.ok r)) =>
          let x := t.launch (dieOf l.c) (l.ctx t) r (b l t)
          x.1.updFibre l.c l.p (fun f => l.writes x.1 o.ctl.t o.d x.2 f)
        | _ => s) := by
  refine performs_of_issue hx fun l s _ ⟨ha, t, r, hr⟩ => .inl ?_
  simp only [launchBody_read ha hr, hr, hb, put_eq_updFibre]

theorem performs_launch_misaligned :
    Performs i (lnchChecks i o) (fun l s => (l.reg s o.a).toNat % 128 ≠ 0)
      (fun l s => s.takeTrap l.c l.p l.pc { code := .misaligned, info0 := l.reg s o.a, info1 := 0 }) :=
  performs_of_issue hx fun _ s _ ha => .inr (.inr (.inr ⟨s, _, launchBody_misaligned ha, rfl⟩))

end

/-! ## A grid that is accepted (R156, R158) -/

/-- An accepted launch without a binding takes the next grid ID, joins the end of its queue, and changes nothing else. -/
theorem launch_accepted {s t : State} {d : Nat} {ctx : BitVec 12} {r : List Word} {ids : List Nat}
    (h : s.checkLaunch d ctx r none = .accept t ids none) :
    s.launch d ctx r none =
      ({ t with
        nextGrid := (t.nextGrid + 1) % 2 ^ 32,
        grids := AMap.put t.grids t.nextGrid (newGrid { t with nextGrid := (t.nextGrid + 1) % 2 ^ 32 } r ids none),
        queues := AMap.put t.queues (Rcd.lq r) (AMap.getD t.queues (Rcd.lq r) [] ++ [t.nextGrid]) }, wd t.nextGrid) := by
  simp only [State.launch, h]

end Sys2Proof.Machine.LaunchWords

open Sys2Proof Sys2Proof.Machine Sys2Proof.Machine.LaunchWords

/-- Settles O47: each word by what its body gives a lane, the accepted launch by the state that it leaves. -/
theorem launchOperations : Obligations.LaunchOperations := by
  unfold Obligations.LaunchOperations
  refine ⟨fun o _ => ?launch, fun o _ => ?bind, fun o _ => ?unbind, fun s d ctx r t ids h => ?accepted⟩
  case launch =>
    have hx : ∀ s, exec (.lnchLaunch o) s = issue (lnchChecks (.lnchLaunch o) o) (launchBody o false) s := fun _ => rfl
    exact ⟨performs_launch hx fun _ _ => rfl, performs_launch_misaligned hx⟩
  case bind =>
    have hx : ∀ s, exec (.lnchBind o) s = issue (lnchChecks (.lnchBind o) o) (launchBody o true) s := fun _ => rfl
    refine ⟨performs_launch hx fun l s => ?_, performs_launch_misaligned hx⟩
    rw [bindArgs, if_pos rfl, lo32_eq_extractLsb']
  case unbind =>
    refine performs_of_issue (body := unbindBody o) (fun _ => rfl) fun l s _ _ => .inl ?_
    simp only [unbindBody, put_eq_updFibre, lo32_eq_extractLsb']
  case accepted =>
    rw [launch_accepted h]
    exact ⟨rfl, rfl, AMap.getD_put_self _ _ _ _, rfl⟩
end
